-- ==== Sys2Proof/Word.lean ====
section
/-! DEFINITION. The word types of the Vidripen: bytes, 32-bit register words, 64-bit pairs (02 R33, R35; 03 R59). -/
namespace Sys2Proof

/-- One byte of memory. -/
abbrev Byte := BitVec 8
/-- A thread, crew or index register (R33). -/
abbrev Word := BitVec 32
/-- A 64-bit value: an even-odd pair of registers (R35), an address, a special value in its `.64` form (R41). -/
abbrev DWord := BitVec 64
/-- A set of lanes of one crew, bit l for lane l (R41, `amask`). -/
abbrev Mask := BitVec 32

end Sys2Proof
end

