-- ==== Sys2Proof/Config.lean ====
section
/-! DEFINITION. What the part fixes (00 R2, 04, 08, 14 constants) and what the spec leaves open: every `opaque` below is a
free value, named in an entry of the assumption log, of which nothing can be proved. -/
namespace Sys2Proof.Config

/-- Logical cores of a cluster, a die (R1). -/
def coresPerCluster : Nat := 16
def coresPerDie : Nat := 64
/-- Entries of a lane bank (R50). -/
def bankEntries : Nat := 4096
/-- What admission may reserve of a bank (R50). -/
def bankReservable : Nat := 3968
/-- Crew slots of a core (R9). -/
def crewSlots : Nat := 64
/-- Scratchpad of a core in KiB, tiles of a core (R2). -/
def scratchKiB : Nat := 384
def coreTiles : Nat := 16
/-- Entries of an accumulator queue (R212), copies of one thread (R233), sealed batches of one thread (R235). -/
def accQueue : Nat := 16
def threadCopies : Nat := 64
def threadBatches : Nat := 8
/-- Operand-log slots that an issue may take (R305). -/
def logSlots : Nat := 11
/-- TLB entries of a core and of a die (R300). -/
def coreTlb : Nat := 512
def llTlb : Nat := 8192
/-- Capacity of a tower in 64 KiB granules: 48 GiB (R2). -/
def towerGranules : Nat := 786432
/-- Places of a queue engine (R281). -/
def engineEntries : Nat := 64
/-- Cycles of 1 µs at 1 GHz (R5). -/
def microsecond : Nat := 1000

/-- Lines of 1 KiB of a core's L1 data cache: 128 KiB (R2). -/
def l1Lines : Nat := 128
/-- Sets of an L2 slice: 384 MiB a die, 64 slices, 12 ways (R2, R91). -/
def l2Sets : Nat := 512
/-- Ways of an L2 set and of a last-level set (R89), and last-level sets of a base die: 256 MiB, 16 ways (R2). -/
def l2Ways : Nat := 12
def llcWays : Nat := 16
def llcSets : Nat := 16384

/-- The set of an L2 slice that holds a line, modulo `l2Sets`: the spec gives the slice (R333), not the set. Free (log 9). -/
opaque l2Set (line seed : Nat) : Nat
/-- The set of a base die's last-level cache that holds a line of flat memory or of the tensor store, modulo `llcSets`. Free (log 9). -/
opaque llcSet (ten : Bool) (line : Nat) : Nat
/-- The line that a full L1 gives up for a new one, modulo `l1Lines`: the spec gives no rule. Free (log 9). -/
opaque l1Victim (core line cycle : Nat) : Nat
/-- Lines of 1 KiB of a core's L1 instruction cache: 64 KiB (R2), and the line that a full one gives up for a new one, modulo
`l1iLines`: the spec gives neither its associativity nor a rule. Free (log 9). -/
def l1iLines : Nat := 64
opaque l1iVictim (core line cycle : Nat) : Nat
/-- Whether the root of trust accepts a firmware image (R370): ML-DSA-65 over SHAKE256, not in the spec. Free (log 8). -/
opaque imageVerifies (image : List Byte) : Bool
/-- Bytes of a response that the spec does not give: certificates, signatures, digests, key shares (R371), for a
request, its argument and the number of responses before it. Free (log 10). -/
opaque payload (request : String) (arg count : Nat) : List Nat
/-- The contents of the boot ROM (R371), which the spec does not give (log 10). -/
opaque bootRom : List Byte
/-- A dword of a function's configuration space as it reads, from what has been written to it: the spec gives no layout (log 19). -/
opaque confRead (fn off : Nat) (written : List (Nat × Nat)) : Nat
/-- Which of the events that may happen next does, at the n-th choice: the spec fixes no order and no latency. Free (log 1). -/
opaque pick (n : Nat) : Nat
/-- A value the spec leaves open after an operation, the n-th that a run draws (log 3). -/
opaque free (n : Nat) : BitVec 64
/-- Byte `k` of a part of a crew block whose contents R290 lists and to which it gives no layout: crew state, lanes, gate frames (log 3). -/
opaque layout (part : Nat) (contents : List Nat) (k : Nat) : BitVec 8
/-- The world of a context, fixed when it is created (R248): the spec does not say who chooses it. Free (log 18). -/
opaque secureCtx (id : Nat) : Bool

end Sys2Proof.Config
end

