-- ==== Sys2Proof/Machine/Bits.lean ====
section
/-! DEFINITION. Bit fields, sign extension, byte order and lane masks (R5, R59, R131). -/
namespace Sys2Proof.Machine

/-- Field [lo + n − 1 : lo] of a number (R5). -/
def field (x lo n : Nat) : Nat := x / 2 ^ lo % 2 ^ n

/-- Bit n of a number. -/
def bit (x n : Nat) : Bool := x / 2 ^ n % 2 == 1

/-- The number of a truth value. -/
def ofBool (b : Bool) : Nat := if b then 1 else 0

/-- The two's-complement reading of the low w bits of x (R67). -/
def signed (w x : Nat) : Int :=
  let y := x % 2 ^ w
  if 2 ^ (w - 1) ≤ y then (y : Int) - (2 : Int) ^ w else (y : Int)

/-- The low w bits of an integer. -/
def wrap (w : Nat) (x : Int) : Nat := (x % (2 : Int) ^ w).toNat

/-- x with its field [lo + n − 1 : lo] replaced by v. -/
def setField (x lo n v : Nat) : Nat := x - field x lo n * 2 ^ lo + v % 2 ^ n * 2 ^ lo

/-- n bytes of a value, the least significant first (R59). -/
def toBytes : Nat → Nat → List Byte
  | 0, _ => []
  | n + 1, v => BitVec.ofNat 8 v :: toBytes n (v / 256)

/-- The value of little-endian bytes (R59). -/
def ofBytes : List Byte → Nat
  | [] => 0
  | b :: l => b.toNat + 256 * ofBytes l

/-- The lanes of a mask, ascending. -/
def lanesOf (m : Mask) : List Nat := (List.range 32).filter (fun l => m.getLsbD l)

/-- The mask of a list of lanes. -/
def maskOf (l : List Nat) : Mask := l.foldl (fun m k => m ||| BitVec.ofNat 32 (2 ^ k)) 0

/-- Number of one bits below w. -/
def popCount (w x : Nat) : Nat := ((List.range w).filter (bit x)).length

/-- XOR of numbers as bit strings. -/
def xorNat (a b : Nat) : Nat := (BitVec.ofNat 64 a ^^^ BitVec.ofNat 64 b).toNat

/-- AND of numbers as bit strings of 64 bits. -/
def andNat (a b : Nat) : Nat := (BitVec.ofNat 64 a &&& BitVec.ofNat 64 b).toNat

/-- OR of numbers as bit strings of 64 bits. -/
def orNat (a b : Nat) : Nat := (BitVec.ofNat 64 a ||| BitVec.ofNat 64 b).toNat

/-- The k-th value of a lane, 0 when absent. -/
def val (l : List Nat) (k : Nat) : Nat := (l[k]?).getD 0

end Sys2Proof.Machine
end

