-- ==== Sys2Proof/Machine/Numeric.lean ====
section
/-! DEFINITION. Number formats, rounding, conversion and exact arithmetic (03 R59 to R76, 09 R194 to R202). A finite value
is a sign, a natural number and a power of two; every operation is exact and rounds once. -/
namespace Sys2Proof.Machine

/-- Flag bits of R42. -/
def flNV : Nat := 1
def flDZ : Nat := 2
def flOF : Nat := 4
def flUF : Nat := 8
def flNX : Nat := 16
def flSAT : Nat := 32
def flZREAD : Nat := 64
def flXLANE : Nat := 128
def flHOLDX : Nat := 256
def flCSOVF : Nat := 512

/-- A result with the flags it raises. -/
abbrev FRes := Nat × Nat

/-- The OR of flag sets. -/
def orF (a b : Nat) : Nat := orNat a b

/-- A floating-point format (R60). -/
structure FFmt where
  e : Nat
  m : Nat
  bias : Nat
  /-- narrower than 16 bits: RoundTA and saturation (R69) -/
  narrow : Bool
  signed : Bool
  /-- an infinity and NaNs in the top exponent (R61) -/
  ieee : Bool
  /-- code of the largest finite value, of the canonical NaN -/
  max : Nat
  nan : Nat
deriving DecidableEq, Repr

def ffF64 : FFmt := ⟨11, 52, 1023, false, true, true, 0x7FEFFFFFFFFFFFFF, 0x7FF8000000000000⟩
def ffF32 : FFmt := ⟨8, 23, 127, false, true, true, 0x7F7FFFFF, 0x7FC00000⟩
def ffBF16 : FFmt := ⟨8, 7, 127, false, true, true, 0x7F7F, 0x7FC0⟩
def ffF16 : FFmt := ⟨5, 10, 15, false, true, true, 0x7BFF, 0x7E00⟩
def ffE4M3 : FFmt := ⟨4, 3, 7, true, true, false, 0x7E, 0x7F⟩
def ffE5M2 : FFmt := ⟨5, 2, 15, true, true, true, 0x7B, 0x7E⟩
def ffE2M1 : FFmt := ⟨2, 1, 1, true, true, false, 0x7, 0x0⟩
def ffE3M5 : FFmt := ⟨3, 5, 3, true, false, false, 0xFE, 0xFF⟩

/-- Position of the sign bit, and width of the magnitude. -/
def FFmt.mw (F : FFmt) : Nat := F.e + F.m

/-- A value: NaN, an infinity, or (−1)^neg × m × 2^e. -/
inductive FVal
  | nan
  | inf (neg : Bool)
  | fin (neg : Bool) (m : Nat) (e : Int)
deriving DecidableEq, Repr

/-- The value of an encoding (R60, R61). -/
def fdecode (F : FFmt) (x : Nat) : FVal :=
  let mag := x % 2 ^ F.mw
  let neg := F.signed && bit x F.mw
  let ex := mag / 2 ^ F.m
  let ma := mag % 2 ^ F.m
  let isNan :=
    if F.ieee then ex == 2 ^ F.e - 1 && ma != 0
    else if F == ffE4M3 then mag == 0x7F
    else if F == ffE3M5 then x % 256 == 0xFF
    else false
  if isNan then .nan
  else if F.ieee && ex == 2 ^ F.e - 1 then .inf neg
  else if ex == 0 then .fin neg ma (1 - (F.bias : Int) - F.m)
  else .fin neg (2 ^ F.m + ma) ((ex : Int) - F.bias - F.m)

/-- Sign bit in place. -/
def signBit (F : FFmt) (neg : Bool) : Nat := if neg && F.signed then 2 ^ F.mw else 0

def infCode (F : FFmt) (neg : Bool) : Nat := signBit F neg + (2 ^ F.e - 1) * 2 ^ F.m

/-- k = floor(n / (d × 2^q)) and whether the quotient is exact. -/
def scaleDiv (n d : Nat) (q : Int) : Nat × Nat × Nat :=
  let num := if q < 0 then n * 2 ^ (-q).toNat else n
  let den := if q < 0 then d else d * 2 ^ q.toNat
  (num / den, num % den, den)

/-- Round a quotient k with remainder r of den: to nearest, ties to even, or ties away from zero (R8, R69). -/
def roundK (narrow : Bool) (k r den : Nat) : Nat :=
  if 2 * r > den then k + 1
  else if 2 * r == den then (if narrow || k % 2 == 1 then k + 1 else k)
  else k

/-- floor(log2(n / d)) for positive n, d. -/
def log2Floor (n d : Nat) : Int :=
  let g : Int := (Nat.log2 n : Int) - Nat.log2 d
  let le := if g < 0 then decide (d ≤ n * 2 ^ (-g).toNat) else decide (d * 2 ^ g.toNat ≤ n)
  if le then g else g - 1

/-- The rounding of a positive magnitude n / d to a format, with OF, UF, NX (R69, R71). -/
def roundMag (F : FFmt) (neg : Bool) (n d : Nat) : FRes :=
  let E := log2Floor n d
  let emin : Int := 1 - (F.bias : Int)
  let top := if E < emin then emin else E
  let (k, r, den) := scaleDiv n d (top - F.m)
  let k' := roundK F.narrow k r den
  let code := k' + (top - emin).toNat * 2 ^ F.m
  let inexact := r != 0
  let tiny :=
    if E < emin - 1 then true
    else if E == emin - 1 then
      let (k2, r2, den2) := scaleDiv n d (E - F.m)
      roundK F.narrow k2 r2 den2 < 2 ^ (F.m + 1)
    else false
  if code > F.max then
    if F.narrow then (signBit F neg + F.max, flOF + flNX) else (infCode F neg, flOF + flNX)
  else (signBit F neg + code, (if inexact then flNX else 0) + (if inexact && tiny then flUF else 0))

/-- A value rounded to a format (R69), with its flags. -/
def fround (F : FFmt) (v : FVal) : FRes :=
  match v with
  | .nan => if F == ffE2M1 then (0, flNV) else (F.nan, 0)
  | .inf neg =>
    if F.narrow then
      if !F.signed && neg then (0xFF, flNV) else (signBit F neg + F.max, flOF)
    else (infCode F neg, 0)
  | .fin neg m e =>
    if m == 0 then (signBit F neg, 0)
    else if !F.signed && neg then (0xFF, flNV)
    else if e < 0 then roundMag F neg m (2 ^ (-e).toNat) else roundMag F neg (m * 2 ^ e.toNat) 1

/-! ### Exact operations -/

def FVal.isNan : FVal → Bool
  | .nan => true
  | _ => false

/-- Exact integers over a common power of two. -/
def alignE (a b : Int) : Int := if a ≤ b then a else b

def sInt (neg : Bool) (m : Nat) : Int := if neg then -(m : Int) else (m : Int)

/-- a + b, the flag of an invalid operation; a zero sum is +0 unless both are −0 (R71, R194). -/
def addV (a b : FVal) : FVal × Nat :=
  match a, b with
  | .nan, _ => (.nan, 0)
  | _, .nan => (.nan, 0)
  | .inf s, .inf t => if s == t then (.inf s, 0) else (.nan, flNV)
  | .inf s, .fin _ _ _ => (.inf s, 0)
  | .fin _ _ _, .inf t => (.inf t, 0)
  | .fin s m e, .fin t n f =>
    let g := alignE e f
    let x := sInt s (m * 2 ^ (e - g).toNat) + sInt t (n * 2 ^ (f - g).toNat)
    if x == 0 then (.fin (s && t && m == 0 && n == 0) 0 0, 0) else (.fin (decide (x < 0)) x.natAbs g, 0)

def negV : FVal → FVal
  | .nan => .nan
  | .inf s => .inf (!s)
  | .fin s m e => .fin (!s) m e

def absV : FVal → FVal
  | .nan => .nan
  | .inf _ => .inf false
  | .fin _ m e => .fin false m e

/-- a × b (R194). -/
def mulV (a b : FVal) : FVal × Nat :=
  match a, b with
  | .nan, _ => (.nan, 0)
  | _, .nan => (.nan, 0)
  | .inf s, .inf t => (.inf (s != t), 0)
  | .inf s, .fin t n _ => if n == 0 then (.nan, flNV) else (.inf (s != t), 0)
  | .fin s m _, .inf t => if m == 0 then (.nan, flNV) else (.inf (s != t), 0)
  | .fin s m e, .fin t n f => (.fin (s != t) (m * n) (if m * n == 0 then 0 else e + f), 0)

/-- a × b + c, exact (R194). A product that is NaN from a NaN operand sets no flag. -/
def fmaV (a b c : FVal) : FVal × Nat :=
  if a.isNan || b.isNan || c.isNan then (.nan, 0)
  else
    let (p, fl) := mulV a b
    if p.isNan then (.nan, fl) else addV p c

/-- Compare two values that are not NaN: −0 equals +0 (R198). -/
def ltV (a b : FVal) : Bool :=
  match a, b with
  | .inf s, .inf t => s && !t
  | .inf s, .fin _ _ _ => s
  | .fin _ _ _, .inf t => !t
  | .fin s m e, .fin t n f =>
    let g := alignE e f
    decide (sInt s (m * 2 ^ (e - g).toNat) < sInt t (n * 2 ^ (f - g).toNat))
  | _, _ => false

def eqV (a b : FVal) : Bool := !a.isNan && !b.isNan && !ltV a b && !ltV b a

def FVal.neg : FVal → Bool
  | .nan => false
  | .inf s => s
  | .fin s _ _ => s

/-- A float condition of R198. -/
def fcond (c : Nat) (a b : FVal) : Bool :=
  let n := a.isNan || b.isNan
  match c with
  | 0 => eqV a b
  | 1 => !eqV a b
  | 2 => !n && ltV a b
  | 3 => !n && !ltV b a
  | 4 => !n && ltV b a
  | 5 => !n && !ltV a b
  | 6 => !n
  | _ => n

/-- FMin and FMax of R182, on encodings: −0 is below +0, one NaN gives the other operand. -/
def fminmax (F : FFmt) (mx : Bool) (a b : Nat) : Nat :=
  let va := fdecode F a
  let vb := fdecode F b
  if va.isNan && vb.isNan then F.nan
  else if va.isNan then b
  else if vb.isNan then a
  else
    let aLow := ltV va vb || (eqV va vb && va.neg && !vb.neg)
    if mx then (if aLow then b else a) else (if aLow || eqV va vb && va.neg == vb.neg then a else b)

/-- A magnitude n / d that a rounded operation delivers, exact or standing for every value just above floor (sticky). -/
def roundQ (F : FFmt) (neg : Bool) (n d : Nat) : FRes := if n == 0 then (signBit F neg, 0) else roundMag F neg n d

/-- a / b (R194). Every infinite quotient sets DZ, as R194 says of a division, where R71 names a finite nonzero dividend (DEDUCED, log 100). An
exact zero quotient has the sign of the quotient (DESIGN CHOICE, log 124). -/
def fdivE (F : FFmt) (x y : Nat) : FRes :=
  match fdecode F x, fdecode F y with
  | .nan, _ => (F.nan, 0)
  | _, .nan => (F.nan, 0)
  | .inf _, .inf _ => (F.nan, flNV)
  | .inf s, .fin t _ _ => (infCode F (s != t), flDZ)
  | .fin s _ _, .inf t => (signBit F (s != t), 0)
  | .fin s m e, .fin t n f =>
    if n == 0 then (if m == 0 then (F.nan, flNV) else (infCode F (s != t), flDZ))
    else
      let g := e - f
      if g < 0 then roundQ F (s != t) m (n * 2 ^ (-g).toNat) else roundQ F (s != t) (m * 2 ^ g.toNat) n

/-- s = floor(√x) with a sticky half when the root is not exact, over 2^k: correctly rounds to fewer than k bits. -/
def stickyRoot (F : FFmt) (x : Nat) (k : Int) : FRes :=
  let s := Nat.sqrt x
  let n := if s * s == x then 2 * s else 2 * s + 1
  let k' := k - 1
  if k' < 0 then roundQ F false n (2 ^ (-k').toNat) else roundQ F false (n * 2 ^ k'.toNat) 1

/-- √a (R194). -/
def fsqrtE (F : FFmt) (x : Nat) : FRes :=
  match fdecode F x with
  | .nan => (F.nan, 0)
  | .inf s => if s then (F.nan, flNV) else (infCode F false, 0)
  | .fin s m e =>
    if m == 0 then (signBit F s, 0)
    else if s then (F.nan, flNV)
    else
      -- m × 2^e = x' × 2^(2h) with x' carrying 2 × 140 extra bits
      let e' := if e % 2 == 0 then e else e - 1
      let m' := if e % 2 == 0 then m else 2 * m
      stickyRoot F (m' * 2 ^ 280) (e' / 2 - 140)

/-- 1 / a (R196). -/
def frcpE (F : FFmt) (x : Nat) : FRes :=
  match fdecode F x with
  | .nan => (F.nan, 0)
  | .inf s => (signBit F s, 0)
  | .fin s m e =>
    if m == 0 then (infCode F s, flDZ)
    else if e < 0 then roundQ F s (2 ^ (-e).toNat) m else roundQ F s 1 (m * 2 ^ e.toNat)

/-- 1 / √a (R196). -/
def frsqE (F : FFmt) (x : Nat) : FRes :=
  match fdecode F x with
  | .nan => (F.nan, 0)
  | .inf s => if s then (F.nan, flNV) else (0, 0)
  | .fin s m e =>
    if m == 0 then (infCode F s, flDZ)
    else if s then (F.nan, flNV)
    else
      let e' := if e % 2 == 0 then e else e - 1
      let m' := if e % 2 == 0 then m else 2 * m
      -- 1/√(m' 2^e') = √(2^600 / m') × 2^(−e'/2 − 300)
      let q := 2 ^ 600 / m'
      let s := Nat.sqrt q
      let n := if s * s * m' == 2 ^ 600 then 2 * s else 2 * s + 1
      let k := -(e' / 2) - 301
      if k < 0 then roundQ F false n (2 ^ (-k).toNat) else roundQ F false (n * 2 ^ k.toNat) 1

/-! ### Functions whose values are irrational: intervals refined until the floor is known -/

/-- An interval [lo, hi] of fixed-point numbers with P fraction bits that holds 2^(f / 2^t): a square root for each bit
of f, the most significant first. `root` holds 2^(1/2^j). -/
def exp2Frac (P : Nat) : Nat → Nat → (Nat × Nat) → (Nat × Nat) → Nat × Nat
  | 0, _, _, acc => acc
  | t + 1, f, root, acc =>
    let r := (Nat.sqrt (root.1 * 2 ^ P), Nat.sqrt (root.2 * 2 ^ P) + 1)
    let acc' := if f / 2 ^ t % 2 == 1 then (acc.1 * r.1 / 2 ^ P, acc.2 * r.2 / 2 ^ P + 1) else acc
    exp2Frac P t f r acc'

/-- The floor of 2^(f / 2^t) × 2^K, refining the interval. -/
def exp2Floor (t f K : Nat) : Nat → Nat → Nat
  | 0, P => (exp2Frac P t f (2 * 2 ^ P, 2 * 2 ^ P) (2 ^ P, 2 ^ P)).1 / 2 ^ (P - K)
  | fuel + 1, P =>
    let i := exp2Frac P t f (2 * 2 ^ P, 2 * 2 ^ P) (2 ^ P, 2 ^ P)
    let lo := i.1 / 2 ^ (P - K)
    if lo == i.2 / 2 ^ (P - K) then lo else exp2Floor t f K fuel (2 * P)

/-- 2^a (R196). An exponent beyond ±5,000 rounds as ±5,000 does. -/
def fexp2E (F : FFmt) (x : Nat) : FRes :=
  match fdecode F x with
  | .nan => (F.nan, 0)
  | .inf s => if s then (0, 0) else (infCode F false, 0)
  | .fin s m e =>
    if m == 0 then fround F (.fin false 1 0)
    else if e > 20 then (if s then fround F (.fin false 1 (-5000)) else fround F (.fin false 1 5000))
    else
      let t := if e < 0 then (-e).toNat else 0
      let v : Int := sInt s (if e < 0 then m else m * 2 ^ e.toNat)
      let i := v / (2 ^ t : Nat)
      let f := (v % (2 ^ t : Nat)).toNat
      let i' : Int := if i > 5000 then 5000 else if i < -5000 then -5000 else i
      if f == 0 then fround F (.fin false 1 i')
      else
        let K := t + 130
        let n := exp2Floor t f K 4 (K + t + 64)
        fround F (.fin false (2 * n + 1) (i' - K - 1))

/-- The first K fraction bits of log2 y, y in [1, 2) held in [lo, hi] with P fraction bits; none if they are not known. -/
def log2Bits (P : Nat) : Nat → Nat → Nat → Nat → Option Nat
  | 0, _, _, acc => some acc
  | k + 1, lo, hi, acc =>
    let lo' := lo * lo / 2 ^ P
    let hi' := hi * hi / 2 ^ P + 1
    if lo' ≥ 2 * 2 ^ P then log2Bits P k (lo' / 2) (hi' / 2 + 1) (2 * acc + 1)
    else if hi' < 2 * 2 ^ P then log2Bits P k lo' hi' (2 * acc)
    else none

/-- The same from below alone: the fraction bits of a number that is less than y by a part of 2^P. -/
def log2Low (P : Nat) : Nat → Nat → Nat → Nat
  | 0, _, acc => acc
  | k + 1, y, acc =>
    let y' := y * y / 2 ^ P
    if y' ≥ 2 * 2 ^ P then log2Low P k (y' / 2) (2 * acc + 1) else log2Low P k y' (2 * acc)

def log2Floor' (K m b : Nat) : Nat → Nat → Nat
  | 0, P => log2Low P K (m * 2 ^ P / 2 ^ b) 0
  | fuel + 1, P =>
    match log2Bits P K (m * 2 ^ P / 2 ^ b) (m * 2 ^ P / 2 ^ b) 0 with
    | some r => r
    | none => log2Floor' K m b fuel (2 * P)

/-- log2 a (R196). -/
def flog2E (F : FFmt) (x : Nat) : FRes :=
  match fdecode F x with
  | .nan => (F.nan, 0)
  | .inf s => if s then (F.nan, flNV) else (infCode F false, 0)
  | .fin s m e =>
    if m == 0 then (infCode F true, flDZ)
    else if s then (F.nan, flNV)
    else
      let b := Nat.log2 m
      let i : Int := e + b
      if m == 2 ^ b then fround F (.fin (decide (i < 0)) i.natAbs 0)
      else
        let K := 2 * F.m + 40
        let r := log2Floor' K m b 6 (3 * K)
        let S : Int := 2 * (i * (2 ^ K : Nat) + r) + 1
        fround F (.fin (decide (S < 0)) S.natAbs (-(K : Int) - 1))

/-- Σ r^n / n! for n below `fuel`, floored term by term, with P fraction bits. -/
def expSeries (P r : Nat) : Nat → Nat → Nat → Nat → Nat
  | 0, _, _, acc => acc
  | fuel + 1, n, term, acc => expSeries P r fuel (n + 1) (term * r / 2 ^ P / (n + 1)) (acc + term)

/-- Square an interval k times. -/
def sqTimes (P : Nat) : Nat → Nat × Nat → Nat × Nat
  | 0, i => i
  | k + 1, i => sqTimes P k (i.1 * i.1 / 2 ^ P, i.2 * i.2 / 2 ^ P + 1)

/-- tanh of a positive m × 2^e, 2^−64 ≤ value < 64, as floor(tanh × 2^K), from an interval of exp(2a). -/
def tanhFloor (m : Nat) (e : Int) (K : Nat) : Nat → Nat → Nat
  | 0, _ => 0
  | fuel + 1, P =>
    let g : Int := (P : Int) + e + 1 - 12
    let r := if g < 0 then m / 2 ^ (-g).toNat else m * 2 ^ g.toNat
    let lo := expSeries P r (P / 4) 0 (2 ^ P) 0
    let i := sqTimes P 12 (lo, lo + P)
    let q := fun (y : Nat) => (y - 2 ^ P) * 2 ^ K / (y + 2 ^ P)
    if q i.1 == q i.2 || fuel == 0 then q i.1 else tanhFloor m e K fuel (2 * P)

/-- tanh a (R196). A nonzero result is never exact. -/
def ftanhE (F : FFmt) (x : Nat) : FRes :=
  match fdecode F x with
  | .nan => (F.nan, 0)
  | .inf s => fround F (.fin s 1 0)
  | .fin s m e =>
    if m == 0 then (signBit F s, 0)
    else
      let top : Int := e + Nat.log2 m
      if top < -60 then fround F (.fin s (m * 2 ^ 64 - 1) (e - 64))
      else if top ≥ 6 then fround F (.fin s (2 ^ 128 - 1) (-128))
      else fround F (.fin s (2 * tanhFloor m e 240 4 600 + 1) (-241))

/-! ### Conversion -/

/-- The floating format of an R68 code, with the codes 0x0 and 0x7 of R201. -/
def ffOf (c : Nat) : Option FFmt :=
  match c with
  | 0 => some ffE3M5
  | 1 => some ffF64
  | 2 => some ffF32
  | 3 => some ffBF16
  | 4 => some ffF16
  | 5 => some ffE4M3
  | 6 => some ffE5M2
  | 7 => some ffE2M1
  | _ => none

/-- The integer type of an R68 code from 0x8 (R67, R68): signed when even. -/
def intOf (c : Nat) : Nat × Bool := (8 * 2 ^ ((c - 8) / 2), c % 2 == 0)

def intMin (w : Nat) (sg : Bool) : Int := if sg then -(2 : Int) ^ (w - 1) else 0
def intMax (w : Nat) (sg : Bool) : Int := if sg then (2 : Int) ^ (w - 1) - 1 else (2 : Int) ^ w - 1

/-- A finite value rounded to an integer in a mode of R131: nearest even, toward 0, −∞, +∞; and whether exact. -/
def roundInt (mode : Nat) (neg : Bool) (m : Nat) (e : Int) : Int × Bool :=
  if e ≥ 0 then (sInt neg (m * 2 ^ e.toNat), true)
  else
    let d := 2 ^ (-e).toNat
    let k := m / d
    let r := m % d
    let up : Bool :=
      match mode with
      | 0 => decide (2 * r > d) || (2 * r == d && k % 2 == 1)
      | 1 => false
      | 2 => neg && r != 0
      | _ => !neg && r != 0
    (sInt neg (if up then k + 1 else k), r == 0)

/-- Float to integer (R70). -/
def toInt (w : Nat) (sg : Bool) (mode : Nat) (v : FVal) : FRes :=
  match v with
  | .nan => (0, flNV)
  | .inf neg => (wrap w (if neg then intMin w sg else intMax w sg), flNV)
  | .fin neg m e =>
    let (i, exact) := roundInt mode neg m e
    if i > intMax w sg then (wrap w (intMax w sg), flNV)
    else if i < intMin w sg then (wrap w (intMin w sg), flNV)
    else (wrap w i, if exact then 0 else flNX)

/-- The value of an integer of R67. -/
def intVal (w : Nat) (sg : Bool) (x : Nat) : Int := if sg then signed w x else ((x % 2 ^ w : Nat) : Int)

/-- Clamp to an integer type, with SAT when the value changes (R67). -/
def clampInt (w : Nat) (sg : Bool) (i : Int) : FRes :=
  if i > intMax w sg then (wrap w (intMax w sg), flSAT)
  else if i < intMin w sg then (wrap w (intMin w sg), flSAT)
  else (wrap w i, 0)

/-- An exact value delivered in the format of a code, R69 or R70 (nearest even unless a mode is given). -/
def toCode (d mode : Nat) (v : FVal) : FRes :=
  match ffOf d with
  | some F => fround F v
  | none => toInt (intOf d).1 (intOf d).2 mode v

/-- Conversion from format code s to d, both with the codes of R201 (R85, R202). -/
def convert (s d mode x : Nat) : FRes :=
  if s == d then (x % 2 ^ (if s == 7 then 4 else match ffOf s with | some F => F.mw + (if F.signed then 1 else 0) | none => (intOf s).1), 0)
  else
    match ffOf s with
    | some S => toCode d mode (fdecode S x)
    | none =>
      let i := intVal (intOf s).1 (intOf s).2 x
      match ffOf d with
      | some D => fround D (.fin (decide (i < 0)) i.natAbs 0)
      | none => clampInt (intOf d).1 (intOf d).2 i

/-- The value of an E2M1 element times its E3M5 scale (R62). -/
def fp4Val (scale el : Nat) : FVal :=
  if scale % 256 == 0xFF then .nan else (mulV (fdecode ffE2M1 el) (fdecode ffE3M5 scale)).1

/-- v / s for finite v and positive finite s, rounded to E2M1 by RoundTA (R66). -/
def fp4Elem (v : FVal) (s : Nat) : FRes :=
  match v, fdecode ffE3M5 s with
  | .inf neg, _ => fround ffE2M1 (.inf neg)
  | .fin neg m e, .fin _ n f =>
    if m == 0 then (signBit ffE2M1 neg, 0)
    else
      let g := e - f
      if g < 0 then roundMag ffE2M1 neg m (n * 2 ^ (-g).toNat) else roundMag ffE2M1 neg (m * 2 ^ g.toNat) n
  | _, _ => (0, 0)

/-- Whether an E3M5 code's value is at least a / 6, for finite a = m × 2^e (R66). -/
def scaleCovers (m : Nat) (e : Int) (code : Nat) : Bool :=
  match fdecode ffE3M5 code with
  | .fin _ n f =>
    let g := alignE e f
    decide (m * 2 ^ (e - g).toNat ≤ 6 * n * 2 ^ (f - g).toNat)
  | _ => false

/-- The greater of two magnitudes. -/
def maxMag (a b : FVal) : FVal := if ltV (absV a) (absV b) then absV b else absV a

/-- An FP4B24 block encoded from 24 values: scale, elements, flags (R66). -/
def fp4Encode (vs : List FVal) : Nat × List Nat × Nat :=
  if vs.any FVal.isNan then (0xFF, vs.map (fun _ => 0), flNV)
  else
    let amax := vs.foldl maxMag (.fin false 0 0)
    match amax with
    | .fin _ 0 _ => (0, vs.map (fun v => signBit ffE2M1 v.neg), 0)
    | .fin _ m e =>
      match (List.range 255).find? (scaleCovers m e) with
      | some s =>
        let r := vs.map (fun v => fp4Elem v s)
        (s, r.map (·.1), r.foldl (fun f x => orF f x.2) 0)
      | none =>
        let r := vs.map (fun v => fp4Elem v 0xFE)
        (0xFE, r.map (·.1), r.foldl (fun f x => orF f x.2) flOF)
    | _ =>
      let r := vs.map (fun v => fp4Elem v 0xFE)
      (0xFE, r.map (·.1), r.foldl (fun f x => orF f x.2) flOF)

/-! ### Sums of matrix instructions -/

/-- A term cut toward zero to a multiple of 2^q (R72): its integer multiple, and whether anything was lost. -/
def truncZ (q : Int) (v : FVal) : Int × Bool :=
  match v with
  | .fin neg m e =>
    if e ≥ q then (sInt neg (m * 2 ^ (e - q).toNat), false)
    else
      let d := 2 ^ (q - e).toNat
      (sInt neg (m / d), m % d != 0)
  | _ => (0, false)

/-- floor(log2 |v|) of a nonzero finite value. -/
def topOf (v : FVal) : Option Int :=
  match v with
  | .fin _ m e => if m == 0 then none else some (e + Nat.log2 m)
  | _ => none

/-- Whether a finite value is tiny in a format (R71): nonzero, and below the least normal magnitude once rounded to the format's
precision with an unbounded exponent. -/
def tinyV (F : FFmt) (v : FVal) : Bool :=
  match v with
  | .fin _ m e =>
    if m == 0 then false
    else
      let n := if e < 0 then m else m * 2 ^ e.toNat
      let d := if e < 0 then 2 ^ (-e).toNat else 1
      let E := log2Floor n d
      let emin : Int := 1 - (F.bias : Int)
      if E < emin - 1 then true
      else if E == emin - 1 then
        let (k, r, den) := scaleDiv n d (E - F.m)
        roundK F.narrow k r den < 2 ^ (F.m + 1)
      else false
  | _ => false

/-- The sum of the terms of one output element, rounded to the accumulator format (R72, R73). Any loss to truncation is inexact,
and an inexact result sets UF where the exact sum is tiny (R71). A sum of 0 of which terms were lost is +0 (DESIGN CHOICE, log 114). -/
def sumTerms (F : FFmt) (drop : Int) (ts : List FVal) : FRes :=
  let pos := ts.any (fun t => t == .inf false)
  let ng := ts.any (fun t => t == .inf true)
  if ts.any FVal.isNan then (F.nan, 0)
  else if pos && ng then (F.nan, flNV)
  else if pos then (infCode F false, 0)
  else if ng then (infCode F true, 0)
  else
    let tops := ts.filterMap topOf
    match tops with
    | [] => (if ts.all FVal.neg then signBit F true else 0, 0)
    | t :: l =>
      let q := l.foldl (fun a b => if a ≥ b then a else b) t - drop
      let cut := ts.map (truncZ q)
      let s : Int := cut.foldl (fun a x => a + x.1) 0
      let lost := cut.any (·.2)
      let r := if s == 0 then (0, 0) else fround F (.fin (decide (s < 0)) s.natAbs q)
      let exact := (ts.foldl (fun a x => (addV a x).1) (FVal.fin true 0 0))
      let inexact := lost || r.2 / flNX % 2 == 1
      (r.1, orF (r.2 % flUF) ((if inexact then flNX else 0) + (if inexact && tinyV F exact then flUF else 0)))

end Sys2Proof.Machine
end

