-- ==== Sys2Proof/Syntax.lean ====
section
/-! DEFINITION. The syntax of the Vidripen's steps: the fields of the five instruction formats (02 R39, 06 R128 to
R132) and the one inductive `Instr`, a constructor for every row of the opcode table: 151 instructions of the opcode
map (06 R133) with the pad word (R126), and 121 events, the steps that engines, the command processor, links, the
debug unit and the host take (95_what_each_step_holds). -/
namespace Sys2Proof

/-- A 17-bit source operand field (R39). -/
structure Src where
  /-- CODE, bits 7:0 (R40). -/
  code : BitVec 8
  /-- L, bit 8: last use. -/
  last : BitVec 1
  /-- PAT, bits 11:9. -/
  pat : BitVec 3
  /-- PARM, bits 16:12. -/
  parm : BitVec 5
deriving DecidableEq, Repr, Inhabited

/-- The fields common to every instruction but a pad word (R128): guard and destination code. -/
structure Hdr where
  gp : BitVec 3
  gn : BitVec 1
  dst : BitVec 8
deriving DecidableEq, Repr, Inhabited

/-- Format F64 (R129). -/
structure F64 where
  h : Hdr
  s1 : Src
  s2 : Src
  mod : BitVec 6
deriving DecidableEq, Repr, Inhabited

/-- Format F96T (R129): a third source and the extension modifier XM. -/
structure F96T where
  h : Hdr
  s1 : Src
  s2 : Src
  mod : BitVec 6
  s3 : Src
  xm : BitVec 15
deriving DecidableEq, Repr, Inhabited

/-- Format F96I (R129): a 32-bit immediate. -/
structure F96I where
  h : Hdr
  s1 : Src
  s2 : Src
  mod : BitVec 6
  imm : BitVec 32
deriving DecidableEq, Repr, Inhabited

/-- Format F128M (R129, R132): the memory fields. -/
structure F128M where
  h : Hdr
  s1 : Src
  s2 : Src
  mod : BitVec 6
  s3 : Src
  fmt : BitVec 4
  pg : BitVec 1
  scp : BitVec 3
  rd : BitVec 3
  ord : BitVec 2
  sp : BitVec 2
  cnt : BitVec 4
  rsv : BitVec 4
  off : BitVec 24
deriving DecidableEq, Repr, Inhabited

/-- Format F128X (R129): a fourth source and the control word CTL. -/
structure F128X where
  h : Hdr
  s1 : Src
  s2 : Src
  mod : BitVec 6
  s3 : Src
  s4 : Src
  ctl : BitVec 30
deriving DecidableEq, Repr, Inhabited

/-- The instruction lengths of R126 and R129, by format. -/
inductive Format | pad | f64 | f96t | f96i | f128m | f128x
deriving DecidableEq, Repr

/-- Every step of the part. Identifiers in the events name teams by serial (R254), crews by crewid, lanes, cores
by coreid, and pending accesses, copies and queue entries by the model's own numbers (log 4). -/
inductive Instr where
  /-- R144. Adds two integer sources in each lane, with optional saturation. -/
  | add (f : F64)
  /-- R144. Subtracts two integer sources in each lane, with optional saturation. -/
  | sub (f : F64)
  /-- R144. Multiplies two integer sources in each lane, with optional saturation. -/
  | mul (f : F64)
  /-- R144. Writes the high half of the integer product in each lane. -/
  | mulhi (f : F64)
  /-- R144. Writes the lesser of two integers compared in the type. -/
  | min (f : F64)
  /-- R144. Writes the greater of two integers compared in the type. -/
  | max (f : F64)
  /-- R144. Writes the absolute value of a signed integer, with optional saturation. -/
  | abs (f : F64)
  /-- R144. Writes the negation of a signed integer, with optional saturation. -/
  | neg (f : F64)
  /-- R146. Writes the bitwise AND of two sources at 32 or 64 bits. -/
  | and (f : F64)
  /-- R146. Writes the bitwise OR of two sources at 32 or 64 bits. -/
  | or (f : F64)
  /-- R146. Writes the bitwise XOR of two sources at 32 or 64 bits. -/
  | xor (f : F64)
  /-- R146. Writes the bitwise complement of a source. -/
  | not (f : F64)
  /-- R146. Shifts a value left, giving 0 when the amount is at least the width. -/
  | shl (f : F64)
  /-- R146. Shifts a value right logically. -/
  | shr (f : F64)
  /-- R146. Shifts a value right arithmetically. -/
  | sar (f : F64)
  /-- R146. Rotates a value left by the amount modulo the width. -/
  | rol (f : F64)
  /-- R146. Counts the one bits of a value. -/
  | popc (f : F64)
  /-- R146. Counts the leading zeros of a value. -/
  | clz (f : F64)
  /-- R146. Reverses the bit order of a value. -/
  | brev (f : F64)
  /-- R147. Forms a 64-bit address from a pair plus a scaled, extended offset. -/
  | adda (f : F64)
  /-- R150. Copies a source to the destination. -/
  | mov (f : F64)
  /-- R145. Writes the integer quotient rounded toward zero, with special cases for a zero divisor and overflow. -/
  | div (f : F64)
  /-- R145. Writes the integer remainder, which takes the sign of the dividend. -/
  | rem (f : F64)
  /-- R151. Writes a predicate from an integer comparison of two sources. -/
  | setp (f : F64)
  /-- R153. Writes the AND of two predicate selectors. -/
  | pand (f : F64)
  /-- R153. Writes the OR of two predicate selectors. -/
  | por (f : F64)
  /-- R153. Writes the XOR of two predicate selectors. -/
  | pxor (f : F64)
  /-- R153. Writes the negation of a predicate selector. -/
  | pnot (f : F64)
  /-- R154. Returns the sticky flags word and clears the masked flags. -/
  | flclr (f : F64)
  /-- R144. Writes a times b plus c, computed exactly before reduction. -/
  | mad (f : F96T)
  /-- R150. Selects one of two sources in each lane by a predicate. -/
  | sel (f : F96T)
  /-- R148. Extracts a bit field, zero-extended or sign-extended. -/
  | bfx (f : F96T)
  /-- R148. Inserts the low bits of a source into a bit field of a base value. -/
  | bfi (f : F96T)
  /-- R149. Takes a 32-bit window out of a 64-bit value shifted down or up. -/
  | wsh (f : F96T)
  /-- R155. Writes the window and/or the index of an index register. -/
  | ixset (f : F96T)
  /-- R150. Writes an immediate to the destination. -/
  | movi (f : F96I)
  /-- R144. Adds an immediate to a source. -/
  | addi (f : F96I)
  /-- R144. Multiplies a source by an immediate. -/
  | muli (f : F96I)
  /-- R146. Writes the bitwise AND of a source and an immediate. -/
  | andi (f : F96I)
  /-- R146. Writes the bitwise OR of a source and an immediate. -/
  | ori (f : F96I)
  /-- R146. Writes the bitwise XOR of a source and an immediate. -/
  | xori (f : F96I)
  /-- R151. Writes a predicate from comparing a source with an immediate. -/
  | setpi (f : F96I)
  /-- R156. Branches to a PC-relative target in the lanes whose guard is true. -/
  | bra (f : F96I)
  /-- R58. Pushes the return address on the call stack and branches to a relative target. -/
  | call (f : F96I)
  /-- R158. Writes or clears each lane's meeting register. -/
  | meet (f : F96I)
  /-- R167. Enters a gate-table service after its checks, saving a frame and switching the address space and fault domain. -/
  | gate (f : F96I)
  /-- R156. Jumps to a per-lane register target. -/
  | jmp (f : F64)
  /-- R156. Calls a per-lane register target, pushing the return address. -/
  | callx (f : F64)
  /-- R58. Pops the return address from the call stack and transfers to it. -/
  | ret (f : F64)
  /-- R159. Ends each lane whose guard is true and frees its mapped entries. -/
  | exit (f : F64)
  /-- R160. Elects a leader lane of the crew by the low, high or round-robin rule. -/
  | elect (f : F64)
  /-- R161. Reduces a predicate over the whole crew to one value for every lane. -/
  | vote (f : F64)
  /-- R162. Records a user trap and parks the crew. -/
  | trap (f : F64)
  /-- R162. Records a breakpoint and stops the scheduler, or parks the crew when no debugger is attached. -/
  | bkpt (f : F64)
  /-- R169. Returns from a gate call, restoring the caller's frame and copying the results. -/
  | gret (f : F64)
  /-- R156. Does nothing and moves the PC on by 8. -/
  | nop (f : F64)
  /-- R163. Puts each lane to sleep until its barrier, batch, memory or tile conditions hold or a time-out expires. -/
  | wait (f : F128X)
  /-- R126. A pad word moves the PC on by 4 and takes no issue slot. -/
  | padWord
  /-- R177. Loads and converts elements per lane from any byte-addressed space. -/
  | ld (f : F128M)
  /-- R177. Converts and stores elements per lane to any byte-addressed space. -/
  | st (f : F128M)
  /-- R178. Loads strided elements per lane. -/
  | ldm (f : F128M)
  /-- R178. Stores strided elements per lane. -/
  | stm (f : F128M)
  /-- R180. Atomically adds an integer operand to a memory word. -/
  | aadd (f : F128M)
  /-- R180. Atomically keeps the lesser of memory and the operand. -/
  | amin (f : F128M)
  /-- R180. Atomically keeps the greater of memory and the operand. -/
  | amax (f : F128M)
  /-- R180. Atomically ANDs the operand into memory. -/
  | aand (f : F128M)
  /-- R180. Atomically ORs the operand into memory. -/
  | aor (f : F128M)
  /-- R180. Atomically XORs the operand into memory. -/
  | axor (f : F128M)
  /-- R180. Atomically exchanges memory with the operand. -/
  | axch (f : F128M)
  /-- R183. Atomically compares memory with a value and writes the operand when they are equal. -/
  | acas (f : F128M)
  /-- R182. Atomically adds a floating operand to memory with round-to-nearest-even. -/
  | afadd (f : F128M)
  /-- R184. Atomically reads an amax word and writes +0.0. -/
  | amaxswap (f : F128M)
  /-- R180. Atomically increments memory, wrapping to 0 at the bound. -/
  | ainc (f : F128M)
  /-- R180. Atomically decrements memory, wrapping to the bound. -/
  | adec (f : F128M)
  /-- R180. Atomically keeps the floating minimum of memory and the operand. -/
  | afmin (f : F128M)
  /-- R180. Atomically keeps the floating maximum of memory and the operand. -/
  | afmax (f : F128M)
  /-- R185. Orders the thread's accesses at a scope, pushing W sectors when it releases at stack scope or wider. -/
  | fence (f : F64)
  /-- R186. Writes a payload and then atomically increments a signal word with release. -/
  | stsig (f : F128M)
  /-- R189. Arms a barrier object for n arrivals. -/
  | binit (f : F128M)
  /-- R189. Adds expected bytes to a barrier object, optionally with an arrival. -/
  | bexpb (f : F128M)
  /-- R189. Arrives at a barrier object with k arrivals and returns the token. -/
  | barr (f : F128M)
  /-- R189. Waits for the copies that name a barrier object, then zeroes the object. -/
  | binv (f : F128M)
  /-- R190. Prefetches sectors into the named cache level. -/
  | pref (f : F128M)
  /-- R190. Writes back a line's dirty and W sectors, leaving the line valid. -/
  | clwb (f : F128M)
  /-- R190. Writes back a line, then invalidates it in the die's caches and the last-level cache. -/
  | clevict (f : F128M)
  /-- R190. Sets the re-reference value of a line. -/
  | clrrv (f : F128M)
  /-- R194. Adds two floating values, rounded once. -/
  | fadd (f : F64)
  /-- R194. Subtracts two floating values, rounded once. -/
  | fsub (f : F64)
  /-- R194. Multiplies two floating values, rounded once. -/
  | fmul (f : F64)
  /-- R194. Divides two floating values, correctly rounded. -/
  | fdiv (f : F64)
  /-- R195. Writes the exact floating minimum. -/
  | fmin (f : F64)
  /-- R195. Writes the exact floating maximum. -/
  | fmax (f : F64)
  /-- R195. Clears the sign bit of a floating value. -/
  | fabs (f : F64)
  /-- R195. Inverts the sign bit of a floating value. -/
  | fneg (f : F64)
  /-- R194. Writes the correctly rounded square root. -/
  | fsqrt (f : F64)
  /-- R196. Writes the correctly rounded reciprocal. -/
  | frcp (f : F64)
  /-- R196. Writes the correctly rounded reciprocal square root. -/
  | frsq (f : F64)
  /-- R196. Writes the correctly rounded base-2 exponential. -/
  | fexp2 (f : F64)
  /-- R196. Writes the correctly rounded base-2 logarithm. -/
  | flog2 (f : F64)
  /-- R196. Writes the correctly rounded hyperbolic tangent. -/
  | ftanh (f : F64)
  /-- R194. Scales a floating value by a power of two. -/
  | fscl (f : F64)
  /-- R197. Rounds a floating value to an integral value in the named mode. -/
  | frnd (f : F64)
  /-- R197. Writes a one-hot class mask of a floating value. -/
  | fclass (f : F64)
  /-- R198. Writes a predicate from a floating comparison. -/
  | fsetp (f : F64)
  /-- R202. Converts a value between formats. -/
  | cvt (f : F64)
  /-- R206. Gives each lane the operand of a lane it selects. -/
  | perm (f : F64)
  /-- R207. Reduces a value over the crew in a fixed butterfly. -/
  | redux (f : F64)
  /-- R203. Gathers narrow raw values into one register. -/
  | pack (f : F64)
  /-- R204. Extracts and widens one element of a packed register. -/
  | upk (f : F64)
  /-- R200. Adds packed 16-bit pairs. -/
  | hadd2 (f : F64)
  /-- R200. Subtracts packed 16-bit pairs. -/
  | hsub2 (f : F64)
  /-- R200. Multiplies packed 16-bit pairs. -/
  | hmul2 (f : F64)
  /-- R200. Writes the minima of packed 16-bit pairs. -/
  | hmin2 (f : F64)
  /-- R200. Writes the maxima of packed 16-bit pairs. -/
  | hmax2 (f : F64)
  /-- R200. Writes a predicate from comparing packed pairs, combined by AND or OR. -/
  | hsetp2 (f : F64)
  /-- R194. Computes a fused multiply-add with a single rounding. -/
  | ffma (f : F96T)
  /-- R200. Computes fused multiply-adds on packed pairs. -/
  | hfma2 (f : F96T)
  /-- R199. Selects one of two values by comparing a value with +0. -/
  | fsel (f : F96T)
  /-- R208. Encodes one FP4B24 block from 24 lanes. -/
  | quant (f : F96T)
  /-- R205. Converts two FP32 values and places them packed. -/
  | cvpk (f : F96T)
  /-- R194. Adds an FP32 immediate. -/
  | faddi (f : F96I)
  /-- R194. Multiplies by an FP32 immediate. -/
  | fmuli (f : F96I)
  /-- R219. Latches the operands of a matrix multiply-accumulate and queues it on a tile. -/
  | mma (f : F128X)
  /-- R217. Latches a gathered-row matrix multiply-accumulate and queues it on a tile. -/
  | mmag (f : F128X)
  /-- R221. Queues the clearing of a tile. -/
  | aclr (f : F64)
  /-- R221. Queues a tile copy, optionally transposed. -/
  | amov (f : F64)
  /-- R222. Latches scratchpad rows and queues their load into a tile. -/
  | ald (f : F128X)
  /-- R222. Queues the store of a tile to scratchpad. -/
  | ast (f : F128X)
  /-- R224. Queues the scaling, conversion and store of a tile, with an optional amax update. -/
  | aepi (f : F128X)
  /-- R233. Issues an asynchronous copy through a cluster copy engine. -/
  | tcopy (f : F128X)
  /-- R235. Seals the thread's open copies into a numbered batch. -/
  | seal (f : F64)
  /-- R236. Sleeps until at most n sealed batches are unfinished. -/
  | waitb (f : F64)
  /-- R239. Issues the load of a dictionary image into the slots of the named stacks. -/
  | dictld (f : F128X)
  /-- R257. Reads a special register. -/
  | srd (f : F96I)
  /-- R257. Writes a special register. -/
  | swr (f : F96I)
  /-- R258. Invalidates the TLB entries of one page and ASID within a scope. -/
  | tlbinv (f : F64)
  /-- R258. Invalidates every TLB entry of an ASID, or of the context. -/
  | tlbinva (f : F64)
  /-- R260. Saves a team and its cohort into a save area. -/
  | ctxsave (f : F64)
  /-- R261. Hands a save area to the command processor for restore. -/
  | ctxrest (f : F64)
  /-- R259. Parks a crew or team. -/
  | park (f : F64)
  /-- R259. Clears the PARK and DEBUG_STOP causes of a crew or team. -/
  | resume (f : F64)
  /-- R259. Kills a crew or team, or with .gate ends its innermost gate call. -/
  | kill (f : F64)
  /-- R262. Requests a new scratch-way split on the named dies. -/
  | split (f : F64)
  /-- R263. Requests a new context slice-hash seed. -/
  | seedset (f : F64)
  /-- R268. Ends the claimed trap record with a disposition. -/
  | eret (f : F64)
  /-- R264. Writes a gate-table entry from an image. -/
  | gtwr (f : F128M)
  /-- R265. Takes a handle-table entry out of service so it can be replaced. -/
  | htwr (f : F128M)
  /-- R267. Loads raw data from a physical address. -/
  | ldphys (f : F128M)
  /-- R267. Stores raw data to a physical address. -/
  | stphys (f : F128M)
  /-- R266. Invalidates one gate entry, or all of them. -/
  | gtinv (f : F64)
  /-- R266. Invalidates one handle entry, or all of them, after a drain. -/
  | htinv (f : F64)
  /-- R14. Every eighth cycle, merges the READY threads of each crew at one PC into one bundle. -/
  | regroupBoundary
  /-- R18. The hold count reaches its limit and releases the held threads with HOLDX set. -/
  | holdLimitExpiry (team crew : Nat) (m : DWord)
  /-- R20. A crew that does not become whole within the hold limit takes ILL_CONVERGE with sub-cause 3. -/
  | convergeTimeout (team crew : Nat)
  /-- R23. Reads the MEM words of a waiting thread again every 256 cycles. -/
  | waitMemRepoll (team crew lane : Nat)
  /-- R23. The time-out of a waiting thread expires and the wait ends with TO set. -/
  | waitTimeout (team crew lane : Nat)
  /-- R282. A queue engine admits its head team once its resources, budgets and team slot are available. -/
  | teamAdmit (core : Nat)
  /-- R282. The command processor admits a whole cohort group into one unit, all teams starting in one cycle. -/
  | cohortAdmit (core : Nat)
  /-- R27. Releases an ended team's scratchpad once every copy into it has completed. -/
  | scratchRelease (team : Nat)
  /-- R52. A blocked allocation makes the percolator park a victim crew and spill its excess entries. -/
  | percolatorSpill (team crew : Nat)
  /-- R49. A spilled entry's write reaches the spill or save area, and the entry becomes FREE. -/
  | spillWriteComplete (team crew lane level reg : Nat)
  /-- R53. A spilled register's value returns from the spill area and the reading bundle leaves STALLED. -/
  | registerRefillComplete (team crew lane reg : Nat)
  /-- R173. A lane's load or atomic data return and its destination registers are written. -/
  | loadComplete (id unit : Nat)
  /-- R136. An instruction fetch returns and the waiting bundle can issue. -/
  | fetchComplete (team crew : Nat) (pc : DWord)
  /-- R336. Once the registration of a W sector is recorded at the stack directory and home, the held narrow store is performed. -/
  | wSectorRegistration (id unit : Nat)
  /-- R336. The home merges a pushed W sector's masked bytes, clears the registration and acknowledges. -/
  | wSectorPush (die sector : Nat)
  /-- R376. Every 1 µs, updates a cache die's temperature and compares it with its limit. -/
  | cacheDieTempUpdate (die temp : Nat)
  /-- R92. After draining asynchronous operations, applies the new split on one die and resumes issue. -/
  | splitDieApply (id : Nat)
  /-- R103. After the context's lines are written back and invalidated, the new seed takes effect. -/
  | seedsetApply (id : Nat)
  /-- R219. The matrix operand latch fills and the MMA or MMAG issues. -/
  | operandLatchFill (team crew : Nat)
  /-- R218. The tensor-store B operand arrives at the matrix engine. -/
  | tensorReadComplete (id : Nat)
  /-- R212. The engine starts the oldest accumulator entry that may start and whose data are present. -/
  | accEntryStart (core : Nat)
  /-- R212. An accumulator entry's tile writes, memory writes and amax update are done. -/
  | accEntryComplete (id : Nat)
  /-- R233. A copy engine reads a layout-record or chain element after issue, including the skip test. -/
  | copyElementRead (id : Nat)
  /-- R233. A copy engine writes destination bytes after reading its source. -/
  | copyDataWrite (id unit : Nat)
  /-- R188. When all of a receiver's bytes are written, the copy decrements that receiver's barrier object. -/
  | copyArrival (id receiver : Nat)
  /-- R233. A copy finishes its writes and arrivals and releases its G lines. -/
  | copyComplete (id : Nat)
  /-- R234. A fault met by a copy engine after issue ends the copy and parks the issuing crew. -/
  | copyFault (id : Nat)
  /-- R237. A batch finishes when its copies are complete and the previous batch has finished. -/
  | batchFinish (team crew lane : Nat)
  /-- R239. A dictionary load reaches a stack's slot unit and raises the generation. -/
  | dictldSlotRequest (id stack : Nat)
  /-- R239. After older-generation reads finish, writes the slot entries and releases the new reads. -/
  | dictldSlotWrite (id stack : Nat)
  /-- R186. After its payload is performed at the home, performs the release atomic on the signal word. -/
  | stsigSignal (id : Nat)
  /-- R189. Once no incomplete copy names the object, zeroes the barrier object. -/
  | binvClear (id : Nat)
  /-- R265. After the drain of older uses, writes a handle entry and returns it to service. -/
  | handleEntryWrite (id : Nat)
  /-- R253. A write to CTX.HTAB drains the operations that name handles and then switches tables. -/
  | ctxHtabWrite (id : Nat)
  /-- R316. A read of TR.NEXT claims the oldest unclaimed record of the domain. -/
  | trNext (team crew : Nat)
  /-- R270. The doorbell write of an intake queue's TAIL, refused with TERR when it would overflow. -/
  | tailWrite (queue value : Nat)
  /-- R6. A write to a register that has no behaviour of its own. -/
  | registerWrite (off value : Nat)
  /-- R271. The command processor reads a queue entry, checks it, journals ACCEPT or REFUSE and increments HEAD. -/
  | commandAccept (queue : Nat)
  /-- R278. A NOP node starts and finishes at once. -/
  | nopCommand (ctx node : Nat)
  /-- R383. A LAUNCH node starts, checks its record and path, performs maintenance and deals its teams. -/
  | launch (ctx node : Nat)
  /-- R278. A COPY node starts, copying bytes with the command processor's copy engine at system scope. -/
  | copyCommand (ctx node : Nat)
  /-- R278. A SIGNAL node starts, performing an 8-byte release store to a physical address. -/
  | signalCommand (ctx node : Nat)
  /-- R278. A node finishes: FINISH is journalled, its successors are decremented and the profile is written. -/
  | nodeFinish (ctx node : Nat)
  /-- R283. Deals teams or cohort groups to queue engines as room appears. -/
  | teamDeal (ctx node : Nat)
  /-- R284. An idle core steps its LFSR and sends a steal request to a victim. -/
  | stealRequest (core : Nat)
  /-- R285. A victim gives eligible tail entries to the thief in one step. -/
  | stealAnswer (victim thief : Nat)
  /-- R284. After the 1,024-cycle wait, the thief starts its steal requests again. -/
  | stealBackoffExpiry (core : Nat)
  /-- R288. A head that has waited 4,096 cycles makes the command processor choose and save lower-priority victims. -/
  | preemptionStart (core : Nat)
  /-- R289. After its drain and push, the save engine writes a team's save area and releases its resources. -/
  | teamSaveWriteOut (team : Nat)
  /-- R291. Restores a saved team's registers, scratchpad, tiles and state, and starts its crews. -/
  | teamRestore (team core : Nat)
  /-- R297. A page walk returns a leaf or a translation fault. -/
  | tableWalkComplete (core asid va : Nat)
  /-- R306. After ERET, the waiting lanes look up their pages again and perform their accesses from the operand log. -/
  | pageFaultReplay (id : Nat)
  /-- R313. Writes a fault record to its target domain's ring when there is room. -/
  | faultRecordDelivery
  /-- R329. After 5 µs without a heartbeat, the standby command processor takes over from the journal. -/
  | cpHeartbeatTimeout
  /-- R329. The active command processor sends a heartbeat to the standby every 1 µs. -/
  | cpHeartbeat
  /-- R325. The base die scrubs a tower codeword, correcting or poisoning it. -/
  | scrubPass (addr errors : Nat)
  /-- R328. Once a failed core's crews are gone, firmware maps in the cluster's spare core. -/
  | spareCoreMap (core : Nat)
  /-- R328. A spare slice takes the logical number of a failed L2 slice. -/
  | spareSliceMap (die slice : Nat)
  /-- R342. The base die sends a heartbeat on each vertical link every 1 µs. -/
  | verticalLinkHeartbeat (die answered : Nat)
  /-- R342. A die that has not answered for 5 µs is declared failed. -/
  | linkLost (die : Nat)
  /-- R342. The link wake limit passes and the die is declared failed. -/
  | linkWakeExpired (die : Nat)
  /-- R343. After a declaration, the base die rebuilds the lost directory shards, poisons lost sectors and releases held requests. -/
  | shardRebuild (die : Nat)
  /-- R339. A router input's head packet has not moved for 2,048 cycles and its detector fires. -/
  | routerTimeoutDetect (router buffer : Nat)
  /-- R339. The squall token arrives at a router or package, which drains fired heads over the lee lane and passes the token on. -/
  | squallTokenVisit (domain : Nat)
  /-- R341. A Launo flit that fails its CRC is replayed, and the port is marked down after 16 consecutive failures. -/
  | flitReplay (port ok : Nat)
  /-- R347. A STOP write requests a precise stop of a scheduler. -/
  | stop (core sched : Nat)
  /-- R349. A RUN write resumes the crews stopped only for DEBUG_STOP. -/
  | run (core sched : Nat)
  /-- R349. A STEP write issues one bundle and then stops again. -/
  | step (core sched : Nat)
  /-- R347. A write with STOP, RUN and STEP clear stores SOF. -/
  | sofWrite (core sched value : Nat)
  /-- R347. Stops all four schedulers of a core on the same cycle. -/
  | cstop (core : Nat)
  /-- R348. Stops the scheduler when a bundle would issue an armed comparator's address. -/
  | pcMatchStop (core sched : Nat)
  /-- R351. A GO write starts a dump of a stopped team, or is refused. -/
  | go (core : Nat)
  /-- R351. After the drain, writes the dump header, sections and final status. -/
  | dumpWrite (core : Nat)
  /-- R356. Freezes or releases every slot counter of the core on one cycle. -/
  | frz (core value : Nat)
  /-- R356. Zeroes every slot counter of the core on one cycle. -/
  | clr (core : Nat)
  /-- R359. In replay, an access proceeds once every recorded source has reached its clock. -/
  | replayAccessRelease (id : Nat)
  /-- R326. Writing CLR clears a stack's corrected and uncorrected error counts. -/
  | errorCountClear (stack : Nat)
  /-- R369. Resets the dies of a core-die function's partition. -/
  | functionLevelReset (fn : Nat)
  /-- R377. After IDLET of idleness, the package enters the deepest state allowed by HLT. -/
  | idleTimerExpiry
  /-- R380. Entry into a power state completes, and any pending wake then begins its exit. -/
  | powerEntryComplete
  /-- R377. A write of WAKE returns the package to GALE. -/
  | wake
  /-- R377. A doorbell, host access or Launo request returns the package to GALE. -/
  | packageWakeEvent
  /-- R377. The exit latency passes and the access that woke the package completes. -/
  | powerExitComplete
  /-- R109. A request from another package arrives over Launo and is performed at the home of a line homed in this package. -/
  | incomingLaunoRequest (addr : Nat) (write : Bool) (data : List Byte)
  /-- R270. The host reads or writes device memory over the host link, for example to fill an intake ring. -/
  | hostDeviceMemoryAccess (addr : Nat) (write : Bool) (data : List Byte)
  /-- R368. A write to LOC, RBASE, LOG2N or CTXID of a queue is ignored while EN is 1, and moves the function's TDISP state to ERROR while it is CONFIG_LOCKED or RUN. -/
  | queueRegisterWrite (queue off value : Nat)
  /-- R273. The host's write of CONS frees journal records, so stalled acceptance, node starts and finishes resume and JSTALL clears. -/
  | consWrite (value : Nat)
  /-- R357. The host's write of LCP frees room in the record log, or supplies records in replay, so that waiting accesses proceed. -/
  | lcpWrite (value : Nat)
  /-- R116. A home's acknowledgement that a store has been performed returns to the issuing core, so accesses ordered after it may proceed. -/
  | homeAcknowledgement (id unit : Nat)
  /-- R258. The targeted TLBs acknowledge an invalidation and the affected accesses are performed or squashed, so TLBINV or TLBINVA completes and the serialised crew continues. -/
  | tlbAcknowledgement (id : Nat)
  /-- R303. A last-level TLB lookup returns a leaf, which confirms or squashes a prediction or fills the core TLB without a walk. -/
  | lastLevelTlbLookup (core asid va : Nat)
  /-- R232. The last grant arrives that puts every FLAT destination line of a TCOPY or AEPI in G, and the stalled lane issues. -/
  | destinationLinesHeldInG (team crew lane : Nat)
  /-- R371. SPDM request for the supported versions. -/
  | getVersion (fn : Nat)
  /-- R371. SPDM request for capabilities. -/
  | getCapabilities (fn : Nat)
  /-- R371. SPDM algorithm negotiation. -/
  | negotiateAlgorithms (fn : Nat)
  /-- R371. SPDM request for certificate digests. -/
  | getDigests (fn : Nat)
  /-- R371. SPDM request for the certificate chain. -/
  | getCertificate (fn : Nat)
  /-- R371. SPDM challenge answered with a signed response. -/
  | challenge (fn nonce : Nat)
  /-- R371. SPDM request for the measurement blocks. -/
  | getMeasurements (fn index : Nat)
  /-- R371. SPDM key exchange that opens a secure session. -/
  | keyExchange (fn nonce : Nat)
  /-- R371. SPDM FINISH that completes session establishment. -/
  | finish (fn : Nat)
  /-- R371. SPDM session heartbeat. -/
  | heartbeat (fn : Nat)
  /-- R371. SPDM session key update. -/
  | keyUpdate (fn : Nat)
  /-- R371. Ends an SPDM secure session. -/
  | endSession (fn : Nat)
  /-- R371. IDE key-management query inside a secure session. -/
  | query (fn : Nat)
  /-- R371. Programs an IDE stream key. -/
  | keyProg (fn stream key : Nat)
  /-- R371. Activates an IDE key set. -/
  | kSetGo (fn stream : Nat)
  /-- R371. Stops an IDE key set. -/
  | kSetStop (fn stream : Nat)
  /-- R371. TDISP version request. -/
  | getTdispVersion (fn : Nat)
  /-- R371. TDISP capabilities request. -/
  | getTdispCapabilities (fn : Nat)
  /-- R368. Moves a function's TDISP state to CONFIG_LOCKED. -/
  | lockInterfaceRequest (fn : Nat)
  /-- R371. Returns the device interface report. -/
  | getDeviceInterfaceReport (fn : Nat)
  /-- R371. Returns the TDISP state of an interface. -/
  | getDeviceInterfaceState (fn : Nat)
  /-- R368. Moves a locked interface to RUN. -/
  | startInterfaceRequest (fn : Nat)
  /-- R368. Stops an interface, returning it to CONFIG_UNLOCKED. -/
  | stopInterfaceRequest (fn : Nat)
  /-- R371. Answers any other SPDM request with ERROR UnsupportedRequest. -/
  | unsupportedRequest (fn : Nat)
  /-- R372. Starts bring-up, or a recovery attempt, running its steps in order. -/
  | bringupGo (untrained : Nat)
  /-- R375. Every 16 ms, a tower reads its bank temperatures and sets their refresh rates. -/
  | towerTempPoll (tower : Nat) (temps : List Nat)
  /-- R376. Writes a cache die's SCALD limit, clamped, effective from the next update. -/
  | limitWrite (die value : Nat)
  /-- R380. A write of HLT that makes the current state too deep returns the package to the deepest allowed state. -/
  | hltWrite (value : Nat)
  /-- R327. A single core fails, and every team with a crew on it is killed with DIE_LOST sub-cause 2, together with its cohort. -/
  | coreFailure (core : Nat)
deriving DecidableEq, Repr, Inhabited

end Sys2Proof
end

