-- ==== Sys2Proof/Machine/OpMap.lean ====
section
/-! DEFINITION. The opcode map of R133: opcode and fields of every instruction that has an encoding, and the way back. -/
namespace Sys2Proof.Machine

/-- The fields of one instruction, by format (R129). -/
inductive Fields
  | f64 (f : F64)
  | f96t (f : F96T)
  | f96i (f : F96I)
  | f128m (f : F128M)
  | f128x (f : F128X)
deriving DecidableEq, Repr

/-- The fields common to every format (R128). -/
def Fields.hdr : Fields → Hdr
  | .f64 f => f.h
  | .f96t f => f.h
  | .f96i f => f.h
  | .f128m f => f.h
  | .f128x f => f.h

/-- Bytes of an instruction with these fields (R129). -/
def Fields.bytes : Fields → Nat
  | .f64 _ => 8
  | .f96t _ => 12
  | .f96i _ => 12
  | .f128m _ => 16
  | .f128x _ => 16

/-- Opcode and fields (R133). The pad word and the events have none. -/
def opcodeOf : Instr → Option (Nat × Fields)
  | .add f => some (0x000, .f64 f)
  | .sub f => some (0x001, .f64 f)
  | .mul f => some (0x002, .f64 f)
  | .mulhi f => some (0x003, .f64 f)
  | .min f => some (0x004, .f64 f)
  | .max f => some (0x005, .f64 f)
  | .abs f => some (0x006, .f64 f)
  | .neg f => some (0x007, .f64 f)
  | .and f => some (0x008, .f64 f)
  | .or f => some (0x009, .f64 f)
  | .xor f => some (0x00A, .f64 f)
  | .not f => some (0x00B, .f64 f)
  | .shl f => some (0x00C, .f64 f)
  | .shr f => some (0x00D, .f64 f)
  | .sar f => some (0x00E, .f64 f)
  | .rol f => some (0x00F, .f64 f)
  | .popc f => some (0x010, .f64 f)
  | .clz f => some (0x011, .f64 f)
  | .brev f => some (0x012, .f64 f)
  | .adda f => some (0x013, .f64 f)
  | .mov f => some (0x014, .f64 f)
  | .div f => some (0x015, .f64 f)
  | .rem f => some (0x016, .f64 f)
  | .setp f => some (0x020, .f64 f)
  | .pand f => some (0x021, .f64 f)
  | .por f => some (0x022, .f64 f)
  | .pxor f => some (0x023, .f64 f)
  | .pnot f => some (0x024, .f64 f)
  | .flclr f => some (0x025, .f64 f)
  | .mad f => some (0x040, .f96t f)
  | .sel f => some (0x041, .f96t f)
  | .bfx f => some (0x042, .f96t f)
  | .bfi f => some (0x043, .f96t f)
  | .wsh f => some (0x044, .f96t f)
  | .ixset f => some (0x045, .f96t f)
  | .movi f => some (0x060, .f96i f)
  | .addi f => some (0x061, .f96i f)
  | .muli f => some (0x062, .f96i f)
  | .andi f => some (0x063, .f96i f)
  | .ori f => some (0x064, .f96i f)
  | .xori f => some (0x065, .f96i f)
  | .setpi f => some (0x066, .f96i f)
  | .bra f => some (0x080, .f96i f)
  | .call f => some (0x081, .f96i f)
  | .meet f => some (0x082, .f96i f)
  | .gate f => some (0x083, .f96i f)
  | .jmp f => some (0x0A0, .f64 f)
  | .callx f => some (0x0A1, .f64 f)
  | .ret f => some (0x0A2, .f64 f)
  | .exit f => some (0x0A3, .f64 f)
  | .elect f => some (0x0A4, .f64 f)
  | .vote f => some (0x0A5, .f64 f)
  | .trap f => some (0x0A6, .f64 f)
  | .bkpt f => some (0x0A7, .f64 f)
  | .gret f => some (0x0A8, .f64 f)
  | .nop f => some (0x0A9, .f64 f)
  | .wait f => some (0x0C0, .f128x f)
  | .ld f => some (0x100, .f128m f)
  | .st f => some (0x101, .f128m f)
  | .ldm f => some (0x102, .f128m f)
  | .stm f => some (0x103, .f128m f)
  | .aadd f => some (0x110, .f128m f)
  | .amin f => some (0x111, .f128m f)
  | .amax f => some (0x112, .f128m f)
  | .aand f => some (0x113, .f128m f)
  | .aor f => some (0x114, .f128m f)
  | .axor f => some (0x115, .f128m f)
  | .axch f => some (0x116, .f128m f)
  | .acas f => some (0x117, .f128m f)
  | .afadd f => some (0x118, .f128m f)
  | .amaxswap f => some (0x119, .f128m f)
  | .ainc f => some (0x11A, .f128m f)
  | .adec f => some (0x11B, .f128m f)
  | .afmin f => some (0x11C, .f128m f)
  | .afmax f => some (0x11D, .f128m f)
  | .fence f => some (0x120, .f64 f)
  | .stsig f => some (0x121, .f128m f)
  | .binit f => some (0x130, .f128m f)
  | .bexpb f => some (0x131, .f128m f)
  | .barr f => some (0x132, .f128m f)
  | .binv f => some (0x133, .f128m f)
  | .pref f => some (0x140, .f128m f)
  | .clwb f => some (0x141, .f128m f)
  | .clevict f => some (0x142, .f128m f)
  | .clrrv f => some (0x143, .f128m f)
  | .fadd f => some (0x200, .f64 f)
  | .fsub f => some (0x201, .f64 f)
  | .fmul f => some (0x202, .f64 f)
  | .fdiv f => some (0x203, .f64 f)
  | .fmin f => some (0x204, .f64 f)
  | .fmax f => some (0x205, .f64 f)
  | .fabs f => some (0x206, .f64 f)
  | .fneg f => some (0x207, .f64 f)
  | .fsqrt f => some (0x208, .f64 f)
  | .frcp f => some (0x209, .f64 f)
  | .frsq f => some (0x20A, .f64 f)
  | .fexp2 f => some (0x20B, .f64 f)
  | .flog2 f => some (0x20C, .f64 f)
  | .ftanh f => some (0x20D, .f64 f)
  | .fscl f => some (0x20E, .f64 f)
  | .frnd f => some (0x20F, .f64 f)
  | .fclass f => some (0x210, .f64 f)
  | .fsetp f => some (0x211, .f64 f)
  | .cvt f => some (0x212, .f64 f)
  | .perm f => some (0x213, .f64 f)
  | .redux f => some (0x214, .f64 f)
  | .pack f => some (0x215, .f64 f)
  | .upk f => some (0x216, .f64 f)
  | .hadd2 f => some (0x220, .f64 f)
  | .hsub2 f => some (0x221, .f64 f)
  | .hmul2 f => some (0x222, .f64 f)
  | .hmin2 f => some (0x223, .f64 f)
  | .hmax2 f => some (0x224, .f64 f)
  | .hsetp2 f => some (0x225, .f64 f)
  | .ffma f => some (0x240, .f96t f)
  | .hfma2 f => some (0x241, .f96t f)
  | .fsel f => some (0x242, .f96t f)
  | .quant f => some (0x243, .f96t f)
  | .cvpk f => some (0x244, .f96t f)
  | .faddi f => some (0x260, .f96i f)
  | .fmuli f => some (0x261, .f96i f)
  | .mma f => some (0x300, .f128x f)
  | .mmag f => some (0x301, .f128x f)
  | .aclr f => some (0x302, .f64 f)
  | .amov f => some (0x303, .f64 f)
  | .ald f => some (0x304, .f128x f)
  | .ast f => some (0x305, .f128x f)
  | .aepi f => some (0x306, .f128x f)
  | .tcopy f => some (0x310, .f128x f)
  | .seal f => some (0x311, .f64 f)
  | .waitb f => some (0x312, .f64 f)
  | .dictld f => some (0x313, .f128x f)
  | .srd f => some (0x380, .f96i f)
  | .swr f => some (0x381, .f96i f)
  | .tlbinv f => some (0x382, .f64 f)
  | .tlbinva f => some (0x383, .f64 f)
  | .ctxsave f => some (0x384, .f64 f)
  | .ctxrest f => some (0x385, .f64 f)
  | .park f => some (0x386, .f64 f)
  | .resume f => some (0x387, .f64 f)
  | .kill f => some (0x388, .f64 f)
  | .split f => some (0x389, .f64 f)
  | .seedset f => some (0x38A, .f64 f)
  | .eret f => some (0x38B, .f64 f)
  | .gtwr f => some (0x38C, .f128m f)
  | .htwr f => some (0x38D, .f128m f)
  | .ldphys f => some (0x38E, .f128m f)
  | .stphys f => some (0x38F, .f128m f)
  | .gtinv f => some (0x390, .f64 f)
  | .htinv f => some (0x391, .f64 f)
  | .padWord | .regroupBoundary | .holdLimitExpiry _ _ _ | .convergeTimeout _ _ | .waitMemRepoll _ _ _
  | .waitTimeout _ _ _ | .teamAdmit _ | .cohortAdmit _ | .scratchRelease _ | .percolatorSpill _ _
  | .spillWriteComplete _ _ _ _ _ | .registerRefillComplete _ _ _ _ | .loadComplete _ _ | .fetchComplete _ _ _
  | .wSectorRegistration _ _ | .wSectorPush _ _ | .cacheDieTempUpdate _ _ | .splitDieApply _ | .seedsetApply _
  | .operandLatchFill _ _ | .tensorReadComplete _ | .accEntryStart _ | .accEntryComplete _ | .copyElementRead _
  | .copyDataWrite _ _ | .copyArrival _ _ | .copyComplete _ | .copyFault _ | .batchFinish _ _ _
  | .dictldSlotRequest _ _ | .dictldSlotWrite _ _ | .stsigSignal _ | .binvClear _ | .handleEntryWrite _
  | .ctxHtabWrite _ | .trNext _ _ | .tailWrite _ _ | .registerWrite _ _ | .commandAccept _ | .nopCommand _ _
  | .launch _ _ | .copyCommand _ _ | .signalCommand _ _ | .nodeFinish _ _ | .teamDeal _ _ | .stealRequest _
  | .stealAnswer _ _ | .stealBackoffExpiry _ | .preemptionStart _ | .teamSaveWriteOut _ | .teamRestore _ _
  | .tableWalkComplete _ _ _ | .pageFaultReplay _ | .faultRecordDelivery | .cpHeartbeatTimeout | .cpHeartbeat
  | .scrubPass _ _ | .spareCoreMap _ | .spareSliceMap _ _ | .verticalLinkHeartbeat _ _ | .linkLost _
  | .linkWakeExpired _ | .shardRebuild _ | .routerTimeoutDetect _ _ | .squallTokenVisit _ | .flitReplay _ _
  | .stop _ _ | .run _ _ | .step _ _ | .sofWrite _ _ _ | .cstop _ | .pcMatchStop _ _ | .go _ | .dumpWrite _
  | .frz _ _ | .clr _ | .replayAccessRelease _ | .errorCountClear _ | .functionLevelReset _ | .getVersion _
  | .getCapabilities _ | .negotiateAlgorithms _ | .getDigests _ | .getCertificate _ | .challenge _ _
  | .getMeasurements _ _ | .keyExchange _ _ | .finish _ | .heartbeat _ | .keyUpdate _ | .endSession _
  | .query _ | .keyProg _ _ _ | .kSetGo _ _ | .kSetStop _ _ | .getTdispVersion _ | .getTdispCapabilities _
  | .lockInterfaceRequest _ | .getDeviceInterfaceReport _ | .getDeviceInterfaceState _
  | .startInterfaceRequest _ | .stopInterfaceRequest _ | .unsupportedRequest _ | .bringupGo _
  | .towerTempPoll _ _ | .limitWrite _ _ | .idleTimerExpiry | .powerEntryComplete | .wake | .packageWakeEvent
  | .powerExitComplete | .hltWrite _ | .coreFailure _ | .incomingLaunoRequest _ _ _
  | .hostDeviceMemoryAccess _ _ _ | .queueRegisterWrite _ _ _ | .consWrite _ | .lcpWrite _
  | .homeAcknowledgement _ _ | .tlbAcknowledgement _ | .lastLevelTlbLookup _ _ _
  | .destinationLinesHeldInG _ _ _ => none

/-- The opcodes of one format and the instruction of each (R133). -/
def buildF64 (op : Nat) (f : F64) : Option Instr :=
  match op with
  | 0x000 => some (.add f)
  | 0x001 => some (.sub f)
  | 0x002 => some (.mul f)
  | 0x003 => some (.mulhi f)
  | 0x004 => some (.min f)
  | 0x005 => some (.max f)
  | 0x006 => some (.abs f)
  | 0x007 => some (.neg f)
  | 0x008 => some (.and f)
  | 0x009 => some (.or f)
  | 0x00A => some (.xor f)
  | 0x00B => some (.not f)
  | 0x00C => some (.shl f)
  | 0x00D => some (.shr f)
  | 0x00E => some (.sar f)
  | 0x00F => some (.rol f)
  | 0x010 => some (.popc f)
  | 0x011 => some (.clz f)
  | 0x012 => some (.brev f)
  | 0x013 => some (.adda f)
  | 0x014 => some (.mov f)
  | 0x015 => some (.div f)
  | 0x016 => some (.rem f)
  | 0x020 => some (.setp f)
  | 0x021 => some (.pand f)
  | 0x022 => some (.por f)
  | 0x023 => some (.pxor f)
  | 0x024 => some (.pnot f)
  | 0x025 => some (.flclr f)
  | 0x0A0 => some (.jmp f)
  | 0x0A1 => some (.callx f)
  | 0x0A2 => some (.ret f)
  | 0x0A3 => some (.exit f)
  | 0x0A4 => some (.elect f)
  | 0x0A5 => some (.vote f)
  | 0x0A6 => some (.trap f)
  | 0x0A7 => some (.bkpt f)
  | 0x0A8 => some (.gret f)
  | 0x0A9 => some (.nop f)
  | 0x120 => some (.fence f)
  | 0x200 => some (.fadd f)
  | 0x201 => some (.fsub f)
  | 0x202 => some (.fmul f)
  | 0x203 => some (.fdiv f)
  | 0x204 => some (.fmin f)
  | 0x205 => some (.fmax f)
  | 0x206 => some (.fabs f)
  | 0x207 => some (.fneg f)
  | 0x208 => some (.fsqrt f)
  | 0x209 => some (.frcp f)
  | 0x20A => some (.frsq f)
  | 0x20B => some (.fexp2 f)
  | 0x20C => some (.flog2 f)
  | 0x20D => some (.ftanh f)
  | 0x20E => some (.fscl f)
  | 0x20F => some (.frnd f)
  | 0x210 => some (.fclass f)
  | 0x211 => some (.fsetp f)
  | 0x212 => some (.cvt f)
  | 0x213 => some (.perm f)
  | 0x214 => some (.redux f)
  | 0x215 => some (.pack f)
  | 0x216 => some (.upk f)
  | 0x220 => some (.hadd2 f)
  | 0x221 => some (.hsub2 f)
  | 0x222 => some (.hmul2 f)
  | 0x223 => some (.hmin2 f)
  | 0x224 => some (.hmax2 f)
  | 0x225 => some (.hsetp2 f)
  | 0x302 => some (.aclr f)
  | 0x303 => some (.amov f)
  | 0x311 => some (.seal f)
  | 0x312 => some (.waitb f)
  | 0x382 => some (.tlbinv f)
  | 0x383 => some (.tlbinva f)
  | 0x384 => some (.ctxsave f)
  | 0x385 => some (.ctxrest f)
  | 0x386 => some (.park f)
  | 0x387 => some (.resume f)
  | 0x388 => some (.kill f)
  | 0x389 => some (.split f)
  | 0x38A => some (.seedset f)
  | 0x38B => some (.eret f)
  | 0x390 => some (.gtinv f)
  | 0x391 => some (.htinv f)
  | _ => none

def buildF96T (op : Nat) (f : F96T) : Option Instr :=
  match op with
  | 0x040 => some (.mad f)
  | 0x041 => some (.sel f)
  | 0x042 => some (.bfx f)
  | 0x043 => some (.bfi f)
  | 0x044 => some (.wsh f)
  | 0x045 => some (.ixset f)
  | 0x240 => some (.ffma f)
  | 0x241 => some (.hfma2 f)
  | 0x242 => some (.fsel f)
  | 0x243 => some (.quant f)
  | 0x244 => some (.cvpk f)
  | _ => none

def buildF96I (op : Nat) (f : F96I) : Option Instr :=
  match op with
  | 0x060 => some (.movi f)
  | 0x061 => some (.addi f)
  | 0x062 => some (.muli f)
  | 0x063 => some (.andi f)
  | 0x064 => some (.ori f)
  | 0x065 => some (.xori f)
  | 0x066 => some (.setpi f)
  | 0x080 => some (.bra f)
  | 0x081 => some (.call f)
  | 0x082 => some (.meet f)
  | 0x083 => some (.gate f)
  | 0x260 => some (.faddi f)
  | 0x261 => some (.fmuli f)
  | 0x380 => some (.srd f)
  | 0x381 => some (.swr f)
  | _ => none

def buildF128M (op : Nat) (f : F128M) : Option Instr :=
  match op with
  | 0x100 => some (.ld f)
  | 0x101 => some (.st f)
  | 0x102 => some (.ldm f)
  | 0x103 => some (.stm f)
  | 0x110 => some (.aadd f)
  | 0x111 => some (.amin f)
  | 0x112 => some (.amax f)
  | 0x113 => some (.aand f)
  | 0x114 => some (.aor f)
  | 0x115 => some (.axor f)
  | 0x116 => some (.axch f)
  | 0x117 => some (.acas f)
  | 0x118 => some (.afadd f)
  | 0x119 => some (.amaxswap f)
  | 0x11A => some (.ainc f)
  | 0x11B => some (.adec f)
  | 0x11C => some (.afmin f)
  | 0x11D => some (.afmax f)
  | 0x121 => some (.stsig f)
  | 0x130 => some (.binit f)
  | 0x131 => some (.bexpb f)
  | 0x132 => some (.barr f)
  | 0x133 => some (.binv f)
  | 0x140 => some (.pref f)
  | 0x141 => some (.clwb f)
  | 0x142 => some (.clevict f)
  | 0x143 => some (.clrrv f)
  | 0x38C => some (.gtwr f)
  | 0x38D => some (.htwr f)
  | 0x38E => some (.ldphys f)
  | 0x38F => some (.stphys f)
  | _ => none

def buildF128X (op : Nat) (f : F128X) : Option Instr :=
  match op with
  | 0x0C0 => some (.wait f)
  | 0x300 => some (.mma f)
  | 0x301 => some (.mmag f)
  | 0x304 => some (.ald f)
  | 0x305 => some (.ast f)
  | 0x306 => some (.aepi f)
  | 0x310 => some (.tcopy f)
  | 0x313 => some (.dictld f)
  | _ => none

/-- The format of an assigned opcode (R133); an opcode that is not listed is unassigned (R134). -/
def formatOf (op : Nat) : Option Format :=
  if 0x000 ≤ op ∧ op ≤ 0x016 then some .f64
  else if 0x020 ≤ op ∧ op ≤ 0x025 then some .f64
  else if 0x040 ≤ op ∧ op ≤ 0x045 then some .f96t
  else if 0x060 ≤ op ∧ op ≤ 0x066 then some .f96i
  else if 0x080 ≤ op ∧ op ≤ 0x083 then some .f96i
  else if 0x0A0 ≤ op ∧ op ≤ 0x0A9 then some .f64
  else if op = 0x0C0 then some .f128x
  else if 0x100 ≤ op ∧ op ≤ 0x103 then some .f128m
  else if 0x110 ≤ op ∧ op ≤ 0x11D then some .f128m
  else if op = 0x120 then some .f64
  else if op = 0x121 then some .f128m
  else if 0x130 ≤ op ∧ op ≤ 0x133 then some .f128m
  else if 0x140 ≤ op ∧ op ≤ 0x143 then some .f128m
  else if 0x200 ≤ op ∧ op ≤ 0x216 then some .f64
  else if 0x220 ≤ op ∧ op ≤ 0x225 then some .f64
  else if 0x240 ≤ op ∧ op ≤ 0x244 then some .f96t
  else if 0x260 ≤ op ∧ op ≤ 0x261 then some .f96i
  else if 0x300 ≤ op ∧ op ≤ 0x301 then some .f128x
  else if 0x302 ≤ op ∧ op ≤ 0x303 then some .f64
  else if 0x304 ≤ op ∧ op ≤ 0x306 then some .f128x
  else if op = 0x310 then some .f128x
  else if 0x311 ≤ op ∧ op ≤ 0x312 then some .f64
  else if op = 0x313 then some .f128x
  else if 0x380 ≤ op ∧ op ≤ 0x381 then some .f96i
  else if 0x382 ≤ op ∧ op ≤ 0x38B then some .f64
  else if 0x38C ≤ op ∧ op ≤ 0x38F then some .f128m
  else if 0x390 ≤ op ∧ op ≤ 0x391 then some .f64
  else none

end Sys2Proof.Machine
end

