-- ==== Sys2Proof/Machine/State.lean ====
section
/-! DEFINITION. The state of the Vidripen package as plain data: threads, crews and teams (01, 02), memories and caches
(04, 05, 17), work in progress (08, 10), the command processor (14), translation (15), faults (16), debug and replay
(18), host link, bring-up and power (20); the reasons a step can stop; the state right after reset. INVENTORY.md lists
every field with its rule and its reset value. -/
namespace Sys2Proof.Machine

/-- Why the machine stops with a fault: the list is empty, as no rule stops it. -/
inductive Fault
deriving DecidableEq, Repr

/-- Why the model gives no next state (a closed list). -/
inductive Refusal where
  /-- Raised by the arm of an instruction that has no meaning in the model. Safe: nothing is claimed of it. -/
  | notModelled (mnemonic : String)
deriving DecidableEq, Repr

/-- A byte-addressed memory: pairs (address, byte), addresses strictly rising, no byte equal to the unlisted value 0. -/
abbrev Memory := List Host.Cell

/-! ### Threads, crews, teams -/

/-- The thread states of R13. -/
inductive TState | ready | stalled | held | cheld | waiting | parked | exited
deriving DecidableEq, Repr, Inhabited

/-- What a STALLED thread waits for (R13, R355): a scoreboard dependence, a structural limit, register entries, its
fetch, a translation lookup, a page, a CALL or RET access, the operand latch of an MMA, grants of G, a serialising
instruction. -/
inductive Why | none | dep | struct | regs | fetch | xlate | page | call | latch | grant | serial
deriving DecidableEq, Repr, Inhabited

/-- The causes of R310. -/
inductive Cause
  | illegal | ifetchSplit | pcAlign | privOp | illConverge | indexBound | zreadStrict | callDepth | retEmpty | regBudget
  | userTrap | breakpoint | park | debugStop
  | addrRange | addrWindow | misalign | scratchBound | privBound | dscratchBound | peerAbsent | peerFar | blockAlign
  | barSpace | barCount
  | pageAbsent | ptInvalid | pageProt | ptFormat | worldFault | pinFault
  | handleInvalid | handleRo | handleWorld | handleFmt | layoutInvalid | copyFault
  | gateInvalid | gateDenied | gateWorld | gateDepth | gateSpace | gateExit | gretEmpty
  | privDomain | splitDenied | physDenied | eretNone
  | layerOff | poison | ctxSaveFault | dieLost | linkLost | linkWakeExpired
deriving DecidableEq, Repr, Inhabited

/-- Why a thread is PARKED (R259): PARK, DEBUG_STOP, a percolator spill, the fault of a record, or the end of a gate call with a cause,
which waits for the callee's accesses (R170). -/
inductive ParkCause | park | debug (core sched : Nat) | spill | fault (rid : Nat) | ending (cause : Nat)
deriving DecidableEq, Repr, Inhabited

/-- Where a register's value stands (R49, R52, R53): in an entry, in one that is being written to the spill area, in the spill area, or on
its way there with no entry, having arrived after the register was spilled. -/
inductive RegSt | mapped | spilling | spilled | late
deriving DecidableEq, Repr, Inhabited

/-- Whether a register holds an entry (R49, R51). -/
def RegSt.entry : RegSt → Bool
  | .mapped | .spilling => true
  | .spilled | .late => false

/-- One thread register that has an entry or a spilled value; an unlisted register is unmapped (R46). -/
structure Reg where
  /-- register number, 0 to 127 -/
  n : Nat
  v : Word
  st : RegSt
  /-- an issued instruction has still to write it (R173) -/
  pend : Bool
  /-- the entry holds an uncorrectable error (R325) -/
  bad : Bool
  /-- the map level of its place in the spill area, when spilled (R53, R169) -/
  lvl : Nat
  /-- what will be written to it may leave it as it is: the format that decides is not known yet (R176, log 91) -/
  keep : Bool := false
deriving DecidableEq, Repr, Inhabited

/-- A location that an access reaches (R77): physical memory, the scratchpad of a team, the die scratch of a context on
a logical die, the tensor space of a partition. -/
inductive Loc
  | phys (pa : Nat)
  | scr (serial off : Nat)
  | dscr (ctx die off : Nat)
  | ten (part off : Nat)
deriving DecidableEq, Repr, Inhabited

/-- A place of R77 that a lane addresses: a location, or a virtual address to translate. -/
inductive Where
  | loc (l : Loc)
  | va (v : Nat)
deriving DecidableEq, Repr, Inhabited

/-- A condition of WAIT (R22). -/
inductive Cond
  | bar (off : Nat) (q : Bool)
  | batch (n : Nat)
  | mem (loc : Loc) (mask value : Nat)
  | tile (mask : Nat)
  | time (t : Nat)
deriving DecidableEq, Repr, Inhabited

/-- A WAIT in progress (R23, R24, R163). -/
structure Pending where
  conds : List Cond
  all : Bool
  /-- size of the MEM word in bytes -/
  msz : Nat
  mrel : Nat
  /-- destination code, 200 to 207 or 255 -/
  dst : Nat
  creg : Option Nat
  /-- bytes of the instruction -/
  len : Nat
  /-- cycles counted toward the time-out (R26) -/
  elapsed : Nat
  /-- cycles since the MEM word was last read (R23) -/
  polled : Nat
  /-- source values, for a new issue after POISON (R164) -/
  vals : List DWord
  /-- the address of the MEM word as a record names it (R314) -/
  addr : Nat
  /-- class and SHR of the page of the MEM word (R87, R89) -/
  cls : Nat := 0
  shr : Bool := false
deriving DecidableEq, Repr, Inhabited

/-- A thread (R10, R13, R34). -/
structure Thread where
  pc : DWord
  st : TState
  why : Why
  /-- the state it returns to when it leaves PARKED (R259) -/
  back : TState
  regs : List Reg
  preds : BitVec 8
  idx : List Word
  mrv : Bool
  mrm : DWord
  /-- V and M as they count toward meetings in the cycle in which a MEET writes them (R158) -/
  mrOld : Option (Bool × DWord)
  flags : Word
  depth : Nat
  /-- on-chip return addresses, newest first (R58) -/
  stack : List DWord
  wait : Option Pending
  batchNo : Word
  /-- copies and DICTLDs of the open batch, by identifier, and their count since the last SEAL (R235) -/
  openOps : List Nat
  /-- unfinished sealed batches, oldest first, each with its incomplete operations (R237) -/
  batches : List (List Nat)
  causes : List ParkCause
  /-- source values for a re-execution (R305), none when the thread reads its registers -/
  relog : Option (List DWord)
  /-- the page that a lane STALLED for a page waits for (R304) -/
  page : Nat
  lastIssue : Nat
  /-- it became READY in this cycle and has not issued since (R15, joint readiness) -/
  woke : Bool
  /-- sources of the instruction to be performed again that have no value in `relog`: they left their windows when it was read (R45; log 121) -/
  gaps : List Src := []
deriving DecidableEq, Repr, Inhabited

/-- The part of a thread that a gate frame keeps (R167). -/
structure LaneFrame where
  regs : List Reg
  preds : BitVec 8
  idx : List Word
  mrv : Bool
  mrm : DWord
  flags : Word
  depth : Nat
  stack : List DWord
deriving DecidableEq, Repr, Inhabited

/-- A gate frame (R167). -/
structure Frame where
  pc : DWord
  asid : Nat
  secure : Bool
  fdom : Nat
  privBase : Nat
  privSize : Nat
  rbud : Nat
  nres : Nat
  scrf : Bool
  /-- c0 to c62 when the entry scrubs them -/
  cregs : Option (List Word)
  lanes : List LaneFrame
deriving DecidableEq, Repr, Inhabited

/-- A record of a fault (R314), before and after it is written to a ring. -/
structure Rec where
  rid : Nat
  ctx : Nat
  cause : Cause
  sub : Nat
  fdom : Nat
  gdepth : Nat
  /-- kind L: the crew runs on -/
  lanes : Bool
  escd : Bool
  serial : Nat
  crew : Nat
  lmask : Mask
  pc : DWord
  addr : DWord
  info : Nat
  ilane : Nat
  core : Nat
  /-- the page a record of kind L is open for, with its ASID (R304) -/
  page : Option (Nat × Nat)
  /-- the issue whose accesses met the fault when they were performed (R331, R381) -/
  group : Option Nat := none
deriving DecidableEq, Repr, Inhabited

/-- A claimed record: TR.CUR and TR.REC0 to TR.REC7 (R315, R316). -/
structure Claim where
  fdom : Nat
  index : Nat
  rid : Nat
  dws : List DWord
deriving DecidableEq, Repr, Inhabited

/-- A WAIT of a lane that ended in the cycle that runs: its PC, its crew register if any, its result word (R24, R25). -/
structure WaitEnd where
  lane : Nat
  pc : DWord
  creg : Nat
  word : Word
deriving DecidableEq, Repr, Inhabited

/-- An uncorrectable or correctable error of a stored codeword of 64 bytes that nothing has consumed yet (R324): its address over 64 in flat
memory, or in the tensor space of a partition. A codeword that would arrive from a wrong address is uncorrectable. -/
structure Upset where
  ten : Option Nat
  line : Nat
  bad : Bool
deriving DecidableEq, Repr, Inhabited

/-- An error that strikes (R324, R325): a stored codeword; a word that can no longer be corrected, of the register banks, the crew registers,
the scratchpad, the accumulator store or die scratch; a directory or tag entry of a line, or of a line of a partition's tensor space. The arrays carry a code for each 8 bytes. -/
inductive Strike
  | codeword (u : Upset)
  | reg (team crew lane n : Nat)
  | creg (team crew n : Nat)
  | scr (team word : Nat)
  | tile (team tile word : Nat)
  | dscr (ctx die word : Nat)
  | entry (ten : Option Nat) (line : Nat)
deriving DecidableEq, Repr, Inhabited

/-- Operand-log slots that a memory instruction holds for lanes that are to perform it again after a fault (R305). -/
structure KeptLog where
  pc : DWord
  ins : Instr
  slots : Nat
  group : Nat
deriving DecidableEq, Repr, Inhabited

/-- A crew (R12, R33). -/
structure Crew where
  /-- team serial (R254) -/
  team : Nat
  id : Nat
  core : Nat
  slot : Nat
  creg : List Word
  /-- crew registers poisoned by an uncorrectable error (R325) -/
  cbad : List Nat
  /-- ELECT rotation lane Q (R160) -/
  rot : Nat
  /-- gate frames, innermost first (R167) -/
  frames : List Frame
  asid : Nat
  secure : Bool
  fdom : Nat
  privBase : Nat
  privSize : Nat
  rbud : Nat
  threads : List Thread
  /-- lane masks of the bundles of READY and STALLED threads -/
  bundles : List Mask
  /-- bundles that PARKED lanes left while STALLED: lanes that return STALLED keep them (R15, R259) -/
  left : List Mask
  /-- WAITs that have ended in the cycle that runs (R25) -/
  ended : List WaitEnd
  /-- hold counts by meeting address (R18) -/
  holds : List (DWord × Nat)
  /-- the collectives that threads stand at, each with its count (R20) -/
  coll : List (DWord × Nat)
  /-- the MMA or MMAG whose operand latch is being filled (R219) -/
  latch : Option Instr
  claim : Option Claim
  /-- drains that must end before the crew issues again (R256) -/
  busy : List Nat
  /-- accesses whose registers were outstanding when the crew was parked: group, destination code, lanes, PC (R353) -/
  atPark : List (Nat × Nat × Mask × DWord)
  /-- admission order on its core (R52) -/
  order : Nat
  /-- slots held for re-execution: of each address, while a lane is to perform it again (R305) -/
  logs : List KeptLog := []
  /-- it is new, and the percolator has still to free its reservation in a bank (R50) -/
  owed : Bool := false
deriving DecidableEq, Repr, Inhabited

/-- A team (R27, R277, R282) with the launch parameters in force for it. -/
structure Team where
  serial : Nat
  ctx : Nat
  node : Nat
  teamid : Nat
  core : Nat
  crews : Nat
  regmin : Nat
  tiles : Nat
  ptag : Nat
  scrK : Nat
  dscrK : Nat
  privB : Nat
  privP : Nat
  saveB : Nat
  /-- 0 none, 1 cluster, 2 die, 3 stack -/
  clvl : Nat
  csize : Nat
  /-- teams of the launch -/
  teams : Nat
  epc : DWord
  prio : Nat
  level : Nat
  strict : Bool
  gclass : Nat
  fdom : Nat
  holdcfg : Word
  /-- steal reach (R275) -/
  slvl : Nat
  /-- leaf RCB as the command names it (R252), and physical addresses of it and of the RCBs above it, nearest first (R276) -/
  rcbVa : Nat
  rcb : Nat
  path : List Nat
  gcnt : Nat
  gtab : Nat
  spb : Nat
  tslots : Nat
  /-- team slot of its spill pool (R282) -/
  slot : Nat
  scr : Memory
  /-- poisoned 8-byte words of the scratchpad (R325) -/
  scrBad : List Nat
  /-- tiles, byte 256i + 4j (R211) -/
  tile : List Memory
  tileBad : List Nat
  ended : Bool
  /-- a team whose crews are gone keeps its scratchpad until its copies end (R27) -/
  released : Bool
  killed : Bool
deriving DecidableEq, Repr, Inhabited

/-- An action recorded for a saved team (R259, R317). -/
inductive SaveAct
  | park (crew : Nat)
  | resume (crew : Nat)
  /-- a disposition of the record with this identifier, page and cause code -/
  | eret (crew rid k : Nat) (page : Option (Nat × Nat)) (cause : Nat)
  | kill (crew : Nat)
  | killGate (crew cause : Nat)
  /-- a KILL of the team that arrived while it was being saved (R269) -/
  | killAll
deriving DecidableEq, Repr, Inhabited

/-- An action on a team that waits for the end of its dump (R351): KILL, or a save with its area and batch operation. -/
inductive DumpAct
  | act (team : Nat) (a : SaveAct)
  | save (team addr asid : Nat) (secure : Bool) (op : Option Nat)
deriving DecidableEq, Repr, Inhabited

/-! ### Accesses, engines and copies -/

/-- What an access does (R106). -/
inductive AccKind
  | load | store | atomic | fence | bar | stsig | binv | clwb | clevict
  /-- the memory access of a CALL, CALLX: target and return address; and of a RET (R58) -/
  | push (target ra : DWord)
  | pop
  /-- an AEPI, a TCOPY or DICTLD lane that has met an absent page at issue: it has not reached its engine (R210) -/
  | epi
  | copy
  /-- the writes of an AST or AEPI, and its amax update (R225); the access has the identifier of its entry -/
  | tile
deriving DecidableEq, Repr, Inhabited

/-- One event of an access (R108): at most 8 bytes, or 16 for a barrier object. -/
structure AUnit where
  loc : Loc
  size : Nat
  /-- value written, or value read -/
  data : Nat
  done : Bool
  /-- storage format, class and SHR of its page (R84, R89, R102) -/
  sf : Nat := 0
  cls : Nat := 0
  shr : Bool := false
deriving DecidableEq, Repr, Inhabited

/-- Why an access may not be performed yet (R304, R381, R306, R359); the writes of an accumulator entry wait for its start (R212), an access
made on a predicted translation for the end of its lookup (R303). -/
inductive Hold | none | page (va : Nat) | replay | fault (rid : Nat) | clock | tile | predict
deriving DecidableEq, Repr, Inhabited

/-- What an access of `.page` keeps while its page is absent, since the format decides its registers (R176, R304; log 91): the longest data
run that suits the lane. -/
structure Late where
  /-- first register of the run and its registers -/
  first : Nat
  len : Nat
  /-- the run is named by an index register: the registers left in its window -/
  room : Option Nat
  /-- words of a store that were read unmapped, and poisoned -/
  zero : List Nat
  bad : List Nat
  /-- destination registers that had no entry; source registers that the run releases (R47) -/
  fresh : List Nat
  last : List Nat
deriving DecidableEq, Repr, Inhabited

/-- The access of one lane of one instruction, from its issue until it is performed (R106, R173). -/
structure Acc where
  id : Nat
  /-- the issue it belongs to: one number for the lanes of one instruction -/
  group : Nat
  serial : Nat
  crew : Nat
  lane : Nat
  core : Nat
  ctx : Nat
  pc : DWord
  ins : Instr
  kind : AccKind
  units : List AUnit
  /-- lane address as the instruction formed it, for ADDR of a record (R314) -/
  addr : Nat
  /-- the ranges that the lane addresses: place and bytes; as wide as its format can make them while a page is awaited (R112, R124) -/
  foot : List (Where × Nat)
  acq : Bool
  rel : Bool
  scope : Nat
  /-- storage format of the page (R84) -/
  sfmt : Nat
  rd : Nat
  /-- first destination register and number of registers written -/
  dst : Option Nat
  nreg : Nat
  /-- source values of the operand log (R305) -/
  vals : List Nat
  hold : Hold
  /-- operand-log slots held (R305) -/
  slots : Nat
  /-- gate depth at issue -/
  gdepth : Nat
  /-- the access is physical and performed at the home (R267) -/
  phys : Bool
  /-- the page that decides its registers is absent -/
  late : Option Late := none
  /-- a page fault has held it back: what it writes comes of its replay (R20, R306) -/
  paged : Bool := false
deriving DecidableEq, Repr, Inhabited

/-- A team that is being saved (`status` 0) or lies in a save area (R289 to R291). -/
structure Saved where
  team : Team
  crews : List Crew
  /-- accesses that wait for pages, in the operand logs -/
  accs : List Acc
  /-- the area: virtual address, ASID and world of its translation -/
  addr : Nat
  asid : Nat
  secure : Bool
  /-- the status of R260: 0 being saved, 1 saved, 4 refused at restore -/
  status : Nat
  acts : List SaveAct
  /-- the batch operation of the CTXSAVE or CTXREST that waits for it, if any -/
  op : Option Nat
deriving DecidableEq, Repr, Inhabited

/-- Where a byte of an engine's work is read from or written to: a location; a generic address still to be translated; byte
`k` of the entry of a dictionary slot that the code at a location selects (R238); zero; nowhere. -/
inductive Place
  | at (l : Loc)
  | va (g : Nat)
  | code (l : Loc) (stack slot k : Nat)
  /-- a byte that has been read: with others of its element, at one moment (R120) -/
  | byte (b : Byte)
  | zero
  | drop
deriving DecidableEq, Repr, Inhabited

/-- An entry of an accumulator queue (R212). -/
structure AccEntry where
  id : Nat
  core : Nat
  ctx : Nat
  serial : Nat
  crew : Nat
  lane : Nat
  pc : DWord
  ins : Instr
  /-- tiles read and tiles written -/
  srcs : List Nat
  dsts : List Nat
  /-- operand bytes in the latch: rows of A (an ALD's rows), columns of B -/
  a : List Byte
  b : List Byte
  /-- tensor bytes of B still to be read, poisoned bytes of B (R218, R322) -/
  bsrc : List Place
  bbad : List Nat
  /-- stack and slot of the dictionary, with the generation bound (R239) -/
  dict : Option (Nat × Nat)
  gen : Nat
  /-- scale of an AEPI; band scales of an FP4B24 MMA, as staged at issue (R57) -/
  scale : Nat
  bandA : Nat
  bandB : Nat
  /-- 8-byte units of an AST's or AEPI's destination, row by row, then the 4-byte amax word -/
  units : List AUnit
  /-- scope of its writes (R222, R223) -/
  scope : Nat
  /-- the cycle in which it entered the queue, and its scheduler (R212) -/
  entered : Nat
  sched : Nat
  /-- global destination lines of an AEPI; it is in the queue once they are held in G (R224) -/
  lines : List Nat
  granted : Bool
  started : Bool
  /-- what completion writes: tiles, flags; sub-cause of POISON met -/
  result : List (Nat × Memory)
  flags : Nat
  poison : Option Nat
  /-- the ranges that it writes, as its lane addresses them (R112, R124) -/
  foot : List (Where × Nat) := []
deriving DecidableEq, Repr, Inhabited

/-- One aligned unit of a copy of at most 8 bytes (R108, R233): source and destination place of each byte. -/
structure Move where
  srcs : List Place
  dsts : List Place
  /-- the receiver it counts for -/
  recv : Nat
  /-- generic address of the first byte of a FLAT destination, for the record of a fault (R314) -/
  addr : Nat
  /-- class and SHR of the page of a FLAT destination (R87, R89, R102) -/
  cls : Nat := 0
  shr : Bool := false
  done : Bool
deriving DecidableEq, Repr, Inhabited

/-- A receiver of a copy (R233): the team whose object is at `off`, whether the arrival was made. -/
structure Recv where
  serial : Nat
  off : Nat
  arrived : Bool
deriving DecidableEq, Repr, Inhabited

/-- A TCOPY (R226 to R234) from issue to completion. -/
structure Copy where
  id : Nat
  serial : Nat
  crew : Nat
  lane : Nat
  core : Nat
  ctx : Nat
  asid : Nat
  secure : Bool
  level : Nat
  pc : DWord
  ins : Instr
  /-- record address or byte count, source and destination operands -/
  s1 : Nat
  s2 : Nat
  s3 : Nat
  coords : List Int
  /-- teams whose scratchpad is written -/
  targets : List Nat
  /-- address of the next record element to read, the first element of a dense record, elements read -/
  elem : Option Nat
  first : Option Nat
  elems : Nat
  /-- the chain element that has been read and whose predicate word has not (R229, R233) -/
  held : Option Nat
  /-- partition, element plane and scale plane of an FP4B24 tensor side, whose blocks are elements (R120) -/
  plane : Option (Nat × Nat × Nat)
  /-- packed bytes laid out so far (R230) -/
  run : Nat
  moves : List Move
  recvs : List Recv
  written : Nat
  /-- stack and slot of the dictionary, with the generation bound at issue (R231) -/
  dict : Option (Nat × Nat)
  gen : Nat
  /-- destination lines, held in G once granted (R117, R232) -/
  lines : List Nat
  granted : Bool
  /-- the release of R117 has been made -/
  fenced : Bool
  /-- the absent page that it waits for (R234) -/
  page : Option Nat
  /-- the fault that ends it, with the address where it was met (R234, R314) -/
  failed : Option (Cause × Nat)
deriving DecidableEq, Repr, Inhabited

/-- A DICTLD (R239): the stacks it has not reached, those it has reached with the generation given, the image. -/
structure DictLoad where
  id : Nat
  serial : Nat
  crew : Nat
  lane : Nat
  core : Nat
  ctx : Nat
  pc : DWord
  scope : Nat
  slot : Nat
  /-- generic address and 8-byte units of the image -/
  addr : Nat
  image : List Loc
  /-- class and SHR of the page of the image (R89, R102) -/
  cls : Nat
  shr : Bool
  todo : List Nat
  reached : List (Nat × Nat)
  /-- destination bytes written (R234) -/
  written : Nat
  fenced : Bool
  failed : Option Cause
deriving DecidableEq, Repr, Inhabited

/-- A dictionary slot (R238): `gen` rises with each request (R239). -/
structure Dict where
  ctx : Nat
  stack : Nat
  slot : Nat
  gen : Nat
  entries : Memory
deriving DecidableEq, Repr, Inhabited

/-- A privileged operation in progress. -/
inductive DrainKind
  /-- HTWR of an entry: index and 64-byte image; HTINV of it: no image (R265, R266) -/
  | handle (h : Nat) (img : List Byte)
  /-- HTINV `.all` -/
  | handleAll
  /-- a write of CTX.HTAB (R253) -/
  | htab (v : DWord)
  /-- SPLIT: value and the logical dies still to do (R262) -/
  | split (w : Nat) (dies : List Nat)
  /-- SEEDSET (R263) -/
  | seed (v : Word)
  /-- TLBINV, TLBINVA: first ASID and count, address if any, issuing core and scope; what was translated through the entries removed, or
  predicted from the state cleared, by identifier (R258) -/
  | tlb (first count : Nat) (va : Option Nat) (core scope : Nat) (ids : List Nat)
  /-- PARK of a crew whose instructions have not all completed (R259) -/
  | park (serial crew : Nat)
deriving DecidableEq, Repr, Inhabited

/-- A privileged operation in progress, with its issuer. Operations issued before it have lower identifiers. -/
structure Drain where
  id : Nat
  ctx : Nat
  serial : Nat
  crew : Nat
  kind : DrainKind
deriving DecidableEq, Repr, Inhabited

/-! ### Caches and translation -/

/-- A page-table leaf as a TLB holds it (R296, R300). -/
structure Leaf where
  asid : Nat
  secure : Bool
  /-- virtual and physical page base, page size -/
  va : Nat
  pa : Nat
  size : Nat
  wr : Bool
  ex : Bool
  usr : Bool
  cls : Nat
  shr : Bool
  pin : Bool
  wld : Bool
  sfmt : Nat
  csoff : Int
deriving DecidableEq, Repr, Inhabited

/-- The sector states of R334 that a cache holds. -/
inductive LState | m | o | e | s | i | r | w
deriving DecidableEq, Repr, Inhabited

/-- A line of a die's L2, in a way of its set, with the state of each sector (R82, R87, R334). -/
structure L2Line where
  die : Nat
  way : Nat
  line : Nat
  ctx : Nat
  cls : Nat
  shr : Bool
  v : Nat
  sts : List LState
deriving DecidableEq, Repr, Inhabited

/-- A line of a core's L1 data cache, with the sectors that are valid (R82, R334). -/
structure L1Line where
  core : Nat
  line : Nat
  ctx : Nat
  secs : List Bool
deriving DecidableEq, Repr, Inhabited

/-- A line of a stack's last-level cache, of flat memory or of the tensor store (R77), in a way of its set, with the state of each sector:
I, E where clean, M where dirty (R82, R87). `part` owns it, and `way` counts among its ways (R250). -/
structure LlcLine where
  stack : Nat
  way : Nat
  line : Nat
  ten : Bool
  ctx : Nat
  part : Nat
  v : Nat
  sts : List LState
deriving DecidableEq, Repr, Inhabited

/-- A W sector of a die: its masked bytes by address, the last received of each (R334, R336). -/
structure WSec where
  die : Nat
  sector : Nat
  ctx : Nat
  bytes : List Host.Cell
deriving DecidableEq, Repr, Inhabited

/-- Die scratch of a context on a logical die, with its poisoned 8-byte words (R91, R321). -/
structure DScr where
  ctx : Nat
  die : Nat
  mem : Memory
  bad : List Nat
  /-- slices that failed, with the bytes of scratch there were; the words written since (R328) -/
  lost : List (Nat × Nat)
  fresh : List Nat
deriving DecidableEq, Repr, Inhabited

/-- A line of a core's L1 instruction cache, with the bytes of each sector as they were filled; a sector that is not valid has none (R82, R136). -/
structure ILine where
  core : Nat
  line : Nat
  secs : List (List Byte)
deriving DecidableEq, Repr, Inhabited

/-- A translation lookup that has missed its core TLB: before and after it has missed the last-level TLB, with the leaf
the contiguity predictor proposed (R300, R303), or the fault its walk returned for the instruction that asked. -/
structure Lookup where
  core : Nat
  asid : Nat
  secure : Bool
  va : Nat
  walking : Bool
  guess : Option Leaf
  failed : Option Cause
  /-- crews whose instructions asked for it, by team serial and crewid, and have not taken its fault -/
  waiters : List (Nat × Nat)
deriving DecidableEq, Repr, Inhabited

/-- Where a write of the command processor or of the save engine goes: a physical address; a pinned address, translated when it is performed,
of the save engine for a context or of the command processor; the next place of the journal, with the record but for its number (R273, R301). -/
inductive PostedTo
  | at (pa : Nat)
  | pinned (core asid : Nat) (secure : Bool) (va : Nat) (ctx : Option Nat)
  | record (v : Nat)
deriving DecidableEq, Repr, Inhabited

/-- Such a write, while its line or its walk is held (R117, R297, R342, R343). -/
structure Posted where
  place : PostedTo
  data : List Byte
deriving DecidableEq, Repr, Inhabited

/-- Memories, caches and translation (04, 05, 15, 17). -/
structure Store where
  /-- flat physical memory: the bytes visible to the package -/
  mem : Memory
  /-- poisoned 256-byte sectors (R125, R325) -/
  poison : List Nat
  wsecs : List WSec
  dscr : List DScr
  /-- tensor spaces by partition, and their poisoned sectors -/
  tensor : List (Nat × Memory)
  tpoison : List (Nat × Nat)
  /-- codewords with an error that nothing has consumed yet (R324) -/
  upsets : List Upset
  hostMem : Memory
  l1 : List L1Line
  icache : List ILine
  l2 : List L2Line
  llc : List LlcLine
  /-- TLBs, most recent first: (core, leaf) and (logical die, leaf) -/
  coreTlb : List (Nat × Leaf)
  llTlb : List (Nat × Leaf)
  lookups : List Lookup
  /-- writes of the command processor and of the save engine that wait, oldest first -/
  posted : List Posted := []
deriving DecidableEq, Repr, Inhabited

/-! ### Contexts and faults -/

/-- A gate entry in force (R165, R265): of the region whose RCB lies at `rcb`. -/
structure GateEnt where
  ctx : Nat
  rcb : Nat
  n : Nat
  /-- physical address of the entry's bytes -/
  pa : Nat
  img : BitVec 256
deriving DecidableEq, Repr, Inhabited

/-- A context (R251 to R253). -/
structure Ctx where
  id : Nat
  secure : Bool
  part : Nat
  /-- scratch ways by logical die, unlisted 0 (R90) -/
  split : List (Nat × Nat)
  seed : Word
  wayq : Word
  htab : DWord
  asids : Word
  fdt : DWord
  /-- the handle table as the engines use it (R266) -/
  handles : Memory
  lost : Bool
deriving DecidableEq, Repr, Inhabited

/-- A record in a ring, by its index (R313, R316). -/
structure RingRec where
  index : Nat
  fault : Rec
  claimed : Bool
  ended : Bool
deriving DecidableEq, Repr, Inhabited

/-- A fault domain's ring as the command processor keeps it (R311). -/
structure Ring where
  ctx : Nat
  fdom : Nat
  head : Nat
  tail : Nat
  recs : List RingRec
deriving DecidableEq, Repr, Inhabited

/-! ### The command processor (14, 16) -/

/-- An intake queue (R270). -/
structure Queue where
  loc : Bool
  rbase : Nat
  en : Bool
  log2n : Nat
  ctx : Nat
  head : Nat
  tail : Nat
  jstall : Bool
  terr : Bool
  /-- the function it is assigned to, 0 none (R373) -/
  fn : Nat
deriving DecidableEq, Repr, Inhabited

/-- Where a node stands (R278). -/
inductive NodeSt | waiting | started | done
deriving DecidableEq, Repr, Inhabited

/-- A node (R272, R278). -/
structure Node where
  ctx : Nat
  id : Nat
  kind : Nat
  queue : Nat
  pred : Nat
  st : NodeSt
  succs : List Nat
  /-- buffer handle, W, HOST (R279) -/
  bufs : List (Nat × Bool × Bool)
  arg0 : Nat
  arg1 : Nat
  arg2 : Nat
  /-- sequence number of its ACCEPT record (R52) -/
  seq : Nat
  /-- a team of it ended by KILL or COPY_FAULT (R274) -/
  bad : Bool
  /-- logical dies it ran on (R279) -/
  ran : List Nat
deriving DecidableEq, Repr, Inhabited

/-- A handle of the buffer table (R279): last writer if known, readers, oldest use first by position. -/
structure Buf where
  ctx : Nat
  handle : Nat
  writer : Option Nat
  /-- the writer has finished, and the dies where it ran -/
  wdone : Bool
  wdies : List Nat
  readers : List Nat
deriving DecidableEq, Repr, Inhabited

/-- A launch that has started (R276, R277, R383): a team value that its teams copy, and the first team not dealt. -/
structure Launch where
  team : Team
  seq : Nat
  dealt : Nat
  ended : Nat
  profA : Nat
  /-- budgets of its path in force: RCB, BSLOTS, BSCR (R276) -/
  budgets : List (Nat × Nat × Nat)
deriving DecidableEq, Repr, Inhabited

/-- A pending entry of a queue engine (R281): teams of one launch, or a saved team that waits for restore. -/
structure QEntry where
  ctx : Nat
  node : Nat
  prio : Nat
  order : Nat
  teamids : List Nat
  /-- serials of a started (saved) group, empty for teams that have not started -/
  saved : List Nat
deriving DecidableEq, Repr, Inhabited

/-- A core's queue engine with its thief (R281, R284, R288). -/
structure QEngine where
  core : Nat
  entries : List QEntry
  headWait : Nat
  lfsr : Nat
  /-- requests made since the last back-off, 0 to 9, two at each level -/
  requests : Nat
  backoff : Nat
  /-- the victim of a request that has not been answered -/
  asked : Option Nat
deriving DecidableEq, Repr, Inhabited

/-- BUSY and IDLE of a core for one tag (R286). -/
structure Prof where
  core : Nat
  tag : Nat
  busy : Nat
  idle : Nat
deriving DecidableEq, Repr, Inhabited

/-- The command processor (14; 16 R311 to R317, R329, R330). -/
structure Cp where
  queues : List Queue
  jbase : Nat
  jlog : Nat
  wseq : Nat
  cons : Nat
  /-- the queue served last (R271) -/
  turn : Nat
  nodes : List Node
  /-- the node store: each node's command, successors and buffers as its ACCEPT record was written; that of a finished node stays, done,
  for the successors that are not yet over (R329) -/
  nstore : List Node
  /-- decrements held for nodes not yet accepted: context, node, finished predecessor (R278) -/
  heldDecs : List (Nat × Nat × Nat)
  bufs : List Buf
  launches : List Launch
  engines : List QEngine
  prof : List Prof
  /-- the core that received the last team dealt (R283) -/
  dealAfter : Nat
  serialNext : Nat
  orderNext : Nat
  faultQ : List Rec
  rings : List Ring
  /-- base die of the active processor, 0 or 4 (R330) -/
  active : Nat
  standby : Bool
  /-- cycles since the last heartbeat (R329) -/
  hbAge : Nat
  failed : Bool
  takeovers : Nat
  /-- the management function has reported that both processors are lost (R330) -/
  lossReport : Bool
deriving DecidableEq, Repr, Inhabited

/-! ### Package, debug, host link -/

/-- A partition (R250, R332, R382). -/
structure Part where
  num : Nat
  /-- first physical die and log2 of its dies -/
  first : Nat
  log2 : Nat
  /-- host function -/
  fn : Nat
  /-- physical range of its flat memory -/
  base : Nat
  granules : Nat
  itab : List Nat
  /-- tensor granules and table -/
  tgranules : Nat
  ttab : List Nat
deriving DecidableEq, Repr, Inhabited

/-- A physical core die over its cache die (R248, R328, R342, R376). -/
structure Die where
  phys : Nat
  /-- logical number, none when left out (R345) -/
  log : Option Nat
  cls : Nat
  failed : Bool
  rebuilding : Bool
  /-- cycles since its shards began to be rebuilt (R343) -/
  rebuildAge : Nat := 0
  /-- left out by bring-up (R345, R376) -/
  out : Bool := false
  asleep : Bool
  /-- cycles since the first heartbeat without an answer, none when all are answered (R342) -/
  hbMiss : Option Nat
  /-- cycle of the last heartbeat -/
  hbAt : Nat
  /-- cycles that the link has been waking since the package left its power state, none when it is not (R342) -/
  wakeAge : Option Nat
  temp : Nat
  limit : Nat
  scald : Bool
  /-- logical slices now on a spare (R328) -/
  spareSlices : List Nat
deriving DecidableEq, Repr, Inhabited

/-- A DRAM tower (R332, R373, R375). `last` holds each bank's reading before the newest. -/
structure Tower where
  num : Nat
  present : Bool
  /-- powered off: no partition uses it (R378) -/
  off : Bool := false
  tsh : Nat
  wmask : Nat
  last : List Nat
  tmax : Nat
  rmax : Nat
deriving DecidableEq, Repr, Inhabited

/-- A router of the package network: its buffers whose head has not moved for 2,048 cycles (R339). -/
structure Router where
  stack : Nat
  fired : List Nat
deriving DecidableEq, Repr, Inhabited

/-- The package's units and network (R248 to R250, R326, R332, R339 to R345). -/
structure Package where
  parts : List Part
  dies : List Die
  towers : List Tower
  /-- base dies powered off (R378) -/
  off : List Nat
  /-- clusters whose spare core is in use, failed cores, cores lost for good (R327, R328) -/
  sparesUsed : List Nat
  failedCores : List Nat
  lostCores : List Nat
  /-- places of cores, 64 to a die, that bring-up left out: they have no number (R328, R345) -/
  leftOut : List Nat := []
  routers : List Router
  /-- stack whose router holds the squall token (R339), and the cycles it has held it -/
  token : Nat
  tokenAge : Nat := 0
  /-- stack-directory shards that do not lie on their own die: the physical die whose shard it was, the one that holds it (R343) -/
  shardAt : List (Nat × Nat) := []
  /-- Launo gateway buffers that fired -/
  launoFired : List Nat
  /-- consecutive replay failures by port; 16 marks the port down (R341) -/
  ports : List Nat
  atb : Nat
  lwl : Nat
  dfail : Nat
  dcause : Nat
  units : Nat
  /-- CECNT and UECNT by stack (R326) -/
  errs : List (Nat × Nat)
deriving DecidableEq, Repr, Inhabited

/-- One scheduler's debug registers (R347). -/
structure Sched where
  stopped : Bool
  /-- a STEP lets one bundle issue (R349) -/
  stepping : Bool
  /-- the WHY of a stop that takes effect on the next cycle (R348) -/
  due : Option Nat := none
  why : Nat
  sof : Bool
  scyc : Nat
  pc0 : Nat
  pc1 : Nat
deriving DecidableEq, Repr, Inhabited

/-- A part of a dump: its place and length, and the pieces that it is made of. -/
structure DumpPart where
  off : Nat
  len : Nat
  pieces : List (Nat × Nat × Memory)
  /-- barrier entries, whose objects are read when the part is written (R354): each object's team and offset, with its member number and the
  threads that wait -/
  bars : List (Nat × Nat × Nat × Nat) := []
  /-- on the status word: the faults that the dump has met itself; the events come before the word, up to date (R351) -/
  met : List Rec := []
deriving DecidableEq, Repr, Inhabited

/-- A dump in progress (R351): the team, where it goes, and, once it has been drained, the parts still to be written. -/
structure DumpRun where
  team : Nat
  addr : Nat
  todo : Option (List DumpPart) := none
deriving DecidableEq, Repr, Inhabited

/-- A core's debug block (R347 to R356). -/
structure Debug where
  core : Nat
  scheds : List Sched
  attEn : Bool
  attCtx : Nat
  dumpA : Nat
  dteam : Nat
  dstat : Nat
  /-- barrier objects that the copies drained for the dump name: team and offset (R354) -/
  bars : List (Nat × Nat)
  /-- faults taken during a dump (R351): not delivered yet, in the order taken; delivered, in that order, each with its domain and index -/
  events : List Rec
  told : List (Rec × Nat × Nat) := []
  leaves : List Nat
  total : Nat
  frz : Bool
  dump : Option DumpRun
  /-- actions that wait for the end of the dump, in arrival order (R351) -/
  waiting : List DumpAct
deriving DecidableEq, Repr, Inhabited

/-- Record and replay (R357 to R359). -/
structure ReplayRun where
  mode : Nat
  ctx : Nat
  node : Nat
  lbase : Nat
  llog : Nat
deriving DecidableEq, Repr, Inhabited

/-- The registers of record and replay, and what the device keeps for it (R357, R358). -/
structure Replay where
  mode : Nat
  ctx : Nat
  node : Nat
  lbase : Nat
  llog : Nat
  lwp : Nat
  lcp : Nat
  /-- the launch under record or replay, with what the registers held when it started -/
  run : Option ReplayRun
  /-- clocks of the launch's threads: teamid, tid, clock; an unlisted one is 0 -/
  clocks : List (Nat × Nat × Nat)
  /-- reduction tables of the launch's threads: teamid, tid, entries newest first; an unlisted one is empty -/
  tabs : List (Nat × Nat × List (Nat × Nat × Nat))
  /-- unit, owner teamid, owner tid, clock -/
  tags : List (Loc × Nat × Nat × Nat)
  /-- (source teamid, tid, clock), (destination teamid, tid, clock) -/
  log : List ((Nat × Nat × Nat) × (Nat × Nat × Nat))
deriving DecidableEq, Repr, Inhabited

/-- TDISP states of a function (R368). -/
inductive Tdisp | unlocked | locked | run | error
deriving DecidableEq, Repr, Inhabited

/-- A response the device has given on a DOE mailbox (R371): the request answered and the bytes that the spec fixes. -/
inductive Response
  | ok (request : String)
  | value (request : String) (v : Nat)
  | bytes (request : String) (l : List Nat)
  | unsupported (request : String)
  /-- the signature and hash algorithms that are agreed on -/
  | algorithms (sign hash : String)
deriving DecidableEq, Repr, Inhabited

/-- A PCI Express function (R367 to R371). -/
structure Fn where
  num : Nat
  tdisp : Tdisp
  /-- a secure session is open; a KEY_EXCHANGE waits for its FINISH (R371) -/
  session : Bool
  handshake : Bool
  /-- IDE selective streams: stream, key, started -/
  streams : List (Nat × Nat × Bool)
  /-- what has been written to its configuration space: dword offset, value (R367, R369) -/
  conf : List (Nat × Nat) := []
  responses : List Response
deriving DecidableEq, Repr, Inhabited

/-- Power (R377). -/
inductive PState | gale | breeze | zephyr | calm
deriving DecidableEq, Repr, Inhabited

/-- Host link, bring-up and power (20). -/
structure HostLink where
  /-- GO has been written and bring-up runs -/
  bstat : Nat
  ready : Bool
  config : Memory
  /-- the configuration as bring-up applied it (R371) -/
  applied : Memory
  imga : Nat
  imglen : Nat
  busMaster : Bool
  /-- the image in the firmware store, by its bytes' address-free contents (R374) -/
  firmware : List Byte
  fns : List Fn
  cur : PState
  /-- the state being entered, or the package is on its way back to GALE -/
  entering : Option PState
  /-- the state it is on its way to when it leaves a deeper one, and the cycles left of the exit latency -/
  exiting : Option PState
  timer : Nat
  /-- a wake arrived while entering (R380) -/
  wakeAfter : Bool
  /-- accesses that wait for the exit, oldest first -/
  held : List Instr
  hlt : Nat
  idlet : Nat
  idle : Nat
deriving DecidableEq, Repr, Inhabited

/-- The bundle that issues: crew by position in the crew list, lanes, PC. -/
structure Issue where
  crew : Nat
  mask : Mask
  pc : DWord
deriving DecidableEq, Repr, Inhabited

/-- An issue slot taken in a cycle: core, scheduler, whether the bundle has 32 threads, the PTAG of its launch (R286, R355). -/
structure Slot where
  core : Nat
  sched : Nat
  full : Bool
  tag : Nat
deriving DecidableEq, Repr, Inhabited

/-- The whole package. -/
structure State where
  cycle : Nat
  agenda : List Instr
  /-- errors that the outside brings, each with its cycle (R324, R325; log 102) -/
  strikes : List (Nat × Strike)
  /-- issue slots taken in this cycle -/
  slotsUsed : List Slot
  regrouped : Bool
  /-- the model's own: the cycle has come to its issues, and no further event happens in it (R15, R23) -/
  closing : Bool
  freeCtr : Nat
  nextId : Nat
  cur : Option Issue
  crews : List Crew
  teams : List Team
  saved : List Saved
  accs : List Acc
  accq : List AccEntry
  copies : List Copy
  dictlds : List DictLoad
  dicts : List Dict
  drains : List Drain
  store : Store
  ctxs : List Ctx
  gates : List GateEnt
  /-- gate tables of the regions whose RCB has been read: address of the RCB, table, entries (R266, R267) -/
  gtables : List (Nat × Nat × Nat)
  cp : Cp
  pkg : Package
  dbg : List Debug
  rr : Replay
  host : HostLink
deriving DecidableEq, Repr, Inhabited

/-! ### Reset -/

/-- An intake queue at reset (R270). -/
def Queue.reset : Queue :=
  { loc := false, rbase := 0, en := false, log2n := 4, ctx := 0, head := 0, tail := 0, jstall := false, terr := false, fn := 0 }

/-- A physical die before bring-up: LIMIT 95 (R376); nothing trained (log 7). -/
def Die.reset (k : Nat) : Die :=
  { phys := k, log := none, cls := 0, failed := false, rebuilding := false, asleep := false, hbMiss := none, hbAt := 0,
    wakeAge := none, temp := 0, limit := 95, scald := false, spareSlices := [] }

/-- A tower before bring-up (R376). -/
def Tower.reset (t : Nat) : Tower :=
  { num := t, present := false, tsh := 0, wmask := 0, last := [], tmax := 0, rmax := 0 }

/-- A scheduler's debug registers at reset (R347). -/
def Sched.reset : Sched :=
  { stopped := false, stepping := false, why := 0, sof := false, scyc := 0, pc0 := 0, pc1 := 0 }

/-- A core's debug block at reset (R347 to R356). -/
def Debug.reset (core : Nat) : Debug :=
  { core := core, scheds := List.replicate 4 Sched.reset, attEn := false, attCtx := 0, dumpA := 0, dteam := 0, dstat := 0,
    bars := [], events := [], leaves := List.replicate 11 0, total := 0, frz := false, dump := none, waiting := [] }

/-- A queue engine at reset: its LFSR holds coreid + 1 (R284). -/
def QEngine.reset (core : Nat) : QEngine :=
  { core := core, entries := [], headWait := 0, lfsr := core + 1, requests := 0, backoff := 0, asked := none }

/-- A function at reset: CONFIG_UNLOCKED, no session (R368, log 7). -/
def Fn.reset (n : Nat) : Fn :=
  { num := n, tdisp := .unlocked, session := false, handshake := false, streams := [], responses := [] }

/-- Memories, caches and TLBs at reset: nothing is listed (log 5). -/
def Store.reset : Store :=
  { mem := [], poison := [], wsecs := [], dscr := [], tensor := [], tpoison := [], upsets := [], hostMem := [], l1 := [], icache := [],
    l2 := [], llc := [], coreTlb := [], llTlb := [], lookups := [], posted := [] }

/-- The command processor at reset (R270, R273). -/
def Cp.reset : Cp :=
  { queues := List.replicate 64 Queue.reset, jbase := 0, jlog := 10, wseq := 0, cons := 0, turn := 63, nodes := [], nstore := [],
    heldDecs := [], bufs := [], launches := [], engines := [], prof := [], dealAfter := 0, serialNext := 0, orderNext := 0,
    faultQ := [], rings := [], active := 0, standby := false, hbAge := 0, failed := false, takeovers := 0, lossReport := false }

/-- The package's units before bring-up (R326, R342, R345, R372; log 7). -/
def Package.reset : Package :=
  { parts := [], dies := (List.range 16).map Die.reset, towers := (List.range 16).map Tower.reset, off := [],
    sparesUsed := [], failedCores := [], lostCores := [], routers := (List.range 8).map (fun k => { stack := k, fired := [] }),
    token := 0, launoFired := [], ports := List.replicate 16 0, atb := 0, lwl := 100, dfail := 0,
    dcause := 0, units := 0, errs := List.replicate 8 (0, 0) }

/-- Record and replay at reset (R357). -/
def Replay.reset : Replay :=
  { mode := 0, ctx := 0, node := 0, lbase := 0, llog := 16, lwp := 0, lcp := 0, run := none, clocks := [], tabs := [], tags := [], log := [] }

/-- Host link, bring-up and power at reset (R372, R374, R377). -/
def HostLink.reset : HostLink :=
  { bstat := 0, ready := false, config := [], applied := [], imga := 0, imglen := 0, busMaster := false, firmware := [],
    fns := (List.range 17).map Fn.reset, cur := .gale, entering := none, exiting := none, timer := 0,
    wakeAfter := false, held := [], hlt := 0,
    idlet := 1000, idle := 0 }

/-- The package right after reset: before bring-up, with nothing resident. A queue engine that is not listed stands at
its reset value; a debug block that is not listed has only counted its empty slots (`State.debugOf`). -/
def State.reset : State :=
  { cycle := 0, agenda := [], strikes := [], slotsUsed := [], regrouped := true, closing := false, freeCtr := 0, nextId := 0, cur := none, crews := [],
    teams := [], saved := [], accs := [], accq := [], copies := [], dictlds := [], dicts := [], drains := [],
    store := Store.reset, ctxs := [], gates := [], gtables := [], cp := Cp.reset, pkg := Package.reset, dbg := [], rr := Replay.reset,
    host := HostLink.reset }

end Sys2Proof.Machine
end

