-- ==== Sys2Proof/Machine/Ops.lean ====
section
/-! DEFINITION. The named operations on the state: byte memory, crews and threads, bundles (01 R14, R15), the geometry of the
package (00 R1), cause codes, taking a fault and leaving PARKED (16 R310 to R314, 13 R259), register entries (02 R49 to
R51), ending threads (07 R159). -/
namespace Sys2Proof.Machine

/-! ### Lists in order -/

/-- Put an element in its place in an ordered list, before those that it may precede. -/
def ordInsert {α : Type} (le : α → α → Bool) (a : α) : List α → List α
  | [] => [a]
  | b :: l => if le a b then a :: b :: l else b :: ordInsert le a l

/-- A list in order; elements that may precede each other keep theirs. -/
def inOrder {α : Type} (le : α → α → Bool) (l : List α) : List α := l.foldr (ordInsert le) []

/-! ### Byte memory -/

/-- The byte at an address; an unlisted address reads 0 (log 5). -/
def Memory.get (m : Memory) (a : Nat) : Byte :=
  match m.find? (fun c => c.1 == a) with
  | some c => c.2
  | none => 0

/-- Write one byte, keeping the canonical form. -/
def Memory.set : Memory → Nat → Byte → Memory
  | [], a, b => if b == 0 then [] else [(a, b)]
  | (k, v) :: l, a, b =>
    if a < k then (if b == 0 then (k, v) :: l else (a, b) :: (k, v) :: l)
    else if a == k then (if b == 0 then l else (k, b) :: l)
    else (k, v) :: Memory.set l a b

/-- The canonical form: addresses strictly rising, no zero byte. -/
def Memory.wf : Memory → Bool
  | [] => true
  | [c] => c.2 != 0
  | c :: d :: l => c.2 != 0 && decide (c.1 < d.1) && Memory.wf (d :: l)

/-- n bytes from an address. -/
def Memory.bytes (m : Memory) (a n : Nat) : List Byte := (List.range n).map (fun k => m.get (a + k))

/-- The little-endian value of n bytes (R59). -/
def Memory.readN (m : Memory) (a n : Nat) : Nat := ofBytes (m.bytes a n)

/-- Write bytes from an address up. -/
def Memory.putBytes (m : Memory) (a : Nat) : List Byte → Memory
  | [] => m
  | b :: l => Memory.putBytes (m.set a b) (a + 1) l

/-- Write the n low bytes of a value (R59). -/
def Memory.writeN (m : Memory) (a n v : Nat) : Memory := m.putBytes a (toBytes n v)

/-- The listed bytes of a range, moved down to start at 0. -/
def Memory.slice (m : Memory) (a n : Nat) : Memory :=
  m.filterMap (fun c => if a ≤ c.1 && c.1 < a + n then some (c.1 - a, c.2) else none)

/-- The memory that holds a list of bytes from an address up. -/
def Memory.ofList : Nat → List Byte → Memory
  | _, [] => []
  | a, b :: l => if b == 0 then Memory.ofList (a + 1) l else (a, b) :: Memory.ofList (a + 1) l

/-- Replace the n bytes from an address by the first n of another memory. -/
def Memory.paste (m : Memory) (a n : Nat) (src : Memory) : Memory :=
  m.filter (fun c => decide (c.1 < a)) ++ (src.filter (fun c => decide (c.1 < n))).map (fun c => (a + c.1, c.2))
    ++ m.filter (fun c => decide (a + n ≤ c.1))

/-! ### Crews, threads, teams -/

def State.crew? (s : State) (k : Nat) : Option Crew := s.crews[k]?

/-- Change the crew at a position. -/
def State.modCrew (s : State) (k : Nat) (f : Crew → Crew) : State := { s with crews := s.crews.modify k f }

/-- The position of a crew by team serial and crewid. -/
def State.crewAt (s : State) (serial id : Nat) : Option Nat :=
  s.crews.findIdx? (fun c => c.team == serial && c.id == id)

def State.findTeam (s : State) (serial : Nat) : Option Team := s.teams.find? (fun t => t.serial == serial)

def State.modTeam (s : State) (serial : Nat) (f : Team → Team) : State :=
  { s with teams := s.teams.map (fun t => if t.serial == serial then f t else t) }

/-- The team of a crew; a crew always has one (a default stands for none). -/
def State.teamOf (s : State) (c : Crew) : Team := (s.findTeam c.team).getD default

def State.findCtx (s : State) (id : Nat) : Option Ctx := s.ctxs.find? (fun x => x.id == id)

def State.modCtx (s : State) (id : Nat) (f : Ctx → Ctx) : State :=
  { s with ctxs := s.ctxs.map (fun x => if x.id == id then f x else x) }

def State.ctxOf (s : State) (id : Nat) : Ctx := (s.findCtx id).getD default

def Crew.thread (c : Crew) (l : Nat) : Thread := (c.threads[l]?).getD default

def Crew.modThread (c : Crew) (l : Nat) (f : Thread → Thread) : Crew := { c with threads := c.threads.modify l f }

/-- Change the threads of the lanes of a mask. -/
def Crew.modLanes (c : Crew) (m : Mask) (f : Nat → Thread → Thread) : Crew :=
  { c with threads := c.threads.mapIdx (fun l t => if m.getLsbD l then f l t else t) }

/-- Gate depth (R167). -/
def Crew.gdepth (c : Crew) : Nat := c.frames.length

def State.modThread (s : State) (k l : Nat) (f : Thread → Thread) : State := s.modCrew k (fun c => c.modThread l f)

/-- Lanes whose thread meets a condition. -/
def Crew.lanesWhere (c : Crew) (p : Thread → Bool) : Mask :=
  maskOf ((List.range 32).filter (fun l => l < c.threads.length && p (c.thread l)))

/-- Lanes that have not exited (R41, `livemask`). -/
def Crew.live (c : Crew) : Mask := c.lanesWhere (fun t => t.st != .exited)

/-! ### Bundles -/

/-- Remove lanes from the bundles of a crew (R15). -/
def Crew.leave (c : Crew) (m : Mask) : Crew :=
  { c with bundles := (c.bundles.map (fun b => b &&& ~~~m)).filter (· != 0) }

/-- Lanes of a list grouped by PC, in order of first lane. -/
def groupByPc (pc : Nat → DWord) : Nat → List Nat → List Mask
  | 0, _ => []
  | _, [] => []
  | fuel + 1, l :: ls =>
    let same := ls.filter (fun k => pc k == pc l)
    maskOf (l :: same) :: groupByPc pc fuel (ls.filter (fun k => pc k != pc l))

/-- Make lanes READY; those at one PC form one bundle at once (R15, joint readiness; a split). -/
def Crew.rebundle (c : Crew) (m : Mask) : Crew :=
  let c := c.leave m
  let c := c.modLanes m (fun _ t => { t with st := .ready, why := .none })
  { c with bundles := c.bundles ++ groupByPc (fun l => (c.thread l).pc) 32 (lanesOf m) }

/-- Lanes become READY in this cycle: they form one bundle with the others at their PC that did so in it (R15, joint readiness). -/
def Crew.wake (c : Crew) (m : Mask) : Crew :=
  let c := c.modLanes m (fun _ t => { t with woke := true })
  let mates := c.bundles.filter (fun b => (lanesOf b).all (fun l => (c.thread l).st == .ready && (c.thread l).woke))
  c.rebundle (mates.foldl (· ||| ·) m)

/-- Lanes leave their bundle for another state. -/
def Crew.enter (c : Crew) (m : Mask) (st : TState) (why : Why) : Crew :=
  (c.leave m).modLanes m (fun _ t => { t with st := st, why := why })

/-- A bundle is STALLED: it keeps its lanes (R13). -/
def Crew.stall (c : Crew) (m : Mask) (why : Why) : Crew :=
  c.modLanes m (fun _ t => { t with st := .stalled, why := why })

/-! ### Geometry -/

/-- Logical die and cluster of a core (R41, R345). -/
def dieOf (core : Nat) : Nat := core / Config.coresPerDie
def clusOf (core : Nat) : Nat := core / Config.coresPerCluster

/-- The number of a core: the state names cores by their places, 64 to a die, and those that bring-up left out have no number (R41, R345,
log 36). -/
def State.coreNo (s : State) (core : Nat) : Nat := core - (s.pkg.leftOut.filter (· < core)).length

/-- The places of the cores that have a number, in the order of the numbers. -/
def State.allCores (s : State) : List Nat :=
  ((List.range 16).flatMap (fun d => if s.pkg.dies.any (fun x => x.log == some d) then (List.range 64).map (fun k => 64 * d + k) else [])).filter
    (fun k => !s.pkg.leftOut.contains k)

/-- The number of a core's cluster: clusters without a core have none (R41, R345). -/
def State.clusNo (s : State) (core : Nat) : Nat :=
  clusOf core - ((List.range (clusOf core)).filter (fun u => (List.range 16).all (fun k => s.pkg.leftOut.contains (16 * u + k)))).length

/-- The physical die of a logical one; a number that no die holds stands for itself. -/
def State.physDie (s : State) (d : Nat) : Nat :=
  match s.pkg.dies.find? (fun x => x.log == some d) with
  | some x => x.phys
  | none => d

def State.stackOfCore (s : State) (core : Nat) : Nat := s.physDie (dieOf core) / 2

/-- The unit of a core at a level of R1: 0 core, 1 cluster, 2 die, 3 stack, 4 interposer, 5 and 6 package. -/
def State.unitOf (s : State) (level core : Nat) : Nat :=
  match level with
  | 0 => core
  | 1 => clusOf core
  | 2 => dieOf core
  | 3 => s.stackOfCore core
  | 4 => s.stackOfCore core / 2
  | _ => 0

/-- Reference ticks since reset (R41): a tick is 10 cycles. -/
def State.tick (s : State) : Nat := s.cycle / 10

def State.queueEngine (s : State) (core : Nat) : QEngine :=
  (s.cp.engines.find? (fun e => e.core == core)).getD { QEngine.reset core with lfsr := s.coreNo core + 1 }

def State.setEngine (s : State) (e : QEngine) : State :=
  { s with cp := { s.cp with engines := e :: s.cp.engines.filter (fun x => x.core != e.core) } }

/-- The debug block of a core; one that is not listed has had nothing resident since reset: every slot was EMPTY (R355). -/
def State.debugOf (s : State) (core : Nat) : Debug :=
  (s.dbg.find? (fun d => d.core == core)).getD
    { Debug.reset core with leaves := List.replicate 10 0 ++ [4 * s.cycle % 2 ^ 64], total := 4 * s.cycle % 2 ^ 64 }

def State.setDebug (s : State) (d : Debug) : State := { s with dbg := d :: s.dbg.filter (fun x => x.core != d.core) }

def Debug.sched (d : Debug) (k : Nat) : Sched := (d.scheds[k]?).getD Sched.reset

def State.modSched (s : State) (core k : Nat) (f : Sched → Sched) : State :=
  let d := s.debugOf core
  s.setDebug { d with scheds := d.scheds.modify k f }

/-- The scheduler of a crew (R27): crew k goes to scheduler k mod 4; slots follow. -/
def Crew.sched (c : Crew) : Nat := c.slot % 4

def State.fresh (s : State) : Nat × State := (s.nextId, { s with nextId := s.nextId + 1 })

/-! ### Causes and records -/

/-- The 8-bit code of a cause (R310). -/
def Cause.code : Cause → Nat
  | .illegal => 0x01 | .ifetchSplit => 0x02 | .pcAlign => 0x03 | .privOp => 0x04 | .illConverge => 0x05
  | .indexBound => 0x06 | .zreadStrict => 0x07 | .callDepth => 0x08 | .retEmpty => 0x09 | .regBudget => 0x0A
  | .userTrap => 0x10 | .breakpoint => 0x11 | .park => 0x12 | .debugStop => 0x13
  | .addrRange => 0x20 | .addrWindow => 0x21 | .misalign => 0x22 | .scratchBound => 0x23 | .privBound => 0x24
  | .dscratchBound => 0x25 | .peerAbsent => 0x26 | .peerFar => 0x27 | .blockAlign => 0x28 | .barSpace => 0x29
  | .barCount => 0x2A
  | .pageAbsent => 0x30 | .ptInvalid => 0x31 | .pageProt => 0x32 | .ptFormat => 0x33 | .worldFault => 0x34
  | .pinFault => 0x35
  | .handleInvalid => 0x40 | .handleRo => 0x41 | .handleWorld => 0x42 | .handleFmt => 0x43 | .layoutInvalid => 0x44
  | .copyFault => 0x45
  | .gateInvalid => 0x50 | .gateDenied => 0x51 | .gateWorld => 0x52 | .gateDepth => 0x53 | .gateSpace => 0x54
  | .gateExit => 0x55 | .gretEmpty => 0x56
  | .privDomain => 0x60 | .splitDenied => 0x61 | .physDenied => 0x62 | .eretNone => 0x63
  | .layerOff => 0x70 | .poison => 0x71 | .ctxSaveFault => 0x72 | .dieLost => 0x73 | .linkLost => 0x74
  | .linkWakeExpired => 0x75

/-- The crew tag of R254. -/
def ctag (serial crew : Nat) : Nat := crew % 16 + serial % 2 ^ 24 * 16

/-- A trap: what an instruction reports of the fault it takes (R314). -/
structure Trap where
  cause : Cause
  sub : Nat := 0
  lmask : Mask
  pc : DWord
  addr : Nat := 0
  info : Nat := 0
  ilane : Nat := 0
  /-- the issue whose accesses met the fault when they were performed (R331, R381) -/
  group : Option Nat := none
deriving DecidableEq, Repr

/-- Every lane of a mask that has not exited records a park cause and enters PARKED (R259, R348). -/
def Crew.addCause (c : Crew) (m : Mask) (p : ParkCause) : Crew :=
  { (c.leave m).modLanes m (fun _ t =>
      if t.st == .exited then t
      else { t with st := .parked, back := if t.st == .parked then t.back else t.st, causes := t.causes ++ [p] }) with
    left := (c.bundles.map (fun b => b &&& m) ++ c.left.map (fun b => b &&& ~~~(c.bundles.foldl (· ||| ·) 0))).filter (· != 0) }

/-- Destination code of an instruction. -/
def dstCode (i : Instr) : Nat := match opcodeOf i with | some (_, f) => f.hdr.dst.toNat | none => 255

/-- The scoreboard of a crew: groups of accesses that have registers to write (R353). -/
def State.scoreboard (s : State) (c : Crew) : List (Nat × Nat × Mask × DWord) :=
  let mine := s.accs.filter (fun a => a.serial == c.team && a.crew == c.id && a.dst.isSome)
  ((mine.map (·.group)).eraseDups).map (fun g =>
    let l := mine.filter (fun a => a.group == g)
    let a := l.head?.getD default
    (g, dstCode a.ins, maskOf (l.map (·.lane)), a.pc))

/-- Park a whole crew for a cause; the first cause keeps the crew's scoreboard as it stands (R259, R353). -/
def State.parkCrew (s : State) (k : Nat) (p : ParkCause) : State :=
  let sb := match s.crew? k with | some c => s.scoreboard c | none => []
  s.modCrew k (fun c =>
    let c' := c.addCause (BitVec.ofNat 32 (2 ^ 32 - 1)) p
    if c.threads.any (fun t => t.st == .parked) then c' else { c' with atPark := sb })

/-- All lanes. -/
def allLanes : Mask := BitVec.ofNat 32 (2 ^ 32 - 1)

/-- A precise stop of one scheduler with its WHY on this cycle (R347, R348): its crews record DEBUG_STOP. A stop in progress is left as it
is. -/
def State.stopNow (s : State) (core sched why : Nat) : State :=
  if ((s.debugOf core).sched sched).stopped then s
  else
    let s := s.modSched core sched (fun y => { y with stopped := true, stepping := false, due := none, why := why, scyc := s.cycle })
    (List.range s.crews.length).foldl (fun s k => match s.crew? k with
      | some c => if c.core == core && c.sched == sched then s.parkCrew k (.debug core sched) else s
      | none => s) s

/-- A stop on the next cycle, but for that before a matching instruction and that after a step (R348). Of the stops of one cycle a fault is
reported, else the first (R360). -/
def State.stopSched (s : State) (core sched why : Nat) : State :=
  if why == 3 || why == 5 then s.stopNow core sched why
  else if ((s.debugOf core).sched sched).stopped then s
  else s.modSched core sched (fun y => { y with due := if why == 4 then some 4 else some (y.due.getD why) })

/-- The stops that are due take effect (R348). -/
def State.stopDue (s : State) : State :=
  s.dbg.foldl (fun s d => (List.range 4).foldl (fun s k => match (d.sched k).due with | some w => s.stopNow d.core k w | none => s) s) s

/-- The record of a trap taken by the crew at a position (R314). -/
def State.recOf (s : State) (c : Crew) (t : Trap) (rid : Nat) : Rec :=
  { rid := rid, ctx := (s.teamOf c).ctx, cause := t.cause, sub := t.sub, fdom := c.fdom, gdepth := c.gdepth,
    lanes := t.cause == .pageAbsent, escd := false, serial := c.team, crew := c.id, lmask := t.lmask, pc := t.pc,
    addr := BitVec.ofNat 64 t.addr, info := t.info, ilane := t.ilane, core := c.core, page := none, group := t.group }

/-- Hand a record to the command processor (R313), enter it in the header of a dump in progress (R351), and stop the
scheduler when SOF is set (R347, R348). -/
def State.sendRec (s : State) (r : Rec) : State :=
  let s := { s with cp := { s.cp with faultQ := s.cp.faultQ ++ [r] } }
  let d := s.debugOf r.core
  let s := if (match d.dump with | some x => x.team == r.serial | none => false) then s.setDebug { d with events := d.events ++ [r] } else s
  match s.crewAt r.serial r.crew with
  | none => s
  | some k =>
    match s.crew? k with
    | none => s
    | some c => if (d.sched c.sched).sof then s.stopSched c.core c.sched 4 else s

/-- Take a fault of kind P or E (R173, R310): the crew is parked where its threads stand, and a record goes to the fault
domain in force. -/
def State.takeFault (s : State) (k : Nat) (t : Trap) : State :=
  match s.crew? k with
  | none => s
  | some c =>
    let (rid, s) := s.fresh
    let r := s.recOf c t rid
    (s.parkCrew k (.fault rid)).sendRec r

/-- A stall that only an event ends: a page, a CALL or RET access, an operand latch, grants of G. The others are tried again. -/
def Why.event (w : Why) : Bool := match w with | .page => true | .call => true | .latch => true | .grant => true | _ => false

/-- Threads that have no park cause left return to the state they had (R259). STALLED lanes keep the bundles that they left: no
STALLED thread is merged (R14, R15). -/
def Crew.unpark (c : Crew) (m : Mask) : Crew :=
  let back := fun (st : TState) => c.lanesWhere (fun t => t.st == .parked && t.causes.isEmpty && t.back == st) &&& m
  let free := c.lanesWhere (fun t => t.st == .parked && t.causes.isEmpty) &&& m
  let kept := (c.left.map (fun b => b &&& back .stalled)).filter (· != 0)
  let alone := back .stalled &&& ~~~(kept.foldl (· ||| ·) 0)
  let go := back .ready
  let c := c.modLanes free (fun _ t => { t with st := t.back })
  let c := { c with bundles := c.bundles ++ kept ++ groupByPc (fun l => (c.thread l).pc) 32 (lanesOf alone) }
  c.wake go

/-- Causes that RESUME clears (R259, R349). -/
def ParkCause.resumed (p : ParkCause) : Bool := match p with | .park => true | .debug _ _ => true | _ => false

/-- Remove park causes that meet a condition and let the threads go (R259). -/
def Crew.clearCauses (c : Crew) (m : Mask) (p : ParkCause → Bool) : Crew :=
  (c.modLanes m (fun _ t => { t with causes := t.causes.filter (fun x => !p x) })).unpark m

/-! ### Register entries -/

/-- Entries held: MAPPED and SPILLING of the current map, and of a snapshot (R51). -/
def held (l : List Reg) : Nat := (l.filter (fun r => r.st.entry)).length
def mappedOnly (l : List Reg) : Nat := (l.filter (fun r => r.st == .mapped)).length

/-- m of R51 for lane l of a crew. -/
def Crew.entries (c : Crew) (l : Nat) : Nat :=
  held (c.thread l).regs + (c.frames.map (fun f => match f.lanes[l]? with | some x => held x.regs | none => 0)).sum

/-- `mapcnt` (R41, R51). -/
def Crew.mapcnt (c : Crew) (l : Nat) : Nat :=
  mappedOnly (c.thread l).regs + (c.frames.map (fun f => match f.lanes[l]? with | some x => mappedOnly x.regs | none => 0)).sum

/-- The shared-free count of a lane bank (R51). Where an admission under R50 has left more accounted for than there is, the count that R51 gives
is below zero, and 0 is read (DESIGN CHOICE, log 98). -/
def State.sharedFree (s : State) (core l : Nat) : Nat :=
  Config.bankEntries - ((s.crews.filter (fun c => c.core == core)).map (fun c => Nat.max (c.entries l) (s.teamOf c).regmin)).sum

/-- Whether a bank owes entries to threads admitted under R50: more is accounted for than it has. -/
def State.overBank (s : State) (core l : Nat) : Bool :=
  decide (Config.bankEntries < ((s.crews.filter (fun c => c.core == core)).map (fun c => Nat.max (c.entries l) (s.teamOf c).regmin)).sum)

/-- Banks in which a new crew's reservation is not there yet: the percolator frees it before the crew first issues (R50). -/
def State.unbacked (s : State) (c : Crew) : Mask :=
  if c.owed then maskOf ((List.range 32).filter (fun l => c.entries l < (s.teamOf c).regmin && s.overBank c.core l)) else 0

/-- A new crew whose reservation has been there once is held back no more. -/
def State.settleOwed (s : State) : State :=
  { s with crews := s.crews.map (fun c => if c.owed && s.unbacked c == 0 then { c with owed := false } else c) }

/-- Whether a thread may take n more entries (R51). -/
def State.canTake (s : State) (c : Crew) (l n : Nat) : Bool :=
  let m := c.entries l
  let r := (s.teamOf c).regmin
  decide (Nat.max (m + n) r - Nat.max m r ≤ s.sharedFree c.core l)

/-- A register of the current map. -/
def Thread.reg? (t : Thread) (n : Nat) : Option Reg := t.regs.find? (fun r => r.n == n)

/-- Release a register: its entry becomes FREE (R47). -/
def Thread.release (t : Thread) (n : Nat) : Thread := { t with regs := t.regs.filter (fun r => r.n != n) }

/-- Write a register: it takes an entry if it has none, and a spilled value is discarded (R46, R53). -/
def Thread.setReg (t : Thread) (n : Nat) (v : Word) : Thread :=
  { t with regs := { n := n, v := v, st := .mapped, pend := false, bad := false, lvl := 0 } :: t.regs.filter (fun r => r.n != n) }

/-- A destination of a pending load takes its entry and waits for the value (R46, R173). -/
def Thread.pendReg (t : Thread) (n : Nat) : Thread :=
  let v := match t.reg? n with | some r => r.v | none => 0
  { t with regs := { n := n, v := v, st := .mapped, pend := true, bad := false, lvl := 0 } :: t.regs.filter (fun r => r.n != n) }

/-- A register that may be written: where it has no entry, it takes one; otherwise its value stays until it is known (R176, log 91). -/
def Thread.awaitReg (t : Thread) (n : Nat) : Thread :=
  match t.reg? n with
  | none => t.pendReg n
  | some _ => { t with regs := t.regs.map (fun r => if r.n == n then { r with pend := true, keep := true } else r) }

/-- A register is what it was: nothing is written to it after all. -/
def Thread.leaveReg (t : Thread) (n : Nat) : Thread :=
  { t with regs := t.regs.map (fun r => if r.n == n then { r with pend := false, keep := false } else r) }

/-! ### Ending threads -/

/-- A thread enters EXITED: its entries go to FREE (R159). -/
def Thread.exit (t : Thread) : Thread :=
  { t with st := .exited, why := .none, regs := [], wait := none, causes := [], relog := none }

def Crew.exitLanes (c : Crew) (m : Mask) : Crew := (c.leave m).modLanes m (fun _ t => t.exit)

/-- A crew's claim returns to the unclaimed records (R316). -/
def State.dropClaim (s : State) (ctx : Nat) (c : Crew) : State :=
  match c.claim with
  | none => s
  | some q => { s with cp := { s.cp with rings := s.cp.rings.map (fun r =>
      if r.ctx == ctx && r.fdom == q.fdom
      then { r with recs := r.recs.map (fun x => if x.index == q.index then { x with claimed := false } else x) } else r) } }

/-- Records of a crew that no handler has claimed end with no action (R331). -/
def State.endRecs (s : State) (serial crew : Nat) : State :=
  let mine := fun (r : Rec) => r.serial == serial && r.crew == crew
  { s with cp := { s.cp with
      faultQ := s.cp.faultQ.filter (fun r => !(mine r) || r.cause == .dieLost || r.cause == .ctxSaveFault)
      rings := s.cp.rings.map (fun g => { g with recs := g.recs.map (fun x =>
        if mine x.fault && !x.claimed then { x with ended := true } else x) }) } }

/-- Whether a page, its replay or a fault holds an access. -/
def Acc.held (a : Acc) : Bool := match a.hold with | .none => false | .clock => false | .tile => false | .predict => false | _ => true

/-- KILL of a crew (R259): every thread exits, its frames are discarded, its claim returns, its records end, the accesses
that wait for a page, for a handler or on a prediction are dropped (R303, R309), as are copies and epilogues that wait for their lines; what has
issued runs to completion. -/
def State.killCrew (s : State) (k : Nat) : State :=
  match s.crew? k with
  | none => s
  | some c =>
    let s := (s.dropClaim (s.teamOf c).ctx c).endRecs c.team c.id
    let s := { s with
      accs := s.accs.filter (fun a => !(a.serial == c.team && a.crew == c.id && (a.held || a.hold == Hold.predict)))
      copies := s.copies.filter (fun x => x.granted || !(x.serial == c.team && x.crew == c.id))
      accq := s.accq.filter (fun x => x.granted || !(x.serial == c.team && x.crew == c.id)) }
    (s.modCrew k (fun c => { (c.exitLanes allLanes) with frames := [], claim := none, latch := none, coll := [], holds := [] })).modTeam
      c.team (fun t => { t with killed := true })

/-- KILL of every crew of a resident team (R259). -/
def State.killTeam (s : State) (serial : Nat) : State :=
  let ks := (List.range s.crews.length).filter (fun k => match s.crew? k with | some c => c.team == serial | none => false)
  ks.foldl (fun s k => s.killCrew k) s

/-- The core whose dump of a team is in progress, if any (R351). -/
def State.dumpCore (s : State) (serial : Nat) : Option Nat :=
  (s.dbg.find? (fun d => match d.dump with | some x => x.team == serial | none => false)).map (·.core)

/-- An action waits for the end of a dump (R351). -/
def State.defer (s : State) (core : Nat) (a : DumpAct) : State :=
  let d := s.debugOf core
  s.setDebug { d with waiting := d.waiting ++ [a] }

/-- KILL of one crew of a resident team; it waits while the team is dumped (R259, R351). -/
def State.killNow (s : State) (k : Nat) : State :=
  match s.crew? k with
  | none => s
  | some c => match s.dumpCore c.team with
    | some core => s.defer core (.act c.team (.kill c.id))
    | none => s.killCrew k

/-- The teams of a team's cohort, itself among them (R28, R81). -/
def State.cohortOf (s : State) (t : Team) : List Team :=
  if t.clvl == 0 then [t]
  else s.teams.filter (fun u => u.ctx == t.ctx && u.node == t.node && u.teamid / t.csize == t.teamid / t.csize)

/-! ### The journal -/

/-- Records of the journal (R273). -/
def Cp.records (c : Cp) : Nat := 2 ^ (if 10 ≤ c.jlog && c.jlog ≤ 24 then c.jlog else 10)

/-- Journal records whose write waits. -/
def State.recordsDue (s : State) : Nat := (s.store.posted.filter (fun w => match w.place with | .record _ => true | _ => false)).length

/-- Whether a record can be written, and whether commands are accepted (R273). -/
def State.journalRoom (s : State) : Bool := decide (s.cp.wseq + s.recordsDue - s.cp.cons < s.cp.records)
def State.acceptRoom (s : State) : Bool := decide (s.cp.wseq - s.cp.cons ≤ s.cp.records - 64)

end Sys2Proof.Machine
end

