-- ==== Sys2Proof/Machine/Flags.lean ====
section
/-! DEFINITION. The sticky flags of a thread (02 R42; 03 R71, R76). -/
namespace Sys2Proof.Machine

/-- Set flags: a flag once set stays set (R42). -/
def Thread.raise (t : Thread) (fl : Nat) : Thread := { t with flags := t.flags ||| BitVec.ofNat 32 (fl % 1024) }

/-- FLCLR: flags AND NOT m[9:0] (R154). -/
def Thread.clearFlags (t : Thread) (m : Nat) : Thread := { t with flags := t.flags &&& ~~~(BitVec.ofNat 32 (m % 1024)) }

/-- Flags of an engine operation go to every thread of the crew (R76, R210). -/
def Crew.raiseAll (c : Crew) (fl : Nat) : Crew := { c with threads := c.threads.map (fun t => t.raise fl) }

/-- The flag set of an indexed operation: OR of all. -/
def orAll (l : List Nat) : Nat := l.foldl orF 0

end Sys2Proof.Machine
end

