-- ==== Sys2Proof/Machine/Legality.lean ====
section
/-! DEFINITION. How each instruction uses its fields, and the checks for ILLEGAL that depend on the encoding alone:
sub-causes 4 to 8 of R135, the lowest-numbered one that applies. -/
namespace Sys2Proof.Machine

/-- How an instruction uses a source field. -/
inductive Use
  /-- unused: must be zero (R130) -/
  | zero
  /-- a 32-bit value, any code of R40 -/
  | w32
  /-- a `.64` value, any code of R40 -/
  | w64
  /-- a 32-bit or `.64` value that may carry no pattern (R206) -/
  | plain (two : Bool)
  /-- a predicate selector (R152) -/
  | sel
  /-- the format code of CVT (R201) -/
  | fmt
  /-- an address pair (R172) -/
  | addr
  /-- the first coordinate register (R215) -/
  | coord
  /-- a crew register (R215) -/
  | band
  /-- unused where the description gives sub-cause 7 for a nonzero value (R215) -/
  | zero7
  /-- a register run of n registers, of 64-bit elements if `two` (R176) -/
  | run (n : Nat) (two : Bool)
deriving DecidableEq, Repr

/-- The destination classes of R43 that an instruction admits. -/
inductive DUse
  | none
  /-- x, x[i], c or `_`, a pair if `two` -/
  | gen (two : Bool)
  /-- x, x[i] or `_` -/
  | noCrew (two : Bool)
  /-- the first of n registers, or `_` (R176) -/
  | run (n : Nat) (two : Bool)
  /-- only `_` (R189) -/
  | discard
  | pred
  /-- p, x, x[i], c or `_` (R161: a mode that names no class of its own) -/
  | predOrGen
  | predOrNone
  | predNot7
  | idx
  | tile
deriving DecidableEq, Repr

/-- Registers of a destination, and whether they are a pair. -/
def DUse.regs (u : DUse) : Nat :=
  match u with
  | .gen two | .noCrew two => if two then 2 else 1
  | .run n _ => n
  | _ => 1
def DUse.pair (u : DUse) : Bool :=
  match u with
  | .gen two | .noCrew two | .run _ two => two
  | _ => false

/-- What an encoding uses, and whether its other fields break a rule with sub-cause 6, 7 or 8. -/
structure Shape where
  srcs : List (Use × Src)
  dst : DUse
  bad6 : Bool := false
  bad7 : Bool := false
  bad8 : Bool := false

/-- R39, R55: a pattern code that is not assigned, a parameter with no pattern, a parameter out of range. -/
def patBad (x : Src) : Bool :=
  match x.pat.toNat with
  | 0 => x.parm != 0
  | 1 => false
  | 2 => false
  | 3 => x.parm.toNat > 4
  | 4 => x.parm.toNat > 4
  | _ => true

/-- R40: whether the class of a code admits L = 1, and a pattern. -/
def classBad (x : Src) : Bool :=
  let c := x.code.toNat
  if c < 128 then false
  else if c < 192 then x.last != 0 || x.pat != 0
  else if c < 200 then x.last != 0 || x.pat != 0
  else if c < 218 then x.last != 0
  else if c < 224 then true
  else x.last != 0 || x.pat != 0

/-- Whether a code names a register that a `.64` operand may not start at (R35; a crew pair is read as c2k and c2k+1,
log 11). -/
def oddPair (c : Nat) : Bool := c < 192 && c % 2 == 1

def srcZero (x : Src) : Bool := x.code == 0 && x.last == 0 && x.pat == 0 && x.parm == 0

/-- Sub-cause 5 for one source (R135). -/
def srcBad5 (u : Use) (x : Src) : Bool :=
  let c := x.code.toNat
  match u with
  | .zero | .zero7 | .sel => patBad x || classBad x
  | .w32 | .w64 | .plain _ => patBad x || classBad x
  | .fmt => !(c < 16 && x.last == 0 && x.pat == 0 && x.parm == 0)
  | .addr => patBad x || classBad x || !(c < 128 && c % 2 == 0 || 192 ≤ c && c < 200)
  | .coord => !(c < 128 && x.last == 0 && x.pat == 0 && x.parm == 0)
  | .band => !(128 ≤ c && c < 192 && x.last == 0 && x.pat == 0 && x.parm == 0)
  | .run n _ => patBad x || classBad x || n > 1 && !(c < 128 || 192 ≤ c && c < 200)

/-- Sub-cause 6 for one source (R135, R176). -/
def srcBad6 (u : Use) (x : Src) : Bool :=
  let c := x.code.toNat
  match u with
  | .w64 | .plain true => oddPair c
  | .run n two => c < 128 && (c + n > 128 || two && c % 2 == 1)
  | _ => false

/-- Sub-cause 7 for one source: a selector in another shape (R152), a pattern that R206 forbids, R215. -/
def srcBad7 (u : Use) (x : Src) : Bool :=
  match u with
  | .sel => !(x.code.toNat < 16 && x.last == 0 && x.pat == 0 && x.parm == 0)
  | .plain _ => x.pat != 0
  | .zero7 => !srcZero x
  | _ => false

/-- Sub-cause 8 for one source (R130). -/
def srcBad8 (u : Use) (x : Src) : Bool :=
  match u with
  | .zero => !srcZero x
  | _ => false

/-- Sub-cause 6 for the destination (R43, R135). -/
def dstBad6 (u : DUse) (d : Nat) : Bool :=
  match u with
  | .none => d != 255
  | .gen two => !(d < 200 || d == 255) || two && oddPair d
  | .noCrew two => !(d < 128 || 192 ≤ d && d < 200 || d == 255) || two && oddPair d
  | .run n two => !(d < 128 || 192 ≤ d && d < 200 || d == 255) || d < 128 && (d + n > 128 || two && d % 2 == 1)
  | .discard => d != 255
  | .pred => !(200 ≤ d && d < 208)
  | .predOrGen => !(d < 208 || d == 255)
  | .predOrNone => !(200 ≤ d && d < 208 || d == 255)
  | .predNot7 => !(200 ≤ d && d < 207)
  | .idx => !(208 ≤ d && d < 216)
  | .tile => !(216 ≤ d && d < 232)

/-- The lowest sub-cause from 5 to 8 that a shape breaks. -/
def Shape.sub (p : Shape) (d : Nat) : Option Nat :=
  if p.srcs.any (fun x => srcBad5 x.1 x.2) then some 5
  else if p.bad6 || dstBad6 p.dst d || p.srcs.any (fun x => srcBad6 x.1 x.2) then some 6
  else if p.bad7 || p.srcs.any (fun x => srcBad7 x.1 x.2) then some 7
  else if p.bad8 || p.srcs.any (fun x => srcBad8 x.1 x.2) then some 8
  else none

/-! ### Field readers -/

/-- The integer types of R131: width and signedness. -/
structure ITy where
  w : Nat
  sg : Bool
deriving DecidableEq, Repr

def ityOf (c : Nat) : ITy := { w := 8 * 2 ^ (c / 2 % 4), sg := c % 2 == 0 }

/-- A 64-bit element, by R68 code. -/
def fmt64 (c : Nat) : Bool := c == 1 || c == 14 || c == 15

/-- Width in bits of an R68 code as a register element (R59); E2M1 is 4. -/
def fmtBits (c : Nat) : Nat :=
  if c == 1 || c == 14 || c == 15 then 64
  else if c == 2 || c == 12 || c == 13 then 32
  else if c == 3 || c == 4 || c == 10 || c == 11 then 16
  else if c == 7 then 4
  else 8

/-- An R68 code of a floating format. -/
def fmtFloat (c : Nat) : Bool := 1 ≤ c && c ≤ 7

/-- Width in bits of raw element code WID (R176). -/
def widBits (m : Nat) : Nat :=
  match m with
  | 0 => 32
  | 1 => 8
  | 2 => 16
  | _ => 64

/-- Registers of a run of n elements of w bits (R176). -/
def runRegs (w : Nat) (pk : Bool) (n : Nat) : Nat :=
  if w == 64 then 2 * n
  else if w == 4 then n / 8
  else if pk && w < 32 then n * w / 32
  else n

/-- An n that breaks a packing rule (R176). -/
def packBad (w : Nat) (pk : Bool) (n : Nat) : Bool :=
  if w == 4 then !(n == 8 || n == 16)
  else pk && w < 32 && (n * w) % 32 != 0

end Sys2Proof.Machine

namespace Sys2Proof

/-- MOD as a number. -/
def F128M.m (f : F128M) : Nat := f.mod.toNat
/-- Elements per lane (R132). -/
def F128M.n (f : F128M) : Nat := f.cnt.toNat + 1
/-- `.pk` (R176). -/
def F128M.pk (f : F128M) : Bool := Machine.bit f.mod.toNat 2
/-- Register element width, none under `.page`, where it depends on the page, and none of the format 0x7, which no register has (R176). -/
def F128M.elemBits (f : F128M) : Option Nat :=
  if f.pg == 1 || f.fmt == 7 then none
  else if f.fmt == 0 then some (Machine.widBits (Machine.field f.mod.toNat 0 2))
  else some (Machine.fmtBits f.fmt.toNat)
/-- Use of S1 as an address (R172). -/
def F128M.addrUse (f : F128M) : Machine.Use := if f.sp == 0 then .addr else .w32

end Sys2Proof

namespace Sys2Proof.Machine


/-- The fields of R132 outside the sets of R175, with sub-cause 7. -/
def memBad7 (f : F128M) (fmtPg ord sp cnt scp rd : Bool) : Bool :=
  f.pg == 1 && f.fmt != 0 || !fmtPg || !ord || !sp || f.sp == 3 || !cnt || !scp || f.scp == 7 || !rd

/-- The shape of LD, ST, LDM, STM, LDPHYS, STPHYS (R175 to R178, R267). -/
def ldstShape (f : F128M) (store strided phys : Bool) : Shape :=
  let two := f.elemBits == some 64
  let pk := f.pk && !strided
  let regs := match f.elemBits with
    | some w => runRegs w pk f.n
    | none => 1
  let badPack := match f.elemBits with
    | some w => packBad w pk f.n
    | none => false
  let ordOk := f.ord == 0 || (if store then f.ord == 2 else f.ord == 1)
  let fmtOk := if phys then f.fmt == 0 && f.pg == 0 else !(f.fmt == 7)
  let modOk := (f.fmt == 0 || field f.m 0 2 == 0) && field f.m 3 3 == 0 && !(strided && bit f.m 2)
    && !(f.pk && match f.elemBits with | some w => w ≥ 32 | none => false)
  let data : Use × Src := (.run regs two, f.s2)
  { srcs := [(f.addrUse, f.s1), (if store then data else if strided then (.w32, f.s2) else (.zero, f.s2)),
      (if store && strided then (.w32, f.s3) else (.zero, f.s3))]
    dst := if store then .none else .run regs two
    bad6 := badPack
    bad7 := memBad7 f fmtOk ordOk (!phys || f.sp == 0) true true true || !modOk
    bad8 := f.rsv != 0 }

/-- The shape of an atomic (R175, R180). -/
def atomShape (f : F128M) (types : List Nat) (abs cas swap : Bool) : Shape :=
  let two := fmt64 f.fmt.toNat
  let u : Use := if two then .w64 else .w32
  { srcs := [(f.addrUse, f.s1), (if swap then .zero else u, f.s2), (if cas then u else .zero, f.s3)]
    dst := .noCrew two
    bad7 := memBad7 f (f.pg == 0 && types.contains f.fmt.toNat) true true (f.cnt == 0) true true
      || field f.m 1 5 != 0 || bit f.m 0 && !abs
    bad8 := f.rsv != 0 }

/-- The shape of a barrier instruction (R175, R189). -/
def barShape (f : F128M) (s2 : Use) (d : DUse) (rel arr : Bool) : Shape :=
  { srcs := [(f.addrUse, f.s1), (s2, f.s2), (.zero, f.s3)]
    dst := d
    bad7 := memBad7 f (f.fmt == 0 && f.pg == 0) (f.ord == 0 || rel && f.ord == 2) (f.sp == 0 || f.sp == 1) (f.cnt == 0) true
        (f.rd == 0) || field f.m 1 5 != 0 || bit f.m 0 && !arr
    bad8 := f.rsv != 0 }

/-- The shape of a hint (R175, R190) and of GTWR and HTWR (R264): the fields given are used, the others are zero. -/
def hintShape (f : F128M) (s2 s3 : Use) (modOk cnt rd : Bool) : Shape :=
  { srcs := [(f.addrUse, f.s1), (s2, f.s2), (s3, f.s3)]
    dst := .none
    bad7 := memBad7 f (f.fmt == 0 && f.pg == 0) (f.ord == 0) (f.sp == 0) (cnt || f.cnt == 0) (f.scp == 0) (rd || f.rd == 0)
      || !modOk
    bad8 := f.rsv != 0 }

/-- F64 with the uses given; `bad7` for MOD. -/
def sh64 (f : F64) (u1 u2 : Use) (d : DUse) (bad7 : Bool) : Shape :=
  { srcs := [(u1, f.s1), (u2, f.s2)], dst := d, bad7 := bad7 }

def sh96t (f : F96T) (u1 u2 u3 : Use) (d : DUse) (bad7 bad8 : Bool) : Shape :=
  { srcs := [(u1, f.s1), (u2, f.s2), (u3, f.s3)], dst := d, bad7 := bad7, bad8 := bad8 }

def sh96i (f : F96I) (u1 : Use) (d : DUse) (bad7 bad8 : Bool) : Shape :=
  { srcs := [(u1, f.s1), (.zero, f.s2)], dst := d, bad7 := bad7, bad8 := bad8 }

def useW (two : Bool) : Use := if two then .w64 else .w32

/-- Integer arithmetic of R144 in F64: `sat` where `.sat` is admitted, `one` for one source, `sg` for signed only. -/
def arith64 (f : F64) (sat one sg : Bool) : Shape :=
  let m := f.mod.toNat
  let t := ityOf (field m 0 3)
  sh64 f (useW (t.w == 64)) (if one then .zero else useW (t.w == 64)) (.gen (t.w == 64))
    (field m 4 2 != 0 || bit m 3 && !sat || sg && !t.sg)

/-- Whether an immediate lies in the range of a narrow type (R144). -/
def immFits (t : ITy) (i : Nat) : Bool :=
  if t.w ≥ 32 then true
  else if t.sg then decide (-(2 : Int) ^ (t.w - 1) ≤ signed 32 i) && decide (signed 32 i < (2 : Int) ^ (t.w - 1))
  else i < 2 ^ t.w

/-- ADDI, MULI (R144). -/
def arithI (f : F96I) : Shape :=
  let m := f.mod.toNat
  let t := ityOf (field m 0 3)
  sh96i f (useW (t.w == 64)) (.gen (t.w == 64)) (field m 4 2 != 0 || !immFits t f.imm.toNat) false

/-- Logic and shifts of R146: the width bit W; `amt` where S2 is an amount or absent, `narrow` for a 32-bit result. -/
def logic64 (f : F64) (u2 : Use) (narrow : Bool) : Shape :=
  let w := bit f.mod.toNat 0
  sh64 f (useW w) u2 (.gen (w && !narrow)) (field f.mod.toNat 1 5 != 0)

def logicI (f : F96I) : Shape :=
  let w := bit f.mod.toNat 0
  sh96i f (useW w) (.gen w) (field f.mod.toNat 1 5 != 0) false

/-- A float type FT of R192 is 64-bit. -/
def ft64 (m : Nat) : Bool := field m 0 2 == 1

/-- Float arithmetic in F64 (R194 to R197): MOD bits from `used` up must be zero. -/
def float64 (f : F64) (two : Bool) (used : Nat) : Shape :=
  let m := f.mod.toNat
  sh64 f (useW (ft64 m)) (if two then useW (ft64 m) else .zero) (.gen (ft64 m)) (m / 2 ^ used != 0)

/-- The operand uses of a WAIT condition kind (R163). -/
def waitUses (k : Nat) (wide : Bool) : List Use :=
  match k with
  | 0 => []
  | 3 => [.w64, useW wide, useW wide]
  | _ => [.w32]

/-- The kinds K0 to K3 of a WAIT. -/
def waitKinds (ctl : Nat) : List Nat := [field ctl 0 3, field ctl 3 3, field ctl 6 3, field ctl 9 3]

/-- WAIT (R163). -/
def waitShape (f : F128X) : Shape :=
  let c := f.ctl.toNat
  let ks := waitKinds c
  let uses := ks.flatMap (fun k => waitUses k (bit c 13))
  let fields := [f.s1, f.s2, f.s3, f.s4]
  let padded := (uses ++ List.replicate 4 Use.zero).take 4
  let hasMem := ks.contains 3
  let gap := (ks.dropWhile (· != 0)).any (· != 0)
  { srcs := padded.zip fields
    dst := .predOrNone
    bad7 := f.mod != 0 || ks.any (· > 5) || field c 0 3 == 0 || gap || (ks.filter (· == 3)).length > 1
      || (ks.filter (· == 5)).length > 1 || uses.length > 4 || (!hasMem && field c 13 6 != 0) || field c 16 3 == 7
      || (!bit c 19 && field c 20 6 != 0)
    bad8 := field c 26 4 != 0 }

/-- One legal pair of operand formats of MMA (R214): depth K, columns N, element bits, row bytes. -/
structure MmaFmt where
  k : Nat
  n : Nat
  bits : Nat
  rowBytes : Nat
deriving DecidableEq, Repr

def mmaFmt (a b : Nat) : Option MmaFmt :=
  if a == 7 && b == 7 then some ⟨96, 64, 4, 52⟩
  else if (a == 5 || a == 6) && (b == 5 || b == 6) then some ⟨64, 64, 8, 64⟩
  else if (a == 8 || a == 9) && (b == 8 || b == 9) then some ⟨64, 64, 8, 64⟩
  else if a == 3 && b == 3 then some ⟨32, 64, 16, 64⟩
  else if a == 4 && b == 4 then some ⟨32, 64, 16, 64⟩
  else if a == 2 && b == 2 then some ⟨8, 64, 32, 32⟩
  else if a == 1 && b == 1 then some ⟨4, 32, 64, 32⟩
  else none

/-- MMA and MMAG (R215). -/
def mmaShape (f : F128X) (gather : Bool) : Shape :=
  let c := f.ctl.toNat
  let bt := bit c 8
  let fp4 := field c 0 4 == 7
  let ap := field c 10 7
  let bp := field c 17 7
  let bad := match mmaFmt (field c 0 4) (field c 4 4) with
    | none => true
    | some q => (if gather then ap != 0 else 4 * ap < q.rowBytes) || (if bt then bp != 0 else 4 * bp < q.rowBytes)
        || (!fp4 && field c 24 6 != 0)
  { srcs := [(.w32, f.s1), (.w32, f.s2), (if bt then .coord else .zero7, f.s3), (if fp4 then .band else .zero7, f.s4)]
    dst := .tile
    bad7 := f.mod != 0 || bad }

/-- TCOPY (R226, R227). -/
def tcopyShape (f : F128X) : Shape :=
  let c := f.ctl.toNat
  let sk := field c 0 3
  let dk := field c 3 3
  let nr := bit c 16
  let nb := bit c 17
  let combo := match sk, dk with
    | 0, 1 => !nr
    | 0, 2 | 0, 3 | 0, 4 => !nr
    | 1, 0 => !nr
    | 1, 2 | 1, 3 | 1, 4 => !nr
    | 2, 0 | 3, 0 => !nr
    | 2, 1 | 3, 1 => !nr
    | 2, 2 | 2, 3 | 2, 4 | 3, 2 | 3, 3 | 3, 4 => nr
    | _, _ => false
  let tens := sk == 1 || dk == 1
  { srcs := [(if nr then .w32 else .w64, f.s1), (if sk == 0 then .zero else .w32, f.s2),
      (if dk == 0 then .zero else .w32, f.s3), (if nb && dk != 4 then .zero else .w32, f.s4)]
    dst := .none
    bad7 := f.mod != 0 || !combo || field c 6 3 == 7 || (!tens && field c 9 7 != 0)
    bad8 := field c 18 12 != 0 }

/-- AEPI (R223). -/
def aepiShape (f : F128X) : Shape :=
  let c := f.ctl.toNat
  let o := field c 4 4
  { srcs := [(useW (!bit c 8), f.s1), (.w32, f.s2), (if bit c 10 then .w64 else .zero, f.s3), (.w32, f.s4)]
    dst := .none
    bad7 := f.mod != 0 || !(1 ≤ o && o ≤ 6) || field c 11 3 == 7 || field c 14 2 == 3
    bad8 := field c 16 14 != 0 }

/-- Special registers (R252, R315): number, 64-bit, readable, writable. -/
def srTable : List (Nat × Bool × Bool × Bool) :=
  [(0x000, false, true, false), (0x001, false, true, false), (0x002, false, true, false), (0x003, false, true, false),
   (0x010, false, true, false), (0x011, false, true, false), (0x012, false, true, true), (0x013, true, true, true),
   (0x014, false, true, true), (0x020, true, true, false), (0x021, false, true, false), (0x022, false, true, false),
   (0x030, false, true, false), (0x031, false, true, false), (0x100, true, true, true), (0x101, false, true, false),
   (0x102, false, true, false), (0x110, true, true, false), (0x111, true, true, false), (0x112, true, true, false),
   (0x113, true, true, false), (0x114, true, true, false), (0x115, true, true, false), (0x116, true, true, false),
   (0x117, true, true, false)]

def srBad (n : Nat) (w write : Bool) : Bool :=
  match srTable.find? (fun r => r.1 == n) with
  | none => true
  | some (_, two, _, wr) => two != w || (write && !wr)

/-- Privileged instructions in F64 (R256): uses of S1 and S2, and the MOD values that are not assigned. -/
def priv64 (f : F64) (u1 u2 : Use) (bad7 : Bool) : Shape := sh64 f u1 u2 .none bad7

/-- The shape of every instruction; none for the pad word and the events. -/
def shape (i : Instr) : Option Shape :=
  match i with
  | .add f | .sub f | .mul f => some (arith64 f true false false)
  | .mulhi f | .min f | .max f | .div f | .rem f => some (arith64 f false false false)
  | .abs f | .neg f => some (arith64 f true true true)
  | .mad f =>
    let m := f.mod.toNat
    let u := useW (field m 0 3 ≥ 6)
    some (sh96t f u u u (.gen (field m 0 3 ≥ 6)) (field m 4 2 != 0) (f.xm != 0))
  | .addi f | .muli f => some (arithI f)
  | .and f | .or f | .xor f => some (logic64 f (useW (bit f.mod.toNat 0)) false)
  | .not f | .brev f => some (logic64 f .zero false)
  | .shl f | .shr f | .sar f | .rol f => some (logic64 f .w32 false)
  | .popc f | .clz f => some (logic64 f .zero true)
  | .andi f | .ori f | .xori f => some (logicI f)
  | .adda f => some (sh64 f .w64 .w32 (.gen true) (field f.mod.toNat 0 3 == 7 || field f.mod.toNat 4 2 != 0))
  | .mov f => some (logic64 f .zero false)
  | .movi f => some (sh96i f .zero (.gen (bit f.mod.toNat 0)) (field f.mod.toNat 1 5 != 0) false)
  | .sel f =>
    let u := useW (bit f.mod.toNat 0)
    some (sh96t f u u .zero (.gen (bit f.mod.toNat 0)) (field f.mod.toNat 1 5 != 0) (field f.xm.toNat 4 11 != 0))
  | .bfx f =>
    let w := bit f.mod.toNat 0
    let p := field f.xm.toNat 0 6
    let l := field f.xm.toNat 6 7
    let wd := if w then 64 else 32
    some (sh96t f (useW w) .zero .zero (.gen w) (field f.mod.toNat 2 4 != 0 || p + l > wd || p ≥ wd || l > 64)
      (field f.xm.toNat 13 2 != 0))
  | .bfi f =>
    let w := bit f.mod.toNat 0
    let p := field f.xm.toNat 0 6
    let l := field f.xm.toNat 6 7
    let wd := if w then 64 else 32
    some (sh96t f (useW w) (useW w) .zero (.gen w) (field f.mod.toNat 1 5 != 0 || p + l > wd || p ≥ wd || l > 64)
      (field f.xm.toNat 13 2 != 0))
  | .wsh f => some (sh96t f .w32 .w32 .w32 (.gen false) (field f.mod.toNat 2 4 != 0) (f.xm != 0))
  | .setp f =>
    let u := useW (field f.mod.toNat 0 3 ≥ 6)
    some (sh64 f u u .pred (field f.mod.toNat 3 3 ≥ 6))
  | .setpi f => some (sh96i f (useW (field f.mod.toNat 0 3 ≥ 6)) .pred (field f.mod.toNat 3 3 ≥ 6) false)
  | .pand f | .por f | .pxor f => some (sh64 f .sel .sel .pred (f.mod != 0))
  | .pnot f => some (sh64 f .sel .zero .pred (f.mod != 0))
  | .flclr f => some (sh64 f .w32 .zero (.gen false) (f.mod != 0))
  | .ixset f =>
    let m := f.mod.toNat
    let iop := field m 1 2
    some (sh96t f (if iop == 0 then .zero else .w32) .zero .zero .idx (iop == 3 || (iop == 0 && !bit m 0) || field m 3 3 != 0)
      ((!bit m 0 && f.xm != 0) || bit f.xm.toNat 14))
  | .bra f | .call f => some (sh96i f .zero .none (f.mod != 0) false)
  | .jmp f | .callx f => some (sh64 f .w64 .zero .none (f.mod != 0))
  | .ret f | .nop f | .exit f | .gret f => some (sh64 f .zero .zero .none (f.mod != 0))
  | .meet f => some (sh96i f .zero .none (field f.mod.toNat 1 5 != 0 || (bit f.mod.toNat 0 && f.imm != 0)) false)
  | .elect f => some (sh64 f .w32 .zero .predNot7 (f.mod.toNat ≥ 3))
  | .vote f => some (sh64 f .sel .zero (if field f.mod.toNat 0 3 < 3 then .pred else if field f.mod.toNat 0 3 < 6 then .gen false else .predOrGen) (f.mod.toNat ≥ 6))
  | .trap f | .bkpt f => some (sh64 f .w32 .zero .none (f.mod != 0))
  | .gate f => some (sh96i f .zero .none (f.mod != 0 || f.imm.toNat > 255) false)
  | .wait f => some (waitShape f)
  | .ld f => some (ldstShape f false false false)
  | .st f => some (ldstShape f true false false)
  | .ldm f => some (ldstShape f false true false)
  | .stm f => some (ldstShape f true true false)
  | .aadd f | .amin f | .amax f => some (atomShape f [12, 13, 14, 15] false false false)
  | .aand f | .aor f | .axor f | .axch f => some (atomShape f [13, 15] false false false)
  | .acas f => some (atomShape f [13, 15] false true false)
  | .afadd f => some (atomShape f [1, 2, 3, 4] false false false)
  | .amaxswap f => some (atomShape f [2] false false true)
  | .ainc f | .adec f => some (atomShape f [13] false false false)
  | .afmin f | .afmax f => some (atomShape f [1, 2] true false false)
  | .fence f =>
    let m := f.mod.toNat
    some (sh64 f .zero .zero .none (field m 0 2 == 0 || field m 2 3 == 7 || bit m 5))
  | .stsig f =>
    let n := f.cnt.toNat
    some { srcs := [(f.addrUse, f.s1), (.run (n + 1) false, f.s2), (.w64, f.s3)], dst := .none
           bad7 := memBad7 f (f.fmt == 0 && f.pg == 0) (f.ord == 0) (f.sp == 0) (n == 0 || n == 1 || n == 3 || n == 7 || n == 15)
             true true || field f.m 1 5 == 0
           bad8 := f.rsv != 0 }
  | .binit f => some { barShape f .w32 .none true false with bad7 := (barShape f .w32 .none true false).bad7 || f.mod != 0 }
  | .bexpb f => some (barShape f .w32 (if bit f.m 0 then .noCrew false else .discard) false true)
  | .barr f => some (barShape f .w32 (.noCrew false) false false)
  | .binv f => some (barShape f .zero .none true false)
  | .pref f => some (hintShape f .zero .zero (f.m < 3) true true)
  | .clwb f | .clevict f => some (hintShape f .zero .zero (f.m == 0) false false)
  | .clrrv f => some (hintShape f .zero .zero (f.m == 0) false true)
  | .fadd f | .fsub f | .fmul f | .fdiv f | .fmin f | .fmax f => some (float64 f true 2)
  | .fabs f | .fneg f | .fsqrt f | .frcp f | .frsq f | .fexp2 f | .flog2 f | .ftanh f => some (float64 f false 2)
  | .fscl f => some (sh64 f (useW (ft64 f.mod.toNat)) .w32 (.gen (ft64 f.mod.toNat)) (f.mod.toNat / 4 != 0))
  | .frnd f => some (float64 f false 4)
  | .fclass f => some (sh64 f (useW (ft64 f.mod.toNat)) .zero (.gen false) (f.mod.toNat / 4 != 0))
  | .fsetp f => some (sh64 f (useW (ft64 f.mod.toNat)) (useW (ft64 f.mod.toNat)) .pred (bit f.mod.toNat 5))
  | .cvt f =>
    let s := field f.s2.code.toNat 0 4
    let d := field f.mod.toNat 0 4
    some (sh64 f (useW (fmt64 s)) .fmt (.gen (fmt64 d))
      (field f.mod.toNat 4 2 != 0 && !((fmtFloat s || s == 0) && 8 ≤ d)))
  | .perm f =>
    let w := bit f.mod.toNat 0
    some (sh64 f (.plain w) .w32 (.gen w) (field f.mod.toNat 1 5 != 0))
  | .redux f =>
    let m := f.mod.toNat
    let t := field m 0 3
    let o := field m 3 3
    let two := t == 1 || t ≥ 6
    some (sh64 f (useW two) .zero (.gen two) (o ≥ 6 || (o ≥ 3 && !(t == 5 || t == 7))))
  | .pack f => some (sh64 f .w32 .w32 (.gen false) (f.mod.toNat ≥ 2))
  | .upk f =>
    let e := field f.mod.toNat 0 4
    some (sh64 f .w32 .w32 (.gen false) (!([3, 4, 10, 11, 5, 6, 8, 9, 0, 7].contains e) || field f.mod.toNat 4 2 != 0))
  | .hadd2 f | .hsub2 f | .hmul2 f | .hmin2 f | .hmax2 f => some (sh64 f .w32 .w32 (.gen false) (f.mod.toNat ≥ 2))
  | .hsetp2 f => some (sh64 f .w32 .w32 .pred (bit f.mod.toNat 5))
  | .ffma f =>
    let u := useW (ft64 f.mod.toNat)
    some (sh96t f u u u (.gen (ft64 f.mod.toNat)) (f.mod.toNat / 4 != 0) (f.xm != 0))
  | .hfma2 f => some (sh96t f .w32 .w32 .w32 (.gen false) (f.mod.toNat ≥ 2) (f.xm != 0))
  | .fsel f =>
    let u := useW (ft64 f.mod.toNat)
    some (sh96t f u u u (.gen (ft64 f.mod.toNat)) (bit f.mod.toNat 5) (f.xm != 0))
  | .quant f =>
    some (sh96t f .w32 .zero .zero (.gen false) (ft64 f.mod.toNat || f.mod.toNat / 4 != 0 || field f.xm.toNat 0 4 > 8)
      (field f.xm.toNat 4 11 != 0))
  | .cvpk f =>
    let o := field f.mod.toNat 0 4
    let h := if o == 5 || o == 6 then 1 else if o == 7 then 2 else 0
    some (sh96t f .w32 .w32 (if h == 0 then .zero else .w32) (.gen false) (!(3 ≤ o && o ≤ 7) || field f.mod.toNat 4 2 != 0)
      (f.xm.toNat / 2 ^ h != 0))
  | .faddi f | .fmuli f => some (sh96i f (useW (ft64 f.mod.toNat)) (.gen (ft64 f.mod.toNat)) (f.mod.toNat / 4 != 0) false)
  | .mma f => some (mmaShape f false)
  | .mmag f => some (mmaShape f true)
  | .aclr f => some (sh64 f .zero .zero .tile (f.mod != 0))
  | .amov f => some (sh64 f .zero .zero .tile (bit f.mod.toNat 5))
  | .ald f =>
    some { srcs := [(.w32, f.s1), (.zero, f.s2), (.zero, f.s3), (.zero, f.s4)], dst := .tile
           bad7 := f.mod != 0 || field f.ctl.toNat 0 11 < 64, bad8 := field f.ctl.toNat 11 19 != 0 }
  | .ast f =>
    some { srcs := [(.w32, f.s1), (.zero, f.s2), (.zero, f.s3), (.zero, f.s4)], dst := .none
           bad7 := f.mod != 0 || field f.ctl.toNat 0 11 < 64, bad8 := field f.ctl.toNat 15 15 != 0 }
  | .aepi f => some (aepiShape f)
  | .tcopy f => some (tcopyShape f)
  | .seal f => some (sh64 f .zero .zero (.noCrew false) (f.mod != 0))
  | .waitb f => some (sh64 f .w32 .zero .none (f.mod != 0))
  | .dictld f =>
    let c := f.ctl.toNat
    some { srcs := [(.w64, f.s1), (.zero, f.s2), (.zero, f.s3), (.zero, f.s4)], dst := .none
           bad7 := f.mod != 0 || field c 3 8 == 0 || field c 11 3 == 7, bad8 := field c 14 16 != 0 }
  | .srd f =>
    some (sh96i f .zero (.noCrew (bit f.mod.toNat 0))
      (field f.mod.toNat 1 5 != 0 || srBad (field f.imm.toNat 0 16) (bit f.mod.toNat 0) false) (field f.imm.toNat 16 16 != 0))
  | .swr f =>
    some (sh96i f (useW (bit f.mod.toNat 0)) .none
      (field f.mod.toNat 1 5 != 0 || srBad (field f.imm.toNat 0 16) (bit f.mod.toNat 0) true) (field f.imm.toNat 16 16 != 0))
  | .tlbinv f => some (priv64 f .w64 .w32 (f.mod.toNat ≥ 6))
  | .tlbinva f =>
    some (priv64 f (if bit f.mod.toNat 3 then .zero else .w32) .zero (field f.mod.toNat 0 3 ≥ 6 || field f.mod.toNat 4 2 != 0))
  | .ctxsave f => some (priv64 f .w32 .w64 (f.mod != 0))
  | .ctxrest f => some (priv64 f .w64 .zero (f.mod != 0))
  | .park f | .resume f => some (priv64 f .w32 .zero (f.mod.toNat ≥ 2))
  | .kill f => some (priv64 f .w32 (if bit f.mod.toNat 1 then .w32 else .zero) (f.mod.toNat ≥ 3))
  | .split f => some (priv64 f .w32 .w32 (f.mod != 0))
  | .seedset f | .eret f => some (priv64 f .w32 .zero (f.mod != 0))
  | .gtwr f => some (hintShape f .w32 .w64 (f.m == 0) false false)
  | .htwr f => some (hintShape f .w32 .zero (f.m == 0) false false)
  | .ldphys f => some (ldstShape f false false true)
  | .stphys f => some (ldstShape f true false true)
  | .gtinv f => some (priv64 f (if bit f.mod.toNat 0 then .zero else .w32) .w64 (f.mod.toNat ≥ 2))
  | .htinv f => some (priv64 f (if bit f.mod.toNat 0 then .zero else .w32) .zero (f.mod.toNat ≥ 2))
  | .padWord | .regroupBoundary | .holdLimitExpiry _ _ _ | .convergeTimeout _ _ | .waitMemRepoll _ _ _
  | .waitTimeout _ _ _ | .teamAdmit _ | .cohortAdmit _ | .scratchRelease _ | .percolatorSpill _ _
  | .spillWriteComplete _ _ _ _ _ | .registerRefillComplete _ _ _ _ | .loadComplete _ _ | .fetchComplete _ _ _
  | .wSectorRegistration _ _ | .wSectorPush _ _ | .cacheDieTempUpdate _ _ | .splitDieApply _ | .seedsetApply _
  | .operandLatchFill _ _ | .tensorReadComplete _ | .accEntryStart _ | .accEntryComplete _ | .copyElementRead _
  | .copyDataWrite _ _ | .copyArrival _ _ | .copyComplete _ | .copyFault _ | .batchFinish _ _ _
  | .dictldSlotRequest _ _ | .dictldSlotWrite _ _ | .stsigSignal _ | .binvClear _ | .handleEntryWrite _
  | .ctxHtabWrite _ | .trNext _ _ | .tailWrite _ _ | .registerWrite _ _ | .commandAccept _ | .nopCommand _ _
  | .launch _ _ | .copyCommand _ _ | .signalCommand _ _ | .nodeFinish _ _ | .teamDeal _ _ | .stealRequest _
  | .stealAnswer _ _ | .stealBackoffExpiry _ | .preemptionStart _ | .teamSaveWriteOut _ | .teamRestore _ _
  | .tableWalkComplete _ _ _ | .pageFaultReplay _ | .faultRecordDelivery | .cpHeartbeatTimeout | .cpHeartbeat
  | .scrubPass _ _ | .spareCoreMap _ | .spareSliceMap _ _ | .verticalLinkHeartbeat _ _ | .linkLost _
  | .linkWakeExpired _ | .shardRebuild _ | .routerTimeoutDetect _ _ | .squallTokenVisit _ | .flitReplay _ _
  | .stop _ _ | .run _ _ | .step _ _ | .sofWrite _ _ _ | .cstop _ | .pcMatchStop _ _ | .go _ | .dumpWrite _
  | .frz _ _ | .clr _ | .replayAccessRelease _ | .errorCountClear _ | .functionLevelReset _ | .getVersion _
  | .getCapabilities _ | .negotiateAlgorithms _ | .getDigests _ | .getCertificate _ | .challenge _ _
  | .getMeasurements _ _ | .keyExchange _ _ | .finish _ | .heartbeat _ | .keyUpdate _ | .endSession _
  | .query _ | .keyProg _ _ _ | .kSetGo _ _ | .kSetStop _ _ | .getTdispVersion _ | .getTdispCapabilities _
  | .lockInterfaceRequest _ | .getDeviceInterfaceReport _ | .getDeviceInterfaceState _
  | .startInterfaceRequest _ | .stopInterfaceRequest _ | .unsupportedRequest _ | .bringupGo _
  | .towerTempPoll _ _ | .limitWrite _ _ | .idleTimerExpiry | .powerEntryComplete | .wake | .packageWakeEvent
  | .powerExitComplete | .hltWrite _ | .coreFailure _ | .incomingLaunoRequest _ _ _
  | .hostDeviceMemoryAccess _ _ _ | .queueRegisterWrite _ _ _ | .consWrite _ | .lcpWrite _
  | .homeAcknowledgement _ _ | .tlbAcknowledgement _ | .lastLevelTlbLookup _ _ _
  | .destinationLinesHeldInG _ _ _ => none

/-- The tiles that an instruction names, in DST, MOD or CTL (R210). -/
def namedTiles (i : Instr) : List Nat :=
  match i with
  | .mma f | .mmag f | .ald f => [f.h.dst.toNat - 216]
  | .aclr f => [f.h.dst.toNat - 216]
  | .amov f => [f.h.dst.toNat - 216, field f.mod.toNat 0 4]
  | .ast f => [field f.ctl.toNat 11 4]
  | .aepi f => [field f.ctl.toNat 0 4]
  | _ => []

/-- The sub-cause, from 4 to 8, with which an instruction is ILLEGAL whatever the state, or none (R128, R135). -/
def illegalSub (i : Instr) : Option Nat :=
  match opcodeOf i, shape i with
  | some (_, f), some p => if f.hdr.gn == 1 && f.hdr.gp == 7 then some 4 else p.sub f.hdr.dst.toNat
  | _, _ => none

end Sys2Proof.Machine
end

