-- ==== Sys2Proof/Machine/Operands.lean ====
section
/-! DEFINITION. Operand forms: special values (R41), indexed registers (R45), permutation (R55, R56), reads, releases (R47)
and the places a destination code names (R43). -/
namespace Sys2Proof.Machine

/-- The value of a special code in a lane of the issuing bundle, as 64 bits (R41). -/
def specialVal (s : State) (c : Crew) (mask : Mask) (l code : Nat) : Nat :=
  let t := c.thread l
  match code with
  | 200 => l
  | 201 => 32 * c.id + l
  | 202 => c.id
  | 203 => (s.teamOf c).teamid
  | 204 => s.cycle
  | 205 => s.tick
  | 206 => s.coreNo c.core
  | 207 => s.clusNo c.core
  | 208 => dieOf c.core
  | 209 => s.stackOfCore c.core
  | 210 => s.stackOfCore c.core / 2
  | 211 => t.flags.toNat
  | 212 => mask.toNat
  | 213 => c.live.toNat
  | 214 => c.mapcnt l
  | 215 => s.sharedFree c.core l
  | 216 => ofBool ((s.pkg.dies.filter (fun d => d.log == some (dieOf c.core))).any (·.scald))
  | 217 => t.depth
  | _ => 0

/-- The lane that serves lane l under a pattern (R55). -/
def srcLane (x : Src) (l : Nat) : Nat :=
  let k := x.parm.toNat
  match x.pat.toNat with
  | 1 => (l + k) % 32
  | 2 => k
  | 3 => xorNat l (2 ^ k)
  | 4 => xorNat l (2 ^ (k + 1) - 1)
  | _ => l

/-- The first register that a code 0 to 127 or 192 to 199 names in a thread (R45). -/
def namedReg (t : Thread) (code : Nat) : Nat :=
  if code < 128 then code
  else
    let i := ((t.idx[code - 192]?).getD 0).toNat
    field i 0 7 + field i 16 16

/-- Whether an indexed run of n registers leaves its window (R45, R176). A `.64` run is n = 2 registers of a pair. -/
def idxOut (t : Thread) (code n : Nat) : Bool :=
  if 192 ≤ code && code < 200 then
    let i := ((t.idx[code - 192]?).getD 0).toNat
    let w := field i 7 7
    let x := field i 16 16
    decide (x ≥ w) || decide (field i 0 7 + x + n > 128)
  else false

/-- Whether an indexed run of more than two registers, or of exactly its window, fits (R176: IDX + run length ≤ LEN). -/
def idxRunOut (t : Thread) (code n : Nat) : Bool :=
  if 192 ≤ code && code < 200 then
    let i := ((t.idx[code - 192]?).getD 0).toNat
    decide (field i 16 16 + n > field i 7 7) || decide (field i 0 7 + field i 16 16 + n > 128)
  else false

/-- Registers that a use reads or a run holds. -/
def Use.regs : Use → Nat
  | .w64 | .addr => 2
  | .plain two => if two then 2 else 1
  | .run n _ => n
  | _ => 1

/-- Whether a use reads thread registers in pairs (R35). -/
def Use.pair : Use → Bool
  | .w64 | .addr => true
  | .plain two => two
  | .run _ two => two
  | _ => false

/-- Whether a source code names thread registers. -/
def isXreg (code : Nat) : Bool := code < 128 || (192 ≤ code && code < 200)

/-- INDEX_BOUND for one source in a lane (R45, R176). -/
def srcOut (t : Thread) (u : Use) (x : Src) : Bool :=
  match u with
  | .zero | .zero7 | .sel | .fmt | .coord | .band => false
  | .run n _ => idxRunOut t x.code.toNat n
  | _ => idxOut t x.code.toNat u.regs

/-- An indexed pair inside its window that starts at an odd register (R45). -/
def srcOdd (t : Thread) (u : Use) (x : Src) : Bool :=
  !srcOut t u x && u.pair && 192 ≤ x.code.toNat && x.code.toNat < 200 && namedReg t x.code.toNat % 2 == 1

/-- Whether a thread reads a source from its registers: one that is to perform an instruction again has its values in the log but for
those that left their windows (R305; log 121). -/
def Thread.reads (t : Thread) (x : Src) : Bool := t.relog.isNone || t.gaps.contains x

/-- The sources that a thread would read outside their windows: it takes INDEX_BOUND for them (R45), and no value of theirs is known. -/
def Thread.outSrcs (t : Thread) (srcs : List (Use × Src)) : List Src :=
  (srcs.filter (fun p => t.reads p.2 && srcOut t p.1 p.2)).map (·.2)

/-- The sources that some others leave. -/
def butSrcs (gaps : List Src) (srcs : List (Use × Src)) : List (Use × Src) := srcs.filter (fun p => !gaps.contains p.2)

/-- A thread keeps the values of an instruction's sources, but of `gaps`, for a re-execution (R305). -/
def Thread.keep (t : Thread) (vals : List Nat) (gaps : List Src := []) : Thread :=
  { t with relog := some (vals.map (BitVec.ofNat 64)), gaps := gaps }

/-- What a read of one source in one lane gives: values, whether a register was unmapped, whether the serving lane was
absent, the registers read as (lane, register). -/
structure SrcRead where
  vals : List Nat
  zread : Bool
  xlane : Bool
  /-- the registers read: (lane, register), and (32, n) for crew register n -/
  regs : List (Nat × Nat)

/-- The value of one thread register; an unmapped register reads zero (R48). -/
def Thread.regVal (t : Thread) (n : Nat) : Nat :=
  match t.reg? n with
  | some r => r.v.toNat
  | none => 0

def Thread.unmapped (t : Thread) (n : Nat) : Bool := (t.reg? n).isNone

/-- Combine 32-bit words into values: pairs, or one by one. -/
def pairUp (pair : Bool) (l : List Nat) : List Nat :=
  match pair, l with
  | true, [a, b] => [a + 2 ^ 32 * b]
  | _, l => l

/-- Read thread registers n to n + k − 1 of lane sl. -/
def readRun (c : Crew) (sl n k : Nat) (pair : Bool) : SrcRead :=
  let t := c.thread sl
  let ns := (List.range k).map (fun j => n + j)
  { vals := pairUp pair (ns.map t.regVal), zread := ns.any t.unmapped, xlane := false, regs := ns.map (fun r => (sl, r)) }

/-- Read a source for lane l of a bundle (R40, R41, R55, R56). -/
def readSrc (s : State) (c : Crew) (mask : Mask) (l : Nat) (u : Use) (x : Src) : SrcRead :=
  let code := x.code.toNat
  let sl := srcLane x l
  let isRun := match u with | .run _ _ => true | _ => false
  match u with
  | .zero | .zero7 | .fmt => ⟨[], false, false, []⟩
  | .sel =>
    let p := (c.thread l).preds.getLsbD (code % 8) || code % 8 == 7
    ⟨[ofBool (p != bit code 3)], false, false, []⟩
  | .band => ⟨[((c.creg[code - 128]?).getD 0).toNat], false, false, [(32, code - 128)]⟩
  | _ =>
    if !mask.getLsbD sl then
      ⟨if isRun then List.replicate u.regs 0 else [0], false, true, []⟩
    else if isXreg code then readRun c sl (namedReg (c.thread sl) code) u.regs (u.pair && !isRun)
    else if code < 192 then
      let k := code - 128
      let lo := ((c.creg[k]?).getD 0).toNat
      ⟨[if u.pair && !isRun then lo + 2 ^ 32 * ((c.creg[k + 1]?).getD 0).toNat else lo], false, false,
        if u.pair && !isRun then [(32, k), (32, k + 1)] else [(32, k)]⟩
    else if code < 224 then
      let v := specialVal s c mask sl code
      ⟨[if u.pair then v % 2 ^ 64 else v % 2 ^ 32], false, false, []⟩
    else ⟨[code - 224], false, false, []⟩

/-- The reads of all sources of a lane. -/
structure LaneRead where
  vals : List Nat
  zread : Bool
  xlane : Bool
  regs : List (Nat × Nat)

/-- Values that a source gives to the lane that reads it. -/
def Use.count : Use → Nat
  | .zero | .zero7 | .fmt => 0
  | .run n _ => n
  | _ => 1

/-- The sources of an instruction performed again: the logged values in their order, those of `gaps` read now. -/
def againReads (read : Use × Src → SrcRead) (gaps : List Src) : List (Use × Src) → List Nat → List SrcRead
  | [], vs => [⟨vs, false, false, []⟩]
  | p :: ps, vs =>
    if gaps.contains p.2 then read p :: againReads read gaps ps vs
    else ⟨vs.take p.1.count, false, false, []⟩ :: againReads read gaps ps (vs.drop p.1.count)

/-- The reads of several sources together. -/
def joinReads (rs : List SrcRead) : LaneRead := ⟨rs.flatMap (·.vals), rs.any (·.zread), rs.any (·.xlane), rs.flatMap (·.regs)⟩

/-- Read every source of a lane; a lane that re-executes takes its values from the operand log (R305). -/
def readLane (s : State) (c : Crew) (mask : Mask) (srcs : List (Use × Src)) (l : Nat) : LaneRead :=
  match (c.thread l).relog with
  | some vs =>
    if (c.thread l).gaps.isEmpty then ⟨vs.map (·.toNat), false, false, []⟩
    else joinReads (againReads (fun p => readSrc s c mask l p.1 p.2) (c.thread l).gaps srcs (vs.map (·.toNat)))
  | none => joinReads (srcs.map (fun p => readSrc s c mask l p.1 p.2))

/-- What a lane reads of one source, or has logged of an instruction with no other. -/
def readOne (s : State) (c : Crew) (mask : Mask) (u : Use) (x : Src) (l : Nat) : SrcRead :=
  if (c.thread l).reads x then readSrc s c mask l u x
  else ⟨((c.thread l).relog.getD []).map (·.toNat), false, false, []⟩

/-- Releases of one source (R47): in the lanes that execute, or, permuted, in every lane of the bundle. A lane that
re-executes releases nothing. `wide` treats the source as permuted (R206, R208). -/
def releaseSrc (mask em : Mask) (wide : Bool) (u : Use) (x : Src) (c : Crew) : Crew :=
  if x.last == 1 && isXreg x.code.toNat then
    let m := if wide || x.pat != 0 then mask else em
    c.modLanes m (fun _ t =>
      if !t.reads x then t
      else ((List.range u.regs).map (fun j => namedReg t x.code.toNat + j)).foldl Thread.release t)
  else c

def releaseAll (mask em : Mask) (wide : Bool) (srcs : List (Use × Src)) (c : Crew) : Crew :=
  srcs.foldl (fun c p => releaseSrc mask em wide p.1 p.2 c) c

/-- Registers that a source with L = 1 releases in a thread, when the thread executes. -/
def releasedRegs (t : Thread) (srcs : List (Use × Src)) : List Nat :=
  srcs.flatMap (fun p => if p.2.last == 1 && isXreg p.2.code.toNat && t.reads p.2
    then (List.range p.1.regs).map (fun j => namedReg t p.2.code.toNat + j) else [])

/-- A lane takes a fault of its own at issue, for which it is to perform the instruction again: of the sources `srcs` all but `gaps` are read,
released and logged (R47, R305). `rd` is that read, with the flags that it raises. -/
def Thread.log (t : Thread) (srcs : List (Use × Src)) (gaps : List Src) (rd : LaneRead) : Thread :=
  (((releasedRegs t (butSrcs gaps srcs)).foldl Thread.release t).raise
    (orF (if rd.zread then flZREAD else 0) (if rd.xlane then flXLANE else 0))).keep rd.vals gaps

/-- Thread registers that a destination of k registers writes in a thread (R43, R45). -/
def dstRegs (t : Thread) (d k : Nat) : List Nat :=
  if isXreg d then (List.range k).map (fun j => namedReg t d + j) else []

/-- Write predicate n of a thread: p7 is not written (R36). -/
def Thread.setPred (t : Thread) (n : Nat) (v : Bool) : Thread :=
  if n == 7 then t
  else { t with preds := if v then t.preds ||| BitVec.ofNat 8 (2 ^ n) else t.preds &&& ~~~(BitVec.ofNat 8 (2 ^ n)) }

/-- Deliver a value of k registers to a destination code in a lane: x, x[i], p, i, or none (R43). -/
def Thread.deliver (t : Thread) (d k v : Nat) : Thread :=
  if d == 255 then t
  else if isXreg d then
    ((List.range k).map (fun j => (namedReg t d + j, v / 2 ^ (32 * j) % 2 ^ 32))).foldl
      (fun t p => t.setReg p.1 (BitVec.ofNat 32 p.2)) t
  else if 200 ≤ d && d < 208 then t.setPred (d - 200) (v % 2 == 1)
  else if 208 ≤ d && d < 216 then { t with idx := t.idx.set (d - 208) (BitVec.ofNat 32 v) }
  else t

/-- Write crew registers from code 128 + n (R21). -/
def Crew.setCreg (c : Crew) (n k v : Nat) : Crew :=
  { c with
    creg := (List.range k).foldl (fun r j => r.set (n + j) (BitVec.ofNat 32 (v / 2 ^ (32 * j) % 2 ^ 32))) c.creg
    cbad := c.cbad.filter (fun x => !(n ≤ x && x < n + k)) }

end Sys2Proof.Machine
end

