-- ==== Sys2Proof/Machine/Lane.lean ====
section
/-! DEFINITION. How an instruction that works lane by lane issues: guard, collective check (01 R19, R20), checks before any
effect (06 R135, 02 R45, R48), stalls (R46, R51), then reads, releases, writes, flags and the next PC (R47, R143). -/
namespace Sys2Proof.Machine

/-- What keeps an instruction from taking effect in this issue. -/
inductive Stop
  | stall (why : Why)
  | trap (t : Trap)
  | cheld
deriving DecidableEq, Repr

/-- Lanes of a bundle whose guard is true (R143); a lane that re-executes takes part whatever its guard (R173). -/
def guardMask (c : Crew) (mask : Mask) (h : Hdr) : Mask :=
  maskOf ((lanesOf mask).filter (fun l =>
    let t := c.thread l
    t.relog.isSome || ((h.gp == 7 || t.preds.getLsbD h.gp.toNat) != (h.gn == 1))))

/-- ILLEGAL at run time for the whole instruction (R135). -/
def illegalTrap (mask : Mask) (pc : DWord) (sub : Nat) : Stop := .trap { cause := .illegal, sub := sub, lmask := mask, pc := pc }

/-- A fault that one lane takes at an instruction: lane, cause, sub-cause, address. -/
abbrev LaneFault := Nat × Cause × Nat × Nat

/-- Every lane of a mask takes one cause. -/
def faultsOf (m : Mask) (k : Cause) (sub : Nat) : List LaneFault := (lanesOf m).map (fun l => (l, k, sub, 0))

/-- The one record of an instruction whose lanes fault: the mask of them all, and what the lowest takes, for each lane its first in the
list (R173, R331). -/
def trapOf (pc : DWord) (fs : List LaneFault) : Trap :=
  let m := maskOf (fs.map (·.1))
  match (lanesOf m).head?.bind (fun l => fs.find? (fun f => f.1 == l)) with
  | some (_, k, sub, a) => { cause := k, sub := sub, addr := a, lmask := m, pc := pc }
  | none => { cause := .indexBound, lmask := m, pc := pc }

/-- The collective check of R19 and R20 for a bundle at an instruction: the whole crew must stand in it; a crew that has
lost a thread, or whose guard differs between lanes unless the instruction only writes a crew register, takes
ILL_CONVERGE. -/
def collective (c : Crew) (mask em : Mask) (pc : DWord) (cregOnly : Bool) : Option Stop :=
  if c.live != allLanes then some (.trap { cause := .illConverge, sub := 1, lmask := mask, pc := pc })
  else if mask != allLanes then some .cheld
  else if !cregOnly && em != 0 && em != allLanes then
    some (.trap { cause := .illConverge, sub := 2, lmask := mask, pc := pc })
  else none

/-- A lane instruction: sources, destination and its registers, length, the result of each lane from the values of all
lanes, with its flags. A collective one combines the values of every lane of the crew. -/
structure LaneOp where
  h : Hdr
  srcs : List (Use × Src)
  /-- registers of the destination -/
  k : Nat
  len : Nat
  /-- collective whatever its destination (R19) -/
  coll : Bool := false
  f : (Nat → List Nat) → Nat → Nat × Nat
  /-- a further effect on the thread, from its values -/
  post : List Nat → Thread → Thread := fun _ t => t
  /-- a further effect on the crew, when a lane executes -/
  cpost : (Nat → List Nat) → Crew → Crew := fun _ c => c

/-- A destination code that names a crew register (R43). -/
def isCreg (d : Nat) : Bool := 128 ≤ d && d < 192

/-- The sources that an instruction takes: a collective one whose guard is false in every lane is a no-operation (R20, R21, R207). -/
def takenSrcs (coll : Bool) (d : Nat) (em : Mask) (srcs : List (Use × Src)) : List (Use × Src) :=
  if (coll || isCreg d) && em == 0 then [] else srcs

/-- The lanes whose sources an instruction reads: those that execute; of a collective one that executes, all (R160, R161, R207). -/
def readLanes (coll : Bool) (mask em : Mask) : Mask := if coll && em != 0 then mask else em

/-- Lanes that meet a condition, of a mask. -/
def lanesIf (m : Mask) (p : Nat → Bool) : Mask := maskOf ((lanesOf m).filter p)

/-- A register that a read waits for: its value is pending (R13), or spilled (R53). -/
def regBlocked (c : Crew) (p : Nat × Nat) : Bool :=
  p.1 != 32 && match (c.thread p.1).reg? p.2 with
    | some r => r.pend || r.st != .mapped
    | none => false

/-- A register, or crew register, that an uncorrectable error has poisoned (R325). -/
def regBad (c : Crew) (p : Nat × Nat) : Bool :=
  if p.1 == 32 then c.cbad.contains p.2
  else match (c.thread p.1).reg? p.2 with
  | some r => r.bad
  | none => false

/-- Registers that a write must wait for: a value still pending (R173). -/
def dstBlocked (t : Thread) (ns : List Nat) : Bool :=
  ns.any (fun n => match t.reg? n with | some r => r.pend | none => false)

/-- New entries that a thread takes: destination words that are unmapped or spilled before the write, or released by the
instruction itself (R46, R53); entries it frees come first (R47). -/
def newEntries (t : Thread) (released ns : List Nat) : Nat × Nat :=
  let freed := (released.eraseDups.filter (fun n => match t.reg? n with | some r => r.st.entry | none => false)).length
  let need := (ns.filter (fun n => released.contains n || match t.reg? n with | some r => !r.st.entry | none => true)).length
  (need, freed)

/-- The lanes whose writes would bring the map of a gate callee above its register budget (R168). `rel` are the registers that the
instruction releases in a lane, `ns` those it writes. -/
def overBudget (c : Crew) (em : Mask) (rel ns : Nat → List Nat) : Mask :=
  lanesIf em (fun l =>
    let need := newEntries (c.thread l) (rel l) (ns l)
    c.rbud != 0 && need.1 > 0 && held (c.thread l).regs + need.1 - need.2 > c.rbud)

/-- The stall of an instruction that cannot write yet: a destination still pending (R173), or entries that are not free (R46, R51). -/
def entryStall (s : State) (c : Crew) (em : Mask) (rel ns : Nat → List Nat) : Option Stop :=
  if (lanesOf em).any (fun l => dstBlocked (c.thread l) (ns l)) then some (.stall .dep)
  else if (lanesOf em).any (fun l =>
      let need := newEntries (c.thread l) (rel l) (ns l)
      need.1 > need.2 && !s.canTake c l (need.1 - need.2)) then some (.stall .regs)
  else none

/-- Whether an access may raise a flag when it completes: a load that converts, or AFADD (R76, R84, R182). -/
def Acc.raises (a : Acc) : Bool :=
  let conv := fun (f : F128M) => f.fmt != 0 && (a.sfmt != f.fmt.toNat || a.hold != .none)
  (match a.late with | some x => !x.zero.isEmpty | none => false) || match a.ins with
  | .ld f => conv f
  | .ldm f => conv f || f.fmt != 0 && a.units.any (fun u => u.sf != f.fmt.toNat)
  | .afadd _ => true
  /- a store that waits for its page or its lookup converts when it is replayed -/
  | .st f => conv f && a.hold != .none && a.units.isEmpty
  | .stm f => conv f && a.hold != .none && a.units.isEmpty
  | _ => false

/-- Whether a lane has issued a load or an atomic that may still raise a flag when it completes (R76, R84). -/
def State.flagsPend (s : State) (c : Crew) (l : Nat) : Bool :=
  s.accs.any (fun a => a.serial == c.team && a.crew == c.id && a.lane == l && a.raises)

/-- Whether a read of the flags has to wait: every instruction before it has raised its own (R41). -/
def State.flagsWait (s : State) (c : Crew) (mask : Mask) (srcs : List (Use × Src)) (l : Nat) : Bool :=
  srcs.any (fun p => (c.thread l).reads p.2 && p.2.code.toNat == 211
    && mask.getLsbD (srcLane p.2 l) && s.flagsPend c (srcLane p.2 l))

/-- Lanes of a mask that take INDEX_BOUND (R45, R176): precise, lane by lane (R323). -/
def boundLanes (c : Crew) (em : Mask) (srcs : List (Use × Src)) (d k : Nat) : Mask :=
  lanesIf em (fun l => !((c.thread l).outSrcs srcs).isEmpty || idxOut (c.thread l) d k)

/-- Whether, in a lane that executes, an indexed `.64` pair that lies within its window starts at an odd register (R135). -/
def oddAt (c : Crew) (em : Mask) (srcs : List (Use × Src)) (d k : Nat) (dpair : Bool) : Bool :=
  (lanesOf em).any (fun l => srcs.any (fun p => (c.thread l).reads p.2 && srcOdd (c.thread l) p.1 p.2)
    || 192 ≤ d && d < 200 && dpair && !idxOut (c.thread l) d k && namedReg (c.thread l) d % 2 == 1)

/-- ILLEGAL that depends on the state, of an instruction with no destination register: an odd pair, then a tile at or above the tile
count of the team (R135, R38, R210). -/
def State.illegalNow (s : State) (c : Crew) (mask em : Mask) (pc : DWord) (srcs : List (Use × Src)) (tiles : List Nat) : Option Stop :=
  if oddAt c em srcs 255 1 false then some (illegalTrap mask pc 6)
  else if tiles.any (fun n => decide ((s.teamOf c).tiles ≤ n)) then some (illegalTrap mask pc 7)
  else none

/-- The checks that every instruction with sources makes once its registers hold values (R48, R168, R325): `rd` is what each lane of
`reads` reads, `em` the lanes that write, `out` those outside a window, which read what is within (R305). A lane that reads a poisoned register, reads an unmapped one of
a strict region, or exceeds its budget takes a fault, and no lane has an effect; the lanes outside a window are in that record too
(R331). -/
def valueCheck (s : State) (c : Crew) (reads em out : Mask) (pc : DWord) (rd : Nat → List (Nat × Nat) × Bool)
    (rel ns : Nat → List Nat) : Option Stop :=
  let bad := lanesIf reads (fun l => (rd l).1.any (regBad c))
  let zr := if (s.teamOf c).strict then lanesIf reads (fun l => (rd l).2) else 0
  let past := overBudget c em rel ns
  if (lanesOf reads).any (fun l => (rd l).1.any (regBlocked c)) then some (.stall .dep)
  else if bad ||| zr ||| past != 0 then
    some (.trap (trapOf pc (faultsOf out .indexBound 0 ++ faultsOf bad .poison 3 ++ faultsOf zr .zreadStrict 0 ++ faultsOf past .regBudget 0)))
  else entryStall s c em rel ns

/-- The checks of the sources and the destination of a lane instruction before any effect, but for INDEX_BOUND. `serve`
lanes are read. -/
def operandCheck (s : State) (c : Crew) (mask em serve : Mask) (pc : DWord) (srcs : List (Use × Src)) (d k : Nat)
    (dpair : Bool) : Option Stop :=
  let out := boundLanes c em srcs d k
  let mine := fun (l : Nat) => if out.getLsbD l then butSrcs ((c.thread l).outSrcs srcs) srcs else srcs
  if oddAt c em srcs d k dpair then some (illegalTrap mask pc 6)
  else if (lanesOf serve).any (fun l => s.flagsWait c mask (mine l) l) then some (.stall .dep)
  else valueCheck s c serve (em &&& ~~~out) out pc (fun l => ((readLane s c mask (mine l) l).regs, (readLane s c mask (mine l) l).zread))
    (fun l => releasedRegs (c.thread l) srcs) (fun l => dstRegs (c.thread l) d k)

/-- Lanes take a fault of their own at issue: they keep what they have read for the re-execution, `extra` values after those of the sources
(R305). `c0` is the crew before the instruction has released anything. Of an instruction that has no effect yet in its other lanes, `whole`,
what is read through a permutation stays in the registers until those perform it (log 121). -/
def Crew.logLanes (c : Crew) (s : State) (c0 : Crew) (mask m : Mask) (srcs : Nat → List (Use × Src)) (whole : Bool := false)
    (extra : Nat → List Nat := fun _ => []) : Crew :=
  c.modLanes m (fun l t =>
    let t0 := c0.thread l
    let gaps := t0.outSrcs (srcs l) ++ if whole then ((srcs l).filter (fun p => p.2.pat != 0 && t0.reads p.2)).map (·.2) else []
    let rd := readLane s c0 mask (butSrcs gaps (srcs l)) l
    t.log (srcs l) gaps { rd with vals := rd.vals.take ((butSrcs gaps (srcs l)).map (fun p => p.1.count)).sum ++ extra l })

/-- A thread comes to a collective: the count of R20 starts with the first, and each collective has its own. -/
def Crew.atColl (c : Crew) (pc : DWord) : Crew :=
  { c with coll := if c.coll.any (fun x => x.1 == pc) then c.coll else c.coll ++ [(pc, 0)] }

/-- Take a stop: a stall keeps the bundle; a trap parks the crew; a bundle at a collective without the whole crew enters
CHELD. -/
def State.stopped (s : State) (k : Nat) (iss : Issue) (x : Stop) : State :=
  match x with
  | .stall why => s.modCrew k (fun c => c.stall iss.mask why)
  | .trap t => s.takeFault k t
  | .cheld => s.modCrew k (fun c => (c.enter iss.mask .cheld .none).atColl iss.pc)

/-- Every lane of the issuing bundle goes on: its last-issue cycle, its PC, no operand log; lanes whose next PCs differ split
(R15, R287). -/
def Crew.advance (c : Crew) (mask : Mask) (cycle : Nat) (next : Nat → Thread → DWord) : Crew :=
  (c.modLanes mask (fun l t => { t with pc := next l t, lastIssue := cycle, woke := false, relog := none })).rebundle mask

/-- Read flags of a lane. -/
def readFlags (r : LaneRead) : Nat := orF (if r.zread then flZREAD else 0) (if r.xlane then flXLANE else 0)

/-- A destination that is a crew register takes the result of the lowest lane that executes (R21, R43). -/
def Crew.deliverCreg (c : Crew) (d k : Nat) (em : Mask) (v : Nat → Nat) : Crew :=
  if isCreg d then
    match lanesOf em with
    | [] => c
    | l :: _ => c.setCreg (d - 128) k (v l)
  else c

/-- The effect of a lane instruction on its crew once no check stops it (R47, R143): lanes of `em` execute, lanes of `adv`
go on. -/
def LaneOp.apply (o : LaneOp) (s : State) (c : Crew) (mask em adv : Mask) : Crew :=
  let d := o.h.dst.toNat
  let rd := fun l => readLane s c mask o.srcs l
  let vals := fun l => (rd l).vals
  let res := fun l => o.f vals l
  let c1 := releaseAll adv em false (takenSrcs o.coll d em o.srcs) c
  let c2 := c1.modLanes em (fun l t =>
    o.post (vals l) ((t.deliver d o.k (res l).1).raise (orF (res l).2 (readFlags (rd l)))))
  let c3 := c2.deliverCreg d o.k em (fun l => (res l).1)
  let c4 := if em != 0 then o.cpost vals c3 else c3
  c4.advance adv s.cycle (fun _ t => t.pc + BitVec.ofNat 64 o.len)

/-- Issue a lane instruction for the bundle in `cur`. Lanes that take INDEX_BOUND stay at it with what they have read and park the crew, the
others complete (R173, R305, R323); a collective instruction then has no effect in any of these. -/
def runLane (o : LaneOp) (s : State) : Host.Outcome State Fault Refusal :=
  match s.cur with
  | none => .next s
  | some iss =>
    match s.crew? iss.crew with
    | none => .next s
    | some c =>
      let em := guardMask c iss.mask o.h
      let d := o.h.dst.toNat
      let col := o.coll || isCreg d
      match (if oddAt c em o.srcs d o.k (o.k == 2) then some (illegalTrap iss.mask iss.pc 6)
        else if col then collective c iss.mask em iss.pc (isCreg d) else none) with
      | some x => .next (s.stopped iss.crew iss x)
      | none =>
        match operandCheck s c iss.mask em (readLanes o.coll iss.mask em) iss.pc o.srcs d o.k (o.k == 2) with
        | some x => .next (s.stopped iss.crew iss x)
        | none =>
          let out := boundLanes c em o.srcs d o.k
          let bound : Stop := .trap (trapOf iss.pc (faultsOf out .indexBound 0))
          if out == 0 then .next (s.modCrew iss.crew (fun _ => o.apply s c iss.mask em iss.mask))
          else if col then .next ((s.modCrew iss.crew (fun _ => c.logLanes s c iss.mask out (fun _ => o.srcs) true)).stopped iss.crew iss bound)
          else .next ((s.modCrew iss.crew (fun _ =>
            (o.apply s c iss.mask (em &&& ~~~out) (iss.mask &&& ~~~out)).logLanes s c iss.mask out (fun _ => o.srcs))).stopped iss.crew iss bound)

/-- A lane instruction whose result depends on its own lane's values only. -/
def ownLane (f : List Nat → Nat × Nat) : (Nat → List Nat) → Nat → Nat × Nat := fun vals l => f (vals l)

end Sys2Proof.Machine
end

