-- ==== Sys2Proof/Machine/Integer.lean ====
section
/-! DEFINITION. The meanings of the integer, logic, shift, bit-field, move, predicate and index instructions (07 R144 to
R155), each a lane instruction issued by `runLane`. -/
namespace Sys2Proof.Machine

/-- Results of the machine's steps. -/
abbrev Out := Host.Outcome State Fault Refusal

/-- A source value read in an integer type: its low w bits, extended by signedness (R59, R143). -/
def readT (t : ITy) (x : Nat) : Int := intVal t.w t.sg x

/-- An exact result delivered in a type: wrapped, or clamped with SAT (R143, R144). -/
def writeT (t : ITy) (sat : Bool) (v : Int) : Nat × Nat := if sat then clampInt t.w t.sg v else (wrap t.w v, 0)

def regsOf (two : Bool) : Nat := if two then 2 else 1

/-- Integer arithmetic with sources read in the type of MOD[2:0] (R144). -/
def arithOp (h : Hdr) (m : BitVec 6) (len : Nat) (srcs : List Src) (g : Int → Int → Int → Int) : LaneOp :=
  let t := ityOf (field m.toNat 0 3)
  { h := h, srcs := srcs.map (fun x => (useW (t.w == 64), x)), k := regsOf (t.w == 64), len := len
    f := ownLane (fun v => writeT t (bit m.toNat 3) (g (readT t (val v 0)) (readT t (val v 1)) (readT t (val v 2)))) }

/-- IMM in a type: signed when the type is signed, extended to 64 bits in the same way (R144). -/
def immT (t : ITy) (i : BitVec 32) : Int := if t.sg then signed 32 i.toNat else (i.toNat : Int)

/-- ADD (R144). -/
def execAdd (f : F64) (s : State) : Out := runLane (arithOp f.h f.mod 8 [f.s1, f.s2] (fun a b _ => a + b)) s
/-- SUB (R144). -/
def execSub (f : F64) (s : State) : Out := runLane (arithOp f.h f.mod 8 [f.s1, f.s2] (fun a b _ => a - b)) s
/-- MUL (R144). -/
def execMul (f : F64) (s : State) : Out := runLane (arithOp f.h f.mod 8 [f.s1, f.s2] (fun a b _ => a * b)) s
/-- MULHI: floor(a × b / 2^w) (R144). -/
def execMulhi (f : F64) (s : State) : Out :=
  runLane (arithOp f.h f.mod 8 [f.s1, f.s2] (fun a b _ => a * b / (2 : Int) ^ (ityOf (field f.mod.toNat 0 3)).w)) s
/-- MIN (R144). -/
def execMin (f : F64) (s : State) : Out := runLane (arithOp f.h f.mod 8 [f.s1, f.s2] (fun a b _ => if a ≤ b then a else b)) s
/-- MAX (R144). -/
def execMax (f : F64) (s : State) : Out := runLane (arithOp f.h f.mod 8 [f.s1, f.s2] (fun a b _ => if a ≤ b then b else a)) s
/-- ABS (R144). -/
def execAbs (f : F64) (s : State) : Out := runLane (arithOp f.h f.mod 8 [f.s1] (fun a _ _ => if a < 0 then -a else a)) s
/-- NEG (R144). -/
def execNeg (f : F64) (s : State) : Out := runLane (arithOp f.h f.mod 8 [f.s1] (fun a _ _ => -a)) s
/-- MAD: a × b + c, exact before reduction (R144). -/
def execMad (f : F96T) (s : State) : Out := runLane (arithOp f.h f.mod 12 [f.s1, f.s2, f.s3] (fun a b c => a * b + c)) s
/-- ADDI (R144). -/
def execAddi (f : F96I) (s : State) : Out :=
  runLane (arithOp f.h f.mod 12 [f.s1] (fun a _ _ => a + immT (ityOf (field f.mod.toNat 0 3)) f.imm)) s
/-- MULI (R144). -/
def execMuli (f : F96I) (s : State) : Out :=
  runLane (arithOp f.h f.mod 12 [f.s1] (fun a _ _ => a * immT (ityOf (field f.mod.toNat 0 3)) f.imm)) s

/-- Quotient rounded toward zero, and the two special cases of R145, with DZ. -/
def divT (t : ITy) (a b : Int) : Nat × Nat :=
  if b == 0 then (2 ^ t.w - 1, flDZ) else (wrap t.w (Int.tdiv a b), 0)

/-- Remainder a − b × quotient (R145). -/
def remT (t : ITy) (a b : Int) : Nat × Nat :=
  if b == 0 then (wrap t.w a, flDZ) else (wrap t.w (Int.tmod a b), 0)

/-- DIV and REM share their operands (R145). -/
def divOp (f : F64) (g : ITy → Int → Int → Nat × Nat) : LaneOp :=
  let t := ityOf (field f.mod.toNat 0 3)
  { h := f.h, srcs := [(useW (t.w == 64), f.s1), (useW (t.w == 64), f.s2)], k := regsOf (t.w == 64), len := 8
    f := ownLane (fun v => g t (readT t (val v 0)) (readT t (val v 1))) }

/-- DIV (R145). -/
def execDiv (f : F64) (s : State) : Out := runLane (divOp f divT) s
/-- REM (R145). -/
def execRem (f : F64) (s : State) : Out := runLane (divOp f remT) s

/-! ### Logic, shifts, bit counts (R146) -/

/-- An operation on values of width 32 or 64 by MOD[0]; `narrow` writes one register. -/
def bitsOp (h : Hdr) (m : BitVec 6) (len : Nat) (srcs : List (Use × Src)) (narrow : Bool) (g : Nat → Nat → Nat → Nat) :
    LaneOp :=
  let w := if bit m.toNat 0 then 64 else 32
  { h := h, srcs := srcs, k := regsOf (bit m.toNat 0 && !narrow), len := len
    f := ownLane (fun v => (g w (val v 0) (val v 1) % 2 ^ w, 0)) }

/-- Both sources in the width of MOD[0]. -/
def logicOp (f : F64) (g : Nat → Nat → Nat) : LaneOp :=
  let u := useW (bit f.mod.toNat 0)
  bitsOp f.h f.mod 8 [(u, f.s1), (u, f.s2)] false (fun _ a b => g a b)

/-- One source in the width of MOD[0]. -/
def unaryOp (f : F64) (narrow : Bool) (g : Nat → Nat → Nat) : LaneOp :=
  bitsOp f.h f.mod 8 [(useW (bit f.mod.toNat 0), f.s1)] narrow (fun w a _ => g w a)

/-- A value and a 32-bit amount. -/
def shiftOp (f : F64) (g : Nat → Nat → Nat → Nat) : LaneOp :=
  bitsOp f.h f.mod 8 [(useW (bit f.mod.toNat 0), f.s1), (.w32, f.s2)] false g

/-- The immediate of ANDI, ORI, XORI: 32 bits, or sign-extended to 64 (R146). -/
def immW (w : Bool) (i : BitVec 32) : Nat := if w then wrap 64 (signed 32 i.toNat) else i.toNat

def logicImm (f : F96I) (g : Nat → Nat → Nat) : LaneOp :=
  let w := bit f.mod.toNat 0
  bitsOp f.h f.mod 12 [(useW w, f.s1)] false (fun _ a _ => g a (immW w f.imm))

/-- Arithmetic right shift of a w-bit value. -/
def sarW (w a n : Nat) : Nat := wrap w (signed w a / (2 : Int) ^ Nat.min n w)

/-- Rotate left by n mod w. -/
def rolW (w a n : Nat) : Nat :=
  let k := n % w
  a * 2 ^ k % 2 ^ w + a % 2 ^ w / 2 ^ (w - k)

/-- Leading zeros of a w-bit value. -/
def clzW (w a : Nat) : Nat := if a % 2 ^ w == 0 then w else w - 1 - Nat.log2 (a % 2 ^ w)

/-- Bit reversal of a w-bit value. -/
def brevW (w a : Nat) : Nat := (List.range w).foldl (fun r k => r + ofBool (bit a k) * 2 ^ (w - 1 - k)) 0

/-- AND (R146). -/
def execAnd (f : F64) (s : State) : Out := runLane (logicOp f andNat) s
/-- OR (R146). -/
def execOr (f : F64) (s : State) : Out := runLane (logicOp f orNat) s
/-- XOR (R146). -/
def execXor (f : F64) (s : State) : Out := runLane (logicOp f xorNat) s
/-- NOT (R146). -/
def execNot (f : F64) (s : State) : Out := runLane (unaryOp f false (fun w a => 2 ^ w - 1 - a % 2 ^ w)) s
/-- SHL: 0 when n ≥ w (R146). -/
def execShl (f : F64) (s : State) : Out := runLane (shiftOp f (fun w a n => if n ≥ w then 0 else a * 2 ^ n)) s
/-- SHR (R146). -/
def execShr (f : F64) (s : State) : Out := runLane (shiftOp f (fun w a n => if n ≥ w then 0 else a / 2 ^ n)) s
/-- SAR (R146). -/
def execSar (f : F64) (s : State) : Out := runLane (shiftOp f sarW) s
/-- ROL (R146). -/
def execRol (f : F64) (s : State) : Out := runLane (shiftOp f rolW) s
/-- POPC (R146). -/
def execPopc (f : F64) (s : State) : Out := runLane (unaryOp f true popCount) s
/-- CLZ (R146). -/
def execClz (f : F64) (s : State) : Out := runLane (unaryOp f true clzW) s
/-- BREV (R146). -/
def execBrev (f : F64) (s : State) : Out := runLane (unaryOp f false brevW) s
/-- ANDI (R146). -/
def execAndi (f : F96I) (s : State) : Out := runLane (logicImm f andNat) s
/-- ORI (R146). -/
def execOri (f : F96I) (s : State) : Out := runLane (logicImm f orNat) s
/-- XORI (R146). -/
def execXori (f : F96I) (s : State) : Out := runLane (logicImm f xorNat) s

/-- ADDA: d.64 := a.64 + ext(o) × N (R147). -/
def addaOp (f : F64) : LaneOp :=
  { h := f.h, srcs := [(.w64, f.s1), (.w32, f.s2)], k := 2, len := 8
    f := ownLane (fun v =>
      let o : Int := if bit f.mod.toNat 3 then (val v 1 : Int) else signed 32 (val v 1)
      (wrap 64 ((val v 0 : Int) + o * (2 : Int) ^ field f.mod.toNat 0 3), 0)) }

/-- ADDA (R147). -/
def execAdda (f : F64) (s : State) : Out := runLane (addaOp f) s

/-- BFX (R148). -/
def bfxOp (f : F96T) : LaneOp :=
  let w := if bit f.mod.toNat 0 then 64 else 32
  let p := field f.xm.toNat 0 6
  let n := field f.xm.toNat 6 7
  { h := f.h, srcs := [(useW (bit f.mod.toNat 0), f.s1)], k := regsOf (bit f.mod.toNat 0), len := 12
    f := ownLane (fun v =>
      let x := field (val v 0) p n
      (if n == 0 then 0 else if bit f.mod.toNat 1 then wrap w (signed n x) else x, 0)) }

/-- BFX (R148). -/
def execBfx (f : F96T) (s : State) : Out := runLane (bfxOp f) s

/-- BFI (R148). -/
def bfiOp (f : F96T) : LaneOp :=
  let u := useW (bit f.mod.toNat 0)
  { h := f.h, srcs := [(u, f.s1), (u, f.s2)], k := regsOf (bit f.mod.toNat 0), len := 12
    f := ownLane (fun v => (setField (val v 1) (field f.xm.toNat 0 6) (field f.xm.toNat 6 7) (val v 0), 0)) }

/-- BFI (R148). -/
def execBfi (f : F96T) (s : State) : Out := runLane (bfiOp f) s

/-- WSH.DN and WSH.UP: a 32-bit window of hi × 2^32 + lo (R149). -/
def wshOp (f : F96T) : LaneOp :=
  { h := f.h, srcs := [(.w32, f.s1), (.w32, f.s2), (.w32, f.s3)], k := 1, len := 12
    f := ownLane (fun v =>
      let x := val v 1 * 2 ^ 32 + val v 0
      let n := if bit f.mod.toNat 1 then val v 2 % 64 else Nat.min (val v 2) 64
      (if bit f.mod.toNat 0 then x * 2 ^ n % 2 ^ 64 / 2 ^ 32 else x / 2 ^ n % 2 ^ 32, 0)) }

/-- WSH (R149). -/
def execWsh (f : F96T) (s : State) : Out := runLane (wshOp f) s

/-- MOV (R150). -/
def movOp (f : F64) : LaneOp := unaryOp f false (fun _ a => a)

/-- MOV (R150). -/
def execMov (f : F64) (s : State) : Out := runLane (movOp f) s

/-- MOVI: IMM, sign-extended to a pair with W = 1 (R150). -/
def moviOp (f : F96I) : LaneOp :=
  { h := f.h, srcs := [], k := regsOf (bit f.mod.toNat 0), len := 12
    f := ownLane (fun _ => (immW (bit f.mod.toNat 0) f.imm, 0)) }

/-- MOVI (R150). -/
def execMovi (f : F96I) (s : State) : Out := runLane (moviOp f) s

/-- A selector held outside a source field (R152). -/
def selSrc (v : Nat) : Src := { code := BitVec.ofNat 8 (v % 16), last := 0, pat := 0, parm := 0 }

/-- SEL: a where P holds, else b (R150). -/
def selOp (f : F96T) : LaneOp :=
  let u := useW (bit f.mod.toNat 0)
  { h := f.h, srcs := [(u, f.s1), (u, f.s2), (.sel, selSrc f.xm.toNat)], k := regsOf (bit f.mod.toNat 0), len := 12
    f := ownLane (fun v => (if val v 2 == 1 then val v 0 else val v 1, 0)) }

/-- SEL (R150). -/
def execSel (f : F96T) (s : State) : Out := runLane (selOp f) s

/-! ### Compares and predicates (R151 to R153) -/

/-- An integer condition of R151. -/
def icond (c : Nat) (a b : Int) : Bool :=
  match c with
  | 0 => a == b
  | 1 => a != b
  | 2 => decide (a < b)
  | 3 => decide (a ≤ b)
  | 4 => decide (b < a)
  | _ => decide (b ≤ a)

/-- SETP (R151). -/
def setpOp (f : F64) : LaneOp :=
  let t := ityOf (field f.mod.toNat 0 3)
  { h := f.h, srcs := [(useW (t.w == 64), f.s1), (useW (t.w == 64), f.s2)], k := 1, len := 8
    f := ownLane (fun v => (ofBool (icond (field f.mod.toNat 3 3) (readT t (val v 0)) (readT t (val v 1))), 0)) }

/-- SETP (R151). -/
def execSetp (f : F64) (s : State) : Out := runLane (setpOp f) s

/-- SETPI (R151). -/
def setpiOp (f : F96I) : LaneOp :=
  let t := ityOf (field f.mod.toNat 0 3)
  { h := f.h, srcs := [(useW (t.w == 64), f.s1)], k := 1, len := 12
    f := ownLane (fun v => (ofBool (icond (field f.mod.toNat 3 3) (readT t (val v 0)) (immT t f.imm)), 0)) }

/-- SETPI (R151). -/
def execSetpi (f : F96I) (s : State) : Out := runLane (setpiOp f) s

/-- Predicate logic on selectors (R153). -/
def predOp (f : F64) (two : Bool) (g : Bool → Bool → Bool) : LaneOp :=
  { h := f.h, srcs := if two then [(.sel, f.s1), (.sel, f.s2)] else [(.sel, f.s1)], k := 1, len := 8
    f := ownLane (fun v => (ofBool (g (val v 0 == 1) (val v 1 == 1)), 0)) }

/-- PAND (R153). -/
def execPand (f : F64) (s : State) : Out := runLane (predOp f true (fun a b => a && b)) s
/-- POR (R153). -/
def execPor (f : F64) (s : State) : Out := runLane (predOp f true (fun a b => a || b)) s
/-- PXOR (R153). -/
def execPxor (f : F64) (s : State) : Out := runLane (predOp f true (fun a b => a != b)) s
/-- PNOT (R153). -/
def execPnot (f : F64) (s : State) : Out := runLane (predOp f false (fun a _ => !a)) s

/-! ### Flags and index registers (R154, R155) -/

/-- FLCLR as a lane instruction: the flags before are the special value 211, then m's bits are cleared (R154). -/
def flclrOp (f : F64) : LaneOp :=
  { h := f.h, srcs := [(.w32, f.s1), (.w32, { code := 211, last := 0, pat := 0, parm := 0 })], k := 1, len := 8
    f := ownLane (fun v => (val v 1, 0)), post := fun v t => t.clearFlags (val v 0) }

/-- FLCLR (R154). -/
def execFlclr (f : F64) (s : State) : Out := runLane (flclrOp f) s

/-- The new index register of IXSET (R155). -/
def ixNew (f : F96T) (a old : Nat) : Nat :=
  let x := if bit f.mod.toNat 0 then setField (setField old 0 7 (field f.xm.toNat 0 7)) 7 7 (field f.xm.toNat 7 7) else old
  match field f.mod.toNat 1 2 with
  | 1 => setField x 16 16 a
  | 2 => setField x 16 16 ((field x 16 16 + a % 2 ^ 16) % 2 ^ 16)
  | _ => x

/-- IXSET writes its index register from its old value (R155). -/
def ixsetOp (f : F96T) : LaneOp :=
  { h := { f.h with dst := 255 }, srcs := if field f.mod.toNat 1 2 == 0 then [] else [(.w32, f.s1)], k := 1, len := 12
    f := ownLane (fun _ => (0, 0))
    post := fun v t =>
      let n := f.h.dst.toNat - 208
      { t with idx := t.idx.set n (BitVec.ofNat 32 (ixNew f (val v 0) ((t.idx[n]?).getD 0).toNat)) } }

/-- IXSET (R155). -/
def execIxset (f : F96T) (s : State) : Out := runLane (ixsetOp f) s

end Sys2Proof.Machine
end

