-- ==== Sys2Proof/Machine/Translate.lean ====
section
/-! DEFINITION. Addresses: generic decoding (04 R78), physical layout (17 R332, R382), worlds (13 R249), page tables, walks,
checks, TLBs, prediction (15 R293 to R303), power (20 R378). -/
namespace Sys2Proof.Machine

/-! ### Physical layout -/

/-- The partition that holds a physical address, with the granule of it (R332). -/
def State.partAt (s : State) (pa : Nat) : Option (Part × Nat) :=
  match s.pkg.parts.find? (fun p => p.base ≤ pa && pa < p.base + p.granules * 65536) with
  | some p => some (p, (pa - p.base) / 65536)
  | none => none

/-- Granule n of a table: its tower, and its place in 64 KiB granules above the start of the share (R332). -/
def granuleAt (tab : List Nat) (n : Nat) : Nat × Nat :=
  let t := (tab[n % 64]?).getD 0
  let c := (tab.filter (· == t)).length
  let r := ((tab.take (n % 64)).filter (· == t)).length
  (t, n / 64 * c + r)

def State.tower (s : State) (t : Nat) : Tower := (s.pkg.towers.find? (fun x => x.num == t)).getD (Tower.reset t)

/-- Tower and tower offset of a physical address. -/
def State.towerAt (s : State) (pa : Nat) : Option (Nat × Nat) :=
  match s.partAt pa with
  | none => none
  | some (p, n) => let g := granuleAt p.itab n; some (g.1, g.2 * 65536 + pa % 65536)

/-- The stack that carries a tower: two towers on each base die (R2). -/
def stackOfTower (t : Nat) : Nat := t / 2

/-- The home stack of a physical address. -/
def State.homeStack (s : State) (pa : Nat) : Option Nat := (s.towerAt pa).map (fun x => stackOfTower x.1)

/-- World of a physical byte: the bit of its 1 GiB granule (R248). -/
def State.worldAt (s : State) (pa : Nat) : Bool :=
  match s.towerAt pa with
  | none => false
  | some (t, o) => bit (s.tower t).wmask (o / 2 ^ 30)

/-- First tower offset of the tensor share: F(t) (R95). -/
def State.flatShare (s : State) (t : Nat) : Nat := Config.towerGranules * 65536 - (s.tower t).tsh * 2 ^ 30

/-- Tower and tower offset of a tensor offset of a partition (R382). -/
def State.tensorAt (s : State) (p : Part) (off : Nat) : Nat × Nat :=
  let g := granuleAt p.ttab (off / 65536)
  (g.1, s.flatShare g.1 + g.2 * 65536 + off % 65536)

def State.tensorWorld (s : State) (p : Part) (off : Nat) : Bool :=
  let t := s.tensorAt p off
  bit (s.tower t.1).wmask (t.2 / 2 ^ 30)

/-- Whether a stack's base die is switched off (R378). -/
def State.stackOff (s : State) (k : Nat) : Bool := s.pkg.off.contains k

/-- Whether a tower is switched off, by itself or with its stack (R378). -/
def State.towerOff (s : State) (t : Nat) : Bool := (s.tower t).off || s.stackOff (stackOfTower t)

/-- Whether the home of a physical address is switched off (R79). -/
def State.homeOff (s : State) (pa : Nat) : Bool :=
  match s.towerAt pa with
  | some t => s.towerOff t.1
  | none => false

/-- Whether the cache die of a logical die is switched off (R378). -/
def State.dieOff (s : State) (d : Nat) : Bool := s.stackOff (s.physDie d / 2)

/-! ### Generic addresses -/

/-- The spaces of R77 that an address reaches. -/
inductive Space | global | priv | scratch | dscratch | peer (m : Nat)
deriving DecidableEq, Repr

/-- Decode (R78). -/
def decodeAddr (g : Nat) : Except Cause (Space × Nat) :=
  if field g 57 7 != 0 then .error .addrRange
  else if field g 40 17 != 0x1FFFF then .ok (.global, field g 0 57)
  else
    let o := field g 0 32
    match field g 32 8 with
    | 0 => .ok (.scratch, o)
    | 1 => .ok (.priv, o)
    | 2 => .ok (.dscratch, o)
    | 3 => .ok (.peer (o / 2 ^ 19), o % 2 ^ 19)
    | _ => .error .addrWindow

/-! ### Page tables -/

/-- Size of the page of a leaf at a level, and the size of the table at a level (R295). -/
def pageSize (n : Nat) : Nat := if n == 1 then 2 ^ 31 else if n == 2 then 2 ^ 25 else 65536
def tableSize (n : Nat) : Nat := if n == 0 then 131072 else if n == 1 then 131072 else if n == 2 then 1024 else 8192

/-- Index of a virtual address at a level (R295). -/
def vaIndex (n va : Nat) : Nat :=
  if n == 0 then field va 44 13 else if n == 1 then field va 31 13 else if n == 2 then field va 25 6 else field va 16 9

/-- The leaf of an entry of a size (R296). -/
def leafOf (asid : Nat) (secure : Bool) (va size e : Nat) : Leaf :=
  { asid := asid, secure := secure, va := va / size * size, pa := field e 10 42 * 1024, size := size, wr := bit e 2,
    ex := bit e 3, usr := bit e 4, cls := field e 5 2, shr := bit e 7, pin := bit e 8, wld := bit e 9, sfmt := field e 64 4,
    csoff := signed 40 (field e 72 40) }

/-- Reserved bits of a leaf entry (R296). -/
def leafReserved (e : Nat) : Bool := field e 52 12 != 0 || field e 68 4 != 0 || field e 112 16 != 0

/-- Whether a logical die has been declared failed: what it holds can no longer be pushed (R343). -/
def State.dieGone (s : State) (k : Nat) : Bool := s.pkg.dies.any (fun d => d.log == some k && d.failed)

/-- Memory as a read at the home finds it once every cached copy has been recalled, the W bytes of the dies among them (R267, R297). -/
def State.homeRead (s : State) (pa n : Nat) : Nat :=
  let ws := s.store.wsecs.filter (fun w => w.sector / 4 == pa / 1024 && !s.dieGone w.die)
  if ws.isEmpty then s.store.mem.readN pa n
  else
    let byte := fun (a : Nat) => match (ws.reverse.flatMap (·.bytes)).find? (fun c => c.1 == a) with | some c => c.2 | none => s.store.mem.get a
    ofBytes ((List.range n).map (fun k => byte (pa + k)))

/-- The levels of a walk (R297); a level has at most 3 − n below it. -/
def walkFrom (s : State) (asid : Nat) (secure : Bool) (va : Nat) : Nat → Nat → Nat → Except Cause Leaf
  | 0, _, _ => .error .ptInvalid
  | fuel + 1, n, base =>
    let e := s.homeRead (base + 16 * vaIndex n va) 16
    if !bit e 0 then .error .pageAbsent
    else if bit e 1 then
      let l := leafOf asid secure va (pageSize n) e
      if leafReserved e then .error .ptInvalid
      else if n == 0 then .error .ptInvalid
      else if l.pa % l.size != 0 then .error .ptInvalid
      else if !(s.pkg.parts.any (fun p => l.pa < p.base + p.granules * 65536)) then .error .ptInvalid
      else .ok l
    else
      let base := field e 10 42 * 1024
      if n == 3 || base % tableSize (n + 1) != 0 then .error .ptInvalid
      else walkFrom s asid secure va fuel (n + 1) base

/-- Walk (R294, R297). -/
def walk (s : State) (asid : Nat) (secure : Bool) (va : Nat) : Except Cause Leaf :=
  let a := s.homeRead (s.pkg.atb * 2 ^ 20 + 16 * asid) 16
  if !bit a 0 || bit a 1 != secure then .error .ptInvalid
  else walkFrom s asid secure va 4 0 (field a 17 35 * 131072)

/-- Addresses of the entries that the levels of a walk read. -/
def walkTrail (s : State) (va : Nat) : Nat → Nat → Nat → List Nat
  | 0, _, _ => []
  | fuel + 1, n, base =>
    let a := base + 16 * vaIndex n va
    let e := s.homeRead a 16
    a :: if !bit e 0 || bit e 1 || n == 3 then [] else walkTrail s va fuel (n + 1) (field e 10 42 * 1024)

/-- Addresses of the entries that a walk reads, the ASID table's first. -/
def State.walkReads (s : State) (asid va : Nat) : List Nat :=
  let a := s.pkg.atb * 2 ^ 20 + 16 * asid
  a :: walkTrail s va 4 0 (field (s.homeRead a 16) 17 35 * 131072)

/-! ### TLBs -/

/-- Whether a leaf maps an address of an ASID and world (R300). -/
def Leaf.maps (l : Leaf) (asid : Nat) (secure : Bool) (va : Nat) : Bool :=
  l.asid == asid && l.secure == secure && l.va ≤ va && va < l.va + l.size

def State.coreLeaf (s : State) (core asid : Nat) (secure : Bool) (va : Nat) : Option Leaf :=
  (s.store.coreTlb.find? (fun e => e.1 == core && e.2.maps asid secure va)).map (·.2)

def State.llLeaf (s : State) (die asid : Nat) (secure : Bool) (va : Nat) : Option Leaf :=
  (s.store.llTlb.find? (fun e => e.1 == die && e.2.maps asid secure va)).map (·.2)

/-- Put an entry at the head of a TLB and keep at most n of its unit: the least recently used goes (R300). -/
def tlbFill (n : Nat) (l : List (Nat × Leaf)) (unit : Nat) (e : Leaf) : List (Nat × Leaf) :=
  let mine := ((unit, e) :: l.filter (fun x => x.1 == unit && x.2 != e)).take n
  mine ++ l.filter (fun x => x.1 != unit)

def State.fillCore (s : State) (core : Nat) (e : Leaf) : State :=
  { s with store := { s.store with coreTlb := tlbFill Config.coreTlb s.store.coreTlb core e } }

def State.fillLl (s : State) (die : Nat) (e : Leaf) : State :=
  { s with store := { s.store with llTlb := tlbFill Config.llTlb s.store.llTlb die e } }

/-- The predictor's proposal for an address (R303). -/
def State.predict (s : State) (core asid : Nat) (secure : Bool) (va : Nat) : Option Leaf :=
  let near := fun (l : Leaf) => l.asid == asid && l.secure == secure &&
    (l.va + l.size ≤ va && va < l.va + 2 * l.size || va < l.va && l.va ≤ va + l.size)
  match s.store.coreTlb.find? (fun e => e.1 == core && near e.2) with
  | none => none
  | some (_, l) =>
    if va < l.va then (if l.pa < l.size then none else some { l with va := l.va - l.size, pa := l.pa - l.size })
    else if l.pa + 2 * l.size > 2 ^ 52 then none
    else some { l with va := l.va + l.size, pa := l.pa + l.size }

/-- A lookup that hits makes its entry the most recently used (R300). -/
def tlbUse (l : List (Nat × Leaf)) (unit : Nat) (p : Leaf → Bool) : List (Nat × Leaf) :=
  match l.find? (fun e => e.1 == unit && p e.2) with
  | some e => e :: l.filter (· != e)
  | none => l

/-- Translation by an engine: the last-level TLB of the issuing core's die, then a walk (R300). -/
def State.engineLeaf (s : State) (core asid : Nat) (secure : Bool) (va : Nat) : Except Cause Leaf :=
  match s.llLeaf (dieOf core) asid secure va with
  | some l => .ok l
  | none => walk s asid secure va

/-! ### Checks -/

/-- What an access does to a page. -/
inductive Want | read | write | fetch | hint
deriving DecidableEq, Repr

/-- The checks of R298 up to order 2; `level` is 0 for U. -/
def State.leafFault (s : State) (l : Leaf) (secure : Bool) (level pa : Nat) (w : Want) : Option Cause :=
  if l.wld != s.worldAt pa || l.wld && !secure then some .worldFault
  else if level == 0 && !l.usr then some .pageProt
  else if w == .write && !l.wr || w == .fetch && !l.ex then some .pageProt
  else none

/-- The result of a translation for a thread: a physical address with its leaf, a lookup to wait for, a fault. -/
inductive Xlate
  | ok (pa : Nat) (l : Leaf)
  | miss (va : Nat)
  | fault (c : Cause)
deriving DecidableEq, Repr

/-- What the core TLB of a thread gives for a page, or what a lookup that has ended gave (R300). -/
inductive LeafRes
  | ok (l : Leaf)
  | miss
  | failed (c : Cause)
deriving DecidableEq, Repr

def State.leafRes (s : State) (c : Crew) (va : Nat) : LeafRes :=
  match s.coreLeaf c.core c.asid c.secure va with
  | some l => .ok l
  | none =>
    match s.store.lookups.find? (fun q => q.core == c.core && q.asid == c.asid && q.secure == c.secure && q.va == va / 65536 * 65536
        && q.failed.isSome && q.waiters.contains (c.team, c.id)) with
    | some q => .failed (q.failed.getD .pageAbsent)
    | none => .miss

/-- Translation of one virtual address for a thread of a crew, with the checks of R298 up to order 2. -/
def State.xlate (s : State) (c : Crew) (va : Nat) (w : Want) : Xlate :=
  match s.leafRes c va with
  | .miss => .miss va
  | .failed k => .fault k
  | .ok l =>
    let pa := l.pa + (va - l.va)
    match s.leafFault l c.secure (s.teamOf c).level pa w with
    | some k => .fault k
    | none => .ok pa l

/-- A crew asks for the 64 KiB page of an address: it joins the lookup in progress, or begins one (R300, R303). -/
def State.lookup (s : State) (c : Crew) (va : Nat) : State :=
  let v := va / 65536 * 65536
  let me := (c.team, c.id)
  let same := fun (q : Lookup) => q.core == c.core && q.asid == c.asid && q.secure == c.secure && q.va == v && q.failed.isNone
  if s.store.lookups.any same then
    { s with store := { s.store with lookups := s.store.lookups.map (fun q =>
      if same q && !q.waiters.contains me then { q with waiters := q.waiters ++ [me] } else q) } }
  else { s with store := { s.store with lookups := s.store.lookups ++
      [{ core := c.core, asid := c.asid, secure := c.secure, va := v, walking := false,
         guess := s.predict c.core c.asid c.secure va, failed := none, waiters := [me] }] } }

/-- Whether the lookup of a page in progress has a proposal of the predictor (R303). -/
def State.guessed (s : State) (c : Crew) (va : Nat) : Bool :=
  s.store.lookups.any (fun q => q.core == c.core && q.asid == c.asid && q.secure == c.secure && q.va == va / 65536 * 65536
    && q.failed.isNone && q.guess.isSome)

/-- The translations of a crew as they would be if some pages were absent: what accesses held on a prediction range over (R124, R303). -/
def State.asAbsent (s : State) (c : Crew) (vas : List Nat) : State :=
  { s with store := { s.store with lookups := vas.map (fun va =>
      { core := c.core, asid := c.asid, secure := c.secure, va := va / 65536 * 65536, walking := false, guess := none
        failed := some .pageAbsent, waiters := [(c.team, c.id)] }) } }

/-- The core TLB entries that an instruction's lookups hit are used, each page once in ascending order (R300, R302). -/
def State.tlbHits (s : State) (c : Crew) (vas : List Nat) : State :=
  (inOrder (fun (a b : Nat) => decide (a ≤ b)) vas).foldl (fun s va =>
    { s with store := { s.store with coreTlb := tlbUse s.store.coreTlb c.core (fun l => l.maps c.asid c.secure va) } }) s

/-- A crew has taken the faults that its lookups returned: its later accesses look up again. A lookup goes once every crew that waited for
it has taken its fault (R309). -/
def State.dropFailed (s : State) (c : Crew) : State :=
  { s with store := { s.store with lookups := s.store.lookups.filterMap (fun q =>
      if q.failed.isSome && q.core == c.core && q.asid == c.asid then
        (if q.waiters.any (· != (c.team, c.id)) then some { q with waiters := q.waiters.filter (· != (c.team, c.id)) } else none)
      else some q) } }

/-- Translation with PIN = 1 required: percolator, save engine, command processor (R301). -/
def State.pinned (s : State) (core asid : Nat) (secure : Bool) (va : Nat) (w : Want) : Except Cause Nat :=
  match s.engineLeaf core asid secure va with
  | .error _ => .error .pinFault
  | .ok l =>
    let pa := l.pa + (va - l.va)
    if !l.pin || (s.leafFault l secure 1 pa w).isSome then .error .pinFault else .ok pa

/-- First ASID of a context: spill areas, fault tables, rings (R311, log 13). -/
def Ctx.abase (x : Ctx) : Nat := field x.asids.toNat 0 16

/-! ### Private windows -/

/-- Virtual address of offset o of a lane's private window: by teamid (R277, R293); inside a gate call by PSN (R167, R282). -/
def Crew.privVa (c : Crew) (t : Team) (lane o : Nat) : Nat :=
  if c.frames.isEmpty then c.privBase + c.privSize * (32 * t.crews * t.teamid + 32 * c.id + lane) + o
  else c.privBase + c.privSize * (512 * t.slot + 32 * c.id + lane) + o

/-- The private backing of a crew at each of its gate levels, innermost first: ASID, world, first byte, bytes of a thread. -/
def Crew.backings (c : Crew) (t : Team) : List (Nat × Bool × Nat × Nat) :=
  ((c.asid, c.secure, c.privBase, c.privSize) :: c.frames.map (fun f => (f.asid, f.secure, f.privBase, f.privSize))).mapIdx (fun k x =>
    (x.1, x.2.1, x.2.2.1 + x.2.2.2 * ((if k == c.frames.length then 32 * t.crews * t.teamid else 512 * t.slot) + 32 * c.id), x.2.2.2))

/-- Whether n bytes of physical memory hold part of a handle table or of a gate table (R266, R267, log 96). -/
def State.tableAt (s : State) (pa n : Nat) : Bool :=
  s.ctxs.any (fun y => let b := field y.htab.toNat 0 46 * 64
                       decide (b < pa + n) && decide (pa < b + 64 * Nat.min 65536 (field y.htab.toNat 46 17)))
    || s.gates.any (fun g => decide (g.pa < pa + n) && decide (pa < g.pa + 32))
    || (s.gtables.map (·.2) ++ (s.teams ++ s.cp.launches.map (·.team)).map (fun t => (t.gtab, t.gcnt))).any (fun t =>
      decide (t.1 < pa + n) && decide (pa < t.1 + 32 * t.2))

/-- The same for the percolator and the save engine, which do not reach the memory of a table (R266, log 96). -/
def State.pinnedOff (s : State) (core asid : Nat) (secure : Bool) (va n : Nat) (w : Want) : Except Cause Nat :=
  match s.pinned core asid secure va w with
  | .error e => .error e
  | .ok pa => if s.tableAt pa n then .error .pinFault else .ok pa

/-- Whether n bytes at a virtual address lie in a spill area of the context, or in the private memory of a thread other than a lane of a
crew: no generic address reaches them (R80). -/
def State.fenced (s : State) (c : Crew) (lane va n : Nat) : Bool :=
  let ctx := (s.teamOf c).ctx
  let hit := fun (lo len : Nat) => decide (va < lo + len) && decide (lo < va + n)
  let own := fun (lo len : Nat) => decide (lo ≤ va) && decide (va + n ≤ lo + len)
  let priv := fun (k : Crew) (t : Team) => t.ctx == ctx && (k.backings t).any (fun b => b.1 == c.asid && b.2.1 == c.secure
    && hit b.2.2.1 (32 * b.2.2.2) && !(k.team == c.team && k.id == c.id && own (b.2.2.1 + b.2.2.2 * lane) b.2.2.2))
  let spill := fun (t : Team) => t.ctx == ctx && c.asid == (s.ctxOf ctx).abase && c.secure == (s.ctxOf ctx).secure
    && hit t.spb (1310720 * t.tslots)
  s.crews.any (fun k => priv k (s.teamOf k)) || s.saved.any (fun v => spill v.team || v.crews.any (fun k => priv k v.team)) || s.teams.any spill

end Sys2Proof.Machine
end

