-- ==== Sys2Proof/Machine/Cache.lean ====
section
/-! DEFINITION. Where bytes are read and written: W sectors and their pushes (05 R109, 17 R336), caches and their states (04
R82, R87 to R89, 17 R333, R334), the other spaces, poison (16 R321, R325). -/
namespace Sys2Proof.Machine

/-! ### W sectors -/

/-- Byte of physical memory as a die sees it: its own W bytes over the package's (R107, R109). -/
def State.byteAt (s : State) (die pa : Nat) : Byte :=
  match s.store.wsecs.find? (fun w => w.die == die && w.sector == pa / 256) with
  | some w => match w.bytes.find? (fun c => c.1 == pa) with | some c => c.2 | none => s.store.mem.get pa
  | none => s.store.mem.get pa

/-- Set a sector of a die's line to a state. -/
def L2Line.setSec (l : L2Line) (k : Nat) (st : LState) : L2Line := { l with sts := l.sts.set k st }

/-- Change the sector states of one line in the dies that meet a condition; a line with no valid sector goes. -/
def State.modSec (s : State) (pa : Nat) (p : Nat → Bool) (f : LState → LState) : State :=
  let l2 := s.store.l2.map (fun (l : L2Line) => if l.line == pa / 1024 && p l.die then
    l.setSec (pa / 256 % 4) (f ((l.sts[pa / 256 % 4]?).getD LState.i)) else l)
  { s with store := { s.store with l2 := l2.filter (fun l => l.sts.any (· != LState.i)) } }

/-- The L1 copies of a line are invalidated (R335). -/
def State.dropL1 (s : State) (pa : Nat) : State :=
  { s with store := { s.store with l1 := s.store.l1.filter (fun x => x.line != pa / 1024) } }

/-- A sector whose every byte has been written loses its poison (R125). -/
def State.clearPoison (s : State) (sector : Nat) : State :=
  { s with store := { s.store with poison := s.store.poison.filter (· != sector) } }

/-- The same of a sector of tensor space. -/
def State.clearTensor (s : State) (p sector : Nat) : State :=
  { s with store := { s.store with tpoison := s.store.tpoison.filter (· != (p, sector)) } }

/-- Codewords whose every byte has been written have new check bits (R324); one that is written in part keeps its error (DESIGN CHOICE,
log 106). -/
def State.recode (s : State) (p : Option Nat) (whole : Nat → Bool) : State :=
  { s with store := { s.store with upsets := s.store.upsets.filter (fun u => !(u.ten == p && whole u.line)) } }

/-- Codewords that n bytes from an address cover. -/
def codesIn (a n line : Nat) : Bool := decide (a ≤ 64 * line) && decide (64 * line + 64 ≤ a + n)

/-! ### Errors of stored codewords (R324, R325) -/

/-- Count corrected codewords and poisoned sectors or words of a stack; the counts saturate (R326). -/
def State.countErrs (s : State) (stack ce ue : Nat) : State :=
  let top := 2 ^ 32 - 1
  { s with pkg := { s.pkg with errs := s.pkg.errs.modify stack (fun e => (Nat.min top (e.1 + ce), Nat.min top (e.2 + ue))) } }

/-- The stack that counts the errors of a codeword. -/
def State.upsetStack (s : State) (u : Upset) : Nat :=
  match u.ten with
  | none => (s.homeStack (64 * u.line)).getD 0
  | some p => match s.pkg.parts.find? (fun q => q.num == p) with | some q => stackOfTower (s.tensorAt q (64 * u.line)).1 | none => 0

/-- Whether a codeword holds one of the n bytes at a location. -/
def Upset.at (u : Upset) (l : Loc) (n : Nat) : Bool :=
  match l with
  | .phys pa => u.ten.isNone && pa / 64 ≤ u.line && u.line ≤ (pa + n - 1) / 64
  | .ten p o => u.ten == some p && o / 64 ≤ u.line && u.line ≤ (o + n - 1) / 64
  | _ => false

/-- Whether the sector of a codeword is poisoned. -/
def State.upsetKnown (s : State) (u : Upset) : Bool :=
  match u.ten with | none => s.store.poison.contains (u.line / 4) | some p => s.store.tpoison.contains (p, u.line / 4)

/-- A codeword with an error is met: corrected where it is kept, or its sector is poisoned; the stack counts the codeword corrected, or the
sector where it was not poisoned yet (R325, R326). -/
def State.meet (s : State) (u : Upset) : State :=
  let s := { s with store := { s.store with upsets := s.store.upsets.filter (· != u) } }
  if !u.bad then s.countErrs (s.upsetStack u) 1 0
  else if s.upsetKnown u then s
  else
    let s := s.countErrs (s.upsetStack u) 0 1
    match u.ten with
    | none => { s with store := { s.store with poison := u.line / 4 :: s.store.poison } }
    | some p => { s with store := { s.store with tpoison := (p, u.line / 4) :: s.store.tpoison } }

/-- The check of the codewords that hold n bytes, by what consumes them: a core, a copy engine, the fetcher (R324). -/
def State.check (s : State) (l : Loc) (n : Nat) : State := (s.store.upsets.filter (fun u => u.at l n)).foldl State.meet s

/-- Whether the n bytes at a location lie in a codeword that cannot be corrected. -/
def State.upsetAt (s : State) (l : Loc) (n : Nat) : Bool := s.store.upsets.any (fun u => u.bad && u.at l n)

/-- Push one W sector: the home merges its bytes in the order received, clears the registration, and every other copy goes;
a sector written whole loses its poison, a codeword written whole has new check bits (R109, R125, R324, R336). -/
def State.push (s : State) (w : WSec) : State :=
  let pa := w.sector * 256
  let mem := w.bytes.foldl (fun m c => m.set c.1 c.2) s.store.mem
  let ws := s.store.wsecs.filter (fun x => !(x.die == w.die && x.sector == w.sector))
  let s := { s with store := { s.store with mem := mem, wsecs := ws } }
  let s := if w.bytes.length ≥ 256 then s.clearPoison w.sector else s
  let s := s.recode none (fun line => (List.range 64).all (fun j => w.bytes.any (fun c => c.1 == 64 * line + j)))
  ((s.modSec pa (fun d => d == w.die) (fun x => if x == LState.w then LState.i else x)).modSec pa (fun d => d != w.die)
    (fun x => if x == LState.w then LState.w else LState.i)).dropL1 pa

/-- Push the W sectors that meet a condition (R109). -/
def State.pushIf (s : State) (p : WSec → Bool) : State := (s.store.wsecs.filter (fun w => p w && !s.dieGone w.die)).foldl State.push s

/-- A release at `.stk` or wider pushes every W sector of its die (R109). -/
def State.pushDie (s : State) (die : Nat) : State := s.pushIf (fun w => w.die == die)

/-! ### Cache lines -/

/-- The slice of a line (R333). -/
def sliceOf (pa seed : Nat) : Nat :=
  let v := xorNat (field pa 16 36) seed
  xorNat (field pa 10 6) (xorNat (xorNat (xorNat (field v 0 6) (field v 6 6)) (xorNat (field v 12 6) (field v 18 6)))
    (xorNat (field v 24 6) (field v 30 6)))

/-- Scratch ways of a context on a die (R90). -/
def Ctx.ways (x : Ctx) (die : Nat) : Nat := match x.split.find? (fun p => p.1 == die) with | some p => p.2 | none => 0

/-- The quota of a class (R89). -/
def Ctx.quota (x : Ctx) (cls : Nat) : Nat := Nat.min 12 (field x.wayq.toNat (4 * cls) 4)

def Ctx.seedFor (x : Ctx) (shr : Bool) : Nat := if shr then 0 else x.seed.toNat

/-- Ways of every slice of a die that hold no die scratch (R89, R91): where contexts have different splits the largest decides (DESIGN
CHOICE, log 116). -/
def State.cacheWays (s : State) (die : Nat) : Nat := Config.l2Ways - (s.ctxs.map (fun x => x.ways die)).foldl Nat.max 0

/-- Whether two lines of a die's L2 lie in one set. -/
def sameSet (s : State) (a b : L2Line) : Bool :=
  let sa := (s.ctxOf a.ctx).seedFor a.shr
  let sb := (s.ctxOf b.ctx).seedFor b.shr
  a.die == b.die && sliceOf (a.line * 1024) sa == sliceOf (b.line * 1024) sb
    && Config.l2Set a.line sa % Config.l2Sets == Config.l2Set b.line sb % Config.l2Sets

/-- The victim rule of R87 on the (way, V) of the candidates: what is added to each V, and the way chosen, the lowest of those that come
to 7. -/
def rrVictim (vs : List (Nat × Nat)) : Nat × Nat :=
  let d := 7 - (vs.map (·.2)).foldl Nat.max 0
  (d, ((vs.filter (fun x => x.2 + d == 7)).map (·.1)).foldl Nat.min 16)

/-- The lowest way of n that is not in use. -/
def freeWay (used : List Nat) (n : Nat) : Option Nat := (List.range n).find? (fun w => !used.contains w)

/-- Whether a home keeps a line, a granule whole. -/
structure LlcKey where
  stack : Nat
  part : Part
  ten : Bool
  line : Nat
  sec : Nat

/-- Where the last-level cache of a location's home keeps it (R77, R382). -/
def State.llcKey (s : State) (l : Loc) : Option LlcKey :=
  match l with
  | .phys pa =>
    match s.homeStack pa, s.partAt pa with
    | some k, some (p, _) => some { stack := k, part := p, ten := false, line := pa / 1024, sec := pa / 256 % 4 }
    | _, _ => none
  | .ten n o => (s.pkg.parts.find? (fun p => p.num == n)).map (fun p =>
      { stack := stackOfTower (s.tensorAt p o).1, part := p, ten := true, line := o / 1024, sec := o / 256 % 4 })
  | _ => none

/-- Whether a partition of one die shares its base die's last-level cache with another (R250). -/
def State.sharesLlc (s : State) (p : Part) : Bool :=
  p.log2 == 0 && s.pkg.parts.any (fun q => q.num != p.num && q.log2 == 0 && q.first / 2 == p.first / 2)

/-- Hit or fill a sector in the last-level cache of its home (R82, R87, R250); a write leaves it dirty. -/
def State.touchLlc (s : State) (ctx : Nat) (l : Loc) (rd : Nat) (write : Bool) : State :=
  match s.llcKey l with
  | none => s
  | some q =>
    let is := fun (x : LlcLine) => x.stack == q.stack && x.ten == q.ten && x.line == q.line && x.part == q.part.num
    let mark := fun (sts : List LState) => sts.modify q.sec (fun x => if write then LState.m else if x == LState.i then LState.e else x)
    if s.store.llc.any is then
      { s with store := { s.store with llc := s.store.llc.map (fun x => if is x then { x with v := Nat.min x.v rd, sts := mark x.sts } else x) } }
    else
      let ways := if s.sharesLlc q.part then Config.llcWays / 2 else Config.llcWays
      let near := fun (x : LlcLine) => x.stack == q.stack && x.part == q.part.num
        && Config.llcSet x.ten x.line % Config.llcSets == Config.llcSet q.ten q.line % Config.llcSets
      let fill := fun (way : Nat) => ({ stack := q.stack, way := way, line := q.line, ten := q.ten, ctx := ctx, part := q.part.num, v := rd
                                        sts := mark (List.replicate 4 LState.i) } : LlcLine)
      let set := s.store.llc.filter near
      match freeWay (set.map (·.way)) ways with
      | some w => { s with store := { s.store with llc := s.store.llc ++ [fill w] } }
      | none =>
        let (d, w) := rrVictim (set.map (fun x => (x.way, x.v)))
        { s with store := { s.store with llc := (s.store.llc.filterMap (fun x => if !near x then some x
            else if x.way == w then none else some { x with v := x.v + d })) ++ [fill w] } }

/-- A line leaves a die's L2: its W sectors are pushed, its dirty sectors are written back to its home, each an access with no reuse
distance (R87, R109, R334). -/
def State.evictL2 (s : State) (x : L2Line) : State :=
  let s := s.pushIf (fun w => w.die == x.die && w.sector / 4 == x.line)
  let s := { s with store := { s.store with l2 := s.store.l2.filter (fun y => !(y.die == x.die && y.line == x.line)) } }
  (List.range 4).foldl (fun s k =>
    let st := (x.sts[k]?).getD LState.i
    if st == LState.m || st == LState.o then s.touchLlc x.ctx (.phys (1024 * x.line + 256 * k)) 2 true else s) s

/-- Fill a line of a die's L2 under quotas and R87 (R89): none where the class has no way. -/
def State.fillL2 (s : State) (x : L2Line) : Option State :=
  let q := (s.ctxOf x.ctx).quota x.cls
  let n := s.cacheWays x.die
  let slice := fun (y : L2Line) => sliceOf (y.line * 1024) ((s.ctxOf y.ctx).seedFor y.shr)
  let set := s.store.l2.filter (fun y => y.die == x.die && slice y == slice x && sameSet s x y)
  let cls := set.filter (fun y => y.ctx == x.ctx && y.cls == x.cls)
  let put := fun (s : State) (w : Nat) => ({ s with store := { s.store with l2 := s.store.l2 ++ [{ x with way := w }] } } : State)
  let replace := fun (cand : List L2Line) =>
    let (d, w) := rrVictim (cand.map (fun y => (y.way, y.v)))
    let s : State := { s with store := { s.store with l2 := s.store.l2.map (fun y => if cand.contains y then { y with v := y.v + d } else y) } }
    match cand.find? (fun y => y.way == w) with
    | some y => put (s.evictL2 y) w
    | none => s
  if q == 0 || n == 0 then none
  else if cls.length ≥ Nat.min q n then some (replace cls)
  else match freeWay (set.map (·.way)) n with
    | some w => some (put s w)
    | none => some (replace set)

/-- What a fill needs to know of its page and its issuer. -/
structure Fill where
  core : Nat
  ctx : Nat
  cls : Nat
  shr : Bool
  rd : Nat

/-- Put a sector of a line in a state in the L2 of the filler's die: a line that is there is hit, another is filled (R87, R89). None where
the class has no way. -/
def State.holdL2 (s : State) (f : Fill) (pa : Nat) (st : LState) : Option State :=
  let die := dieOf f.core
  let is := fun (l : L2Line) => l.die == die && l.line == pa / 1024
  if s.store.l2.any is then
    some { s with store := { s.store with l2 := s.store.l2.map (fun (l : L2Line) =>
      if is l then { (l.setSec (pa / 256 % 4) st) with v := Nat.min l.v f.rd } else l) } }
  else s.fillL2 { die := die, way := 0, line := pa / 1024, ctx := f.ctx, cls := f.cls, shr := f.shr, v := f.rd
                  sts := (List.replicate 4 LState.i).set (pa / 256 % 4) st }

/-- Put a sector in a core's L1: a full L1 gives up a line (R2, R82). -/
def State.fillL1 (s : State) (f : Fill) (pa : Nat) : State :=
  let is := fun (x : L1Line) => x.core == f.core && x.line == pa / 1024
  let l1 := s.store.l1
  let mine := l1.filter (fun x => x.core == f.core)
  let l1 :=
    if l1.any is then l1.map (fun x => if is x then { x with secs := x.secs.set (pa / 256 % 4) true } else x)
    else
      let keep := if mine.length < Config.l1Lines then l1
        else match mine[Config.l1Victim f.core (pa / 1024) s.cycle % Config.l1Lines]? with
          | some x => l1.filter (· != x)
          | none => l1
      { core := f.core, line := pa / 1024, ctx := f.ctx, secs := (List.replicate 4 false).set (pa / 256 % 4) true } :: keep
  { s with store := { s.store with l1 := l1 } }

/-- A read that the L1 does not serve (R82, R87, R334): the die's L2, and where that misses the home's last-level cache. -/
def State.readL2 (s : State) (f : Fill) (pa : Nat) : State :=
  let die := dieOf f.core
  let k := pa / 256 % 4
  let valid := fun (l : L2Line) => (l.sts[k]?).getD LState.i != LState.i
  match s.store.l2.find? (fun l => l.die == die && l.line == pa / 1024 && valid l) with
  | some l => (s.holdL2 f pa ((l.sts[k]?).getD LState.i)).getD s
  | none =>
    let others := s.store.l2.any (fun l => l.die != die && l.line == pa / 1024 && valid l)
    let st : LState := if s.homeStack pa != some (s.stackOfCore f.core) then .r else if others then .s else .e
    let s := s.modSec pa (fun d => d != die) (fun x => match x with | .m => .o | .e => .s | x => x)
    let s := s.touchLlc f.ctx (.phys pa) f.rd false
    (s.holdL2 f pa st).getD s

/-- A read of a sector through the caches of a core (R82, R87, R88, R334); `lvl` 0 fills to L1, 1 to L2, 2 to the last level. An L1 hit
is served there. -/
def State.cacheRead (s : State) (f : Fill) (lvl pa : Nat) : State :=
  if lvl == 0 && s.store.l1.any (fun x => x.core == f.core && x.line == pa / 1024 && (x.secs[pa / 256 % 4]?).getD false) then s
  else
    let s := if lvl ≤ 1 then s.readL2 f pa else s.touchLlc f.ctx (.phys pa) f.rd false
    if lvl == 0 && f.rd != 7 then s.fillL1 f pa else s

/-- Sectors of a range of addresses. -/
def sectorsOf (pa n : Nat) : List Nat := (List.range ((pa % 256 + n + 255) / 256)).map (fun j => pa / 256 + j)

/-- Who writes and how far the write is seen at once. -/
structure Writer where
  core : Nat
  ctx : Nat
  /-- scope code of R131; a wide write is package-visible -/
  scope : Nat
  /-- class and SHR of the page, reuse distance (R87, R89, R102) -/
  cls : Nat := 0
  shr : Bool := false
  rd : Nat := 2
  /-- a store goes through the L1 of its core and updates the copy there (R334) -/
  thru : Bool := false

def Writer.fill (w : Writer) : Fill := { core := w.core, ctx := w.ctx, cls := w.cls, shr := w.shr, rd := w.rd }

/-- The L1 copies of a line are invalidated, but for the one that the write updates (R334, R335). -/
def State.dropL1For (s : State) (w : Writer) (pa : Nat) : State :=
  { s with store := { s.store with l1 := s.store.l1.filter (fun x => x.line != pa / 1024 || w.thru && x.core == w.core) } }

/-- What a package-visible write to a sector takes before it is performed (R109, R111, R181, R334): every other copy goes; a die whose
stack is the home takes the sector in M, the last-level cache of any other home holds it in M. An agent outside the dies takes nothing. -/
def State.ownSector (s : State) (w : Option Writer) (sector : Nat) : State :=
  let pa := 256 * sector
  let gone := fun (x : LState) => if x == LState.w then LState.w else LState.i
  match w with
  | none => (s.dropL1 pa).modSec pa (fun _ => true) gone
  | some w =>
    let s := s.dropL1For w pa
    if s.homeStack pa == some (s.stackOfCore w.core) then
      let s := s.modSec pa (fun d => d != dieOf w.core) gone
      match s.holdL2 w.fill pa .m with
      | some s => s
      | none => (s.modSec pa (fun _ => true) gone).touchLlc w.ctx (.phys pa) w.rd true
    else (s.modSec pa (fun _ => true) gone).touchLlc w.ctx (.phys pa) w.rd true

/-- What is pushed before a package-visible write to n bytes: the W sectors that other dies hold of the sectors written, the writer's own
where it holds a byte written, and every one of a poisoned sector (R109, R336). -/
def State.pushFor (s : State) (w : Option Writer) (pa n : Nat) : State :=
  let ks := sectorsOf pa n
  let own := fun (x : WSec) => match w with | some w => x.die == dieOf w.core | none => false
  s.pushIf (fun x => ks.contains x.sector && (!own x || x.bytes.any (fun c => pa ≤ c.1 && c.1 < pa + n) || s.store.poison.contains x.sector))

/-- A package-visible write of bytes (R109, R334): W sectors are pushed first; a codeword written whole has new check bits (R324). -/
def State.pkgWrite (s : State) (w : Option Writer) (pa : Nat) (data : List Byte) : State :=
  let s := s.pushFor w pa data.length
  let s := ((sectorsOf pa data.length).foldl (fun s k => s.ownSector w k) s).recode none (codesIn pa data.length)
  { s with store := { s.store with mem := s.store.mem.putBytes pa data } }

/-- Enter bytes in the W sector of the writer's die, creating it where the die has none (R336). A class with no way in L2 has none for a W
sector either: it is pushed at once (log 86). -/
def State.wWrite (s : State) (w : Writer) (pa : Nat) (data : List Byte) : State :=
  let die := dieOf w.core
  let cells := data.mapIdx (fun k b => (pa + k, b))
  let put := fun (l : List Host.Cell) => cells.foldl (fun l c => l.filter (fun x => x.1 != c.1) ++ [c]) l
  let mine := fun (x : WSec) => x.die == die && x.sector == pa / 256
  let s := { s with store := { s.store with l1 := s.store.l1.filter (fun x => !(x.line == pa / 1024 && dieOf x.core == die) || w.thru && x.core == w.core) } }
  let s : State := if s.store.wsecs.any mine then
      { s with store := { s.store with wsecs := s.store.wsecs.map (fun x => if mine x then { x with bytes := put x.bytes } else x) } }
    else { s with store := { s.store with wsecs := s.store.wsecs ++ [{ die := die, sector := pa / 256, ctx := w.ctx, bytes := put [] }] } }
  match s.holdL2 w.fill pa .w with
  | some s => s
  | none => s.pushIf mine

/-! ### Locations -/

/-- A physical agent's reading of memory outside the dies: bytes visible to the package. -/
def State.memRead (s : State) (pa n : Nat) : Nat := s.store.mem.readN pa n

def State.dscrOf (s : State) (ctx die : Nat) : DScr :=
  (s.store.dscr.find? (fun d => d.ctx == ctx && d.die == die)).getD { ctx := ctx, die := die, mem := [], bad := [], lost := [], fresh := [] }

def State.setDscr (s : State) (d : DScr) : State :=
  { s with store := { s.store with dscr := d :: s.store.dscr.filter (fun x => !(x.ctx == d.ctx && x.die == d.die)) } }

def State.tensorOf (s : State) (p : Nat) : Memory := match s.store.tensor.find? (fun t => t.1 == p) with | some t => t.2 | none => []

def State.setTensor (s : State) (p : Nat) (m : Memory) : State :=
  { s with store := { s.store with tensor := (p, m) :: s.store.tensor.filter (fun t => t.1 != p) } }

/-- Bytes of a location as a die sees them. -/
def State.readLoc (s : State) (die : Nat) (l : Loc) (n : Nat) : List Byte :=
  match l with
  | .phys pa => (List.range n).map (fun k => s.byteAt die (pa + k))
  | .scr t o => match s.findTeam t with | some t => t.scr.bytes o n | none => List.replicate n 0
  | .dscr c d o => (s.dscrOf c d).mem.bytes o n
  | .ten p o => (s.tensorOf p).bytes o n

/-- Whether a write goes to a W sector: narrow, to a line homed in another stack (R109). -/
def State.inW (s : State) (w : Writer) (pa : Nat) : Bool :=
  decide (w.scope < 3) && s.homeStack pa != some (s.stackOfCore w.core)

/-- Write bytes to a location. -/
def State.writeLoc (s : State) (w : Writer) (l : Loc) (data : List Byte) : State :=
  match l with
  | .phys pa => if s.inW w pa then s.wWrite w pa data else s.pkgWrite (some w) pa data
  | .scr t o => s.modTeam t (fun t => { t with scr := t.scr.putBytes o data })
  | .dscr c d o => let x := s.dscrOf c d; s.setDscr { x with mem := x.mem.putBytes o data }
  | .ten p o => ((s.touchLlc w.ctx l w.rd true).recode (some p) (codesIn o data.length)).setTensor p ((s.tensorOf p).putBytes o data)

/-- Aligned 8-byte words that a range covers. -/
def wordsOf (o n : Nat) : List Nat := (List.range (n / 8 + 2)).map (fun k => o / 8 + k) |>.filter (fun w => o < 8 * w + 8 && 8 * w < o + n)

/-- Whether an 8-byte word of die scratch is poisoned: by itself, or with the slice that held it (R321, R328). -/
def DScr.poisoned (d : DScr) (w : Nat) : Bool :=
  d.bad.contains w || (d.lost.any (fun x => w / 128 % 64 == x.1 && decide (8 * w < x.2)) && !d.fresh.contains w)

/-- Whether a store that covers part of a sector finds it poisoned: not where W bytes cover it whole, of the writer's die, or of any die for
a write performed at the home, which pushes them first (R109, R125, R321). -/
def State.sectorBad (s : State) (die : Option Nat) (sector : Nat) : Bool :=
  s.store.poison.contains sector && !s.store.wsecs.any (fun w => w.sector == sector && decide (256 ≤ w.bytes.length)
    && match die with | some d => w.die == d | none => true)

/-- Whether a byte of physical memory is poisoned for a die: its own W bytes are not (R109, R125). -/
def State.badByte (s : State) (die pa : Nat) : Bool :=
  (s.store.poison.contains (pa / 256) || s.upsetAt (.phys pa) 1)
    && !s.store.wsecs.any (fun w => w.die == die && w.sector == pa / 256 && w.bytes.any (fun c => c.1 == pa))

/-- Sub-cause of POISON for a read of a location by a die: 1 memory, 3 an array of the core (R310, R321, R325). -/
def State.poisonRead (s : State) (die : Nat) (l : Loc) (n : Nat) : Option Nat :=
  match l with
  | .phys pa => if (s.store.poison.contains (pa / 256) || s.store.poison.contains ((pa + n - 1) / 256) || s.upsetAt l n)
      && (List.range n).any (fun j => s.badByte die (pa + j)) then some 1 else none
  | .scr t o => match s.findTeam t with | some t => if (wordsOf o n).any t.scrBad.contains then some 3 else none | none => none
  | .dscr c d o => if (wordsOf o n).any (s.dscrOf c d).poisoned then some 1 else none
  | .ten p o => if s.store.tpoison.contains (p, o / 256) || s.store.tpoison.contains (p, (o + n - 1) / 256) || s.upsetAt l n then some 1 else none

/-- A package-visible write of an agent outside the dies: sectors that it covers whole lose their poison (R125). -/
def State.agentWrite (s : State) (pa : Nat) (data : List Byte) : State :=
  let s := (((sectorsOf pa data.length).filter (fun k => pa ≤ 256 * k && 256 * k + 256 ≤ pa + data.length))).foldl
    (fun s k => s.clearPoison k) s
  s.pkgWrite none pa data

/-- A package-visible write of the n bytes that a memory gives from 0 up, by an agent outside the dies or an engine of a core. -/
def State.agentPut (s : State) (w : Option Writer) (pa n : Nat) (src : Memory) : State :=
  let ks := sectorsOf pa n
  let s := (ks.filter (fun k => pa ≤ 256 * k && 256 * k + 256 ≤ pa + n)).foldl (fun s k => s.clearPoison k) s
  let s := (s.pushFor none pa n).recode none (codesIn pa n)
  let s := ks.foldl (fun s k => s.ownSector w k) s
  { s with store := { s.store with mem := s.store.mem.paste pa n src } }

/-- A store that covers whole 8-byte words of scratchpad or die scratch clears their poison (R321, R325, log 12). -/
def State.clearWord (s : State) (l : Loc) (n : Nat) : State :=
  let whole := fun (o : Nat) => (wordsOf o n).filter (fun w => o ≤ 8 * w && 8 * w + 8 ≤ o + n)
  match l with
  | .scr t o => s.modTeam t (fun t => { t with scrBad := t.scrBad.filter (fun w => !(whole o).contains w) })
  | .dscr c d o =>
    let x := s.dscrOf c d
    if (whole o).isEmpty then s
    else s.setDscr { x with bad := x.bad.filter (fun w => !(whole o).contains w)
                            fresh := if x.lost.isEmpty then [] else whole o ++ x.fresh.filter (fun w => !(whole o).contains w) }
  | _ => s

/-- Whether two locations of n and m bytes share a byte. -/
def overlap (a : Loc) (n : Nat) (b : Loc) (m : Nat) : Bool :=
  let hit := fun (x y : Nat) => decide (x < y + m) && decide (y < x + n)
  match a, b with
  | .phys x, .phys y => hit x y
  | .scr t x, .scr u y => t == u && hit x y
  | .dscr c d x, .dscr e f y => c == e && d == f && hit x y
  | .ten p x, .ten q y => p == q && hit x y
  | _, _ => false

end Sys2Proof.Machine
end

