-- ==== Sys2Proof/Machine/Held.lean ====
section
/-! DEFINITION. What waits for a line: lines that engines hold in G (05 R117), requests that the fabric holds (17 R342, R343), walks and pinned
pages (13 R267, 15 R297, R300, R301); the writes of the command processor and the save engine that wait for them; the journal (14 R273). -/
namespace Sys2Proof.Machine

/-- Line of a location of flat memory. -/
def Loc.line : Loc → Option Nat
  | .phys pa => some (pa / 1024)
  | _ => none

/-- Whether a copy has still to write a line that it holds in G (R117). -/
def Copy.keeps (c : Copy) (n : Nat) : Bool :=
  c.moves.any (fun m => !m.done && m.dsts.any (fun p => match p with | .at l => l.line == some n | _ => false))

/-- Lines that engines other than one hold in G: what they have still to write (R117, R224). -/
def State.gBut (s : State) (id : Nat) : List Nat :=
  s.copies.flatMap (fun c => if c.granted && c.id != id then c.lines.filter c.keeps else [])
    ++ s.accq.flatMap (fun e => if e.granted && e.id != id then e.lines.filter (fun n =>
      s.accs.any (fun a => a.id == e.id && a.kind == .tile && a.units.any (fun u => !u.done && u.loc.line == some n))) else [])

/-- Every line that an engine holds in G. -/
def State.gLines (s : State) : List Nat := s.gBut s.nextId

/-- Whether an engine other than one holds the line of a unit in G. -/
def State.inG (s : State) (id : Nat) (u : AUnit) : Bool :=
  match u.loc.line with
  | some n => u.size != 0 && (s.gBut id).contains n
  | none => false

/-- Whether an operation on the split or the seed of a context comes first in its order (R262, R263). -/
def State.firstSplit (s : State) (d : Drain) : Bool :=
  !(s.drains.any (fun e => e.ctx == d.ctx && decide (e.id < d.id) && match e.kind with | .split _ _ => true | .seed _ => true | _ => false))

/-- Whether a SEEDSET of a context is in progress: none of its accesses is performed (R103). One that waits for a SPLIT has not begun (R263). -/
def State.frozen (s : State) (ctx : Nat) : Bool :=
  s.drains.any (fun d => d.ctx == ctx && s.firstSplit d && match d.kind with | .seed _ => true | _ => false)

/-- The physical die that holds the stack-directory shard of a stack for a line: PA[10], but for shards that a rebuild has moved (R335,
R343). -/
def Package.shardOf (p : Package) (stack pa : Nat) : Nat :=
  let k := 2 * stack + pa / 1024 % 2
  match p.shardAt.find? (fun x => x.1 == k) with | some x => x.2 | none => k

/-- Whether a logical die has a copy of a line, or W bytes of it. -/
def State.dieHolds (s : State) (die pa : Nat) : Bool :=
  s.store.l2.any (fun l => l.die == die && l.line == pa / 1024) || s.store.wsecs.any (fun w => w.die == die && w.sector / 4 == pa / 1024)

/-- Whether the fabric holds a request for a line, of a die or of an agent outside the dies (none): the shard that would serve it is being
rebuilt, or what a die that is lost held of it is not settled yet (R343), or a copy of it lies in another die whose link is waking (R342). -/
def State.fabricHolds (s : State) (die : Option Nat) (pa : Nat) : Bool :=
  let copy := fun (d : Die) => match d.log with | some k => some k != die && s.dieHolds k pa | none => false
  s.pkg.dies.any (fun d =>
    d.rebuilding && (copy d || s.pkg.shardOf (d.phys / 2) pa == d.phys
        && ((match die with | some k => s.physDie k / 2 == d.phys / 2 | none => false) || s.homeStack pa == some (d.phys / 2)
          || s.pkg.dies.any (fun e => e.phys / 2 == d.phys / 2 && copy e)))
      || d.wakeAge.isSome && copy d)

/-- Whether a range waits: copy engines hold a line of it in G (R117), or the fabric holds a request for one (R342, R343, R378). -/
def State.rangeHeld (s : State) (pa n : Nat) : Bool :=
  s.gLines.any (fun k => decide (pa / 1024 ≤ k) && decide (k ≤ (pa + n - 1) / 1024))
    || s.pkg.dies.any (fun d => d.rebuilding || d.wakeAge.isSome)
      && (List.range ((pa + n - 1) / 1024 + 1 - pa / 1024)).any (fun j => s.fabricHolds none (1024 * (pa / 1024 + j)))

/-- Memory as LDPHYS and STPHYS find it: every cached copy of the line has been recalled (R267). -/
def State.recall (s : State) (pa : Nat) : State :=
  let s := s.pushIf (fun w => w.sector / 4 == pa / 1024)
  { s with store := { s.store with
      l1 := s.store.l1.filter (fun x => x.line != pa / 1024)
      l2 := s.store.l2.filter (fun x => x.line != pa / 1024)
      llc := s.store.llc.filter (fun x => x.ten || x.line != pa / 1024) } }

/-- Whether a walk waits: for an engine that holds a line of its entries in G, or for the fabric (R117, R297, R342, R343). -/
def State.walkHeld (s : State) (asid va : Nat) : Bool :=
  (s.walkReads asid va).any (fun a => s.gLines.contains (a / 1024) || s.fabricHolds none a)

/-- The same of an engine, which looks first in the last-level TLB of its core's die (R300). -/
def State.engineHeld (s : State) (core asid : Nat) (secure : Bool) (va : Nat) : Bool :=
  (s.llLeaf (dieOf core) asid secure va).isNone && s.walkHeld asid va

/-- The reads of a walk recall the cached copies of their lines, as LDPHYS does (R267, R297). -/
def State.walkRecall (s : State) (asid va : Nat) : State := (s.walkReads asid va).foldl (fun s a => (s.recall a).check (.phys a) 16) s

/-- What the last-level TLB keeps of an engine's translations: a hit is used, the leaf of a walk is written (R300). -/
def State.engineUse (s : State) (core asid : Nat) (secure : Bool) (vas : List Nat) : State :=
  vas.foldl (fun s va => match s.llLeaf (dieOf core) asid secure va with
    | some _ => { s with store := { s.store with llTlb := tlbUse s.store.llTlb (dieOf core) (fun l => l.maps asid secure va) } }
    | none =>
      let s1 := s.walkRecall asid va
      match walk s asid secure va with
      | .ok l => s1.fillLl (dieOf core) l
      | .error _ => s1) s

/-- Whether an access to n pinned bytes waits: its walk, or its line (R103, R117, R300, R301). -/
def State.pinHeld (s : State) (core asid : Nat) (secure : Bool) (va n : Nat) (w : Want) : Bool :=
  s.engineHeld core asid secure va || match s.pinned core asid secure va w with | .ok pa => s.rangeHeld pa n | .error _ => false

/-- Whether the fabric holds a push of W sectors of a die (R109, R342, R343). -/
def State.pushHeld (s : State) (die : Nat) (p : WSec → Bool) : Bool :=
  s.store.wsecs.any (fun w => w.die == die && p w && s.fabricHolds (some die) (256 * w.sector))

/-! ### Writes of the command processor and of the save engine -/

/-- The page of an engine's translation, for the class and SHR that its accesses have (R87, R89). -/
def State.engineFill (s : State) (core asid : Nat) (secure : Bool) (va ctx : Nat) : Fill :=
  let l := match s.engineLeaf core asid secure va with | .ok l => l | .error _ => default
  { core := core, ctx := ctx, cls := l.cls, shr := l.shr, rd := 2 }

/-- An engine of a core as a writer: its writes are package-visible and have no reuse distance of their own (R87). -/
def Fill.writer (f : Fill) : Writer := { core := f.core, ctx := f.ctx, scope := 5, cls := f.cls, shr := f.shr, rd := f.rd }

/-- Where the next journal record lies (R273). -/
def State.recordPlace (s : State) : Nat := s.cp.jbase * 4096 + 32 * (s.cp.wseq % s.cp.records)

/-- What a write shares with others that it follows: its line, or the journal. -/
def Posted.key (w : Posted) : Nat × Nat × Nat :=
  match w.place with
  | .at pa => (0, 0, pa / 1024)
  | .pinned _ asid _ va _ => (1, asid, va / 1024)
  | .record _ => (2, 0, 0)

/-- Whether such a write waits: for its walk, its line, or a SEEDSET of its context (R103, R117, R297, R342, R343). -/
def State.postHeld (s : State) (w : Posted) : Bool :=
  match w.place with
  | .at pa => s.rangeHeld pa w.data.length
  | .pinned core asid secure va ctx =>
    (match ctx with | some x => s.frozen x | none => false) || s.pinHeld core asid secure va w.data.length .write
  | .record _ => s.rangeHeld s.recordPlace 32

/-- Perform such a write. Without a pinned page nothing is written (R301). A journal record takes the next sequence number, and WSEQ rises
(R273). -/
def State.performPost (s : State) (w : Posted) : State :=
  match w.place with
  | .at pa => s.agentWrite pa w.data
  | .pinned core asid secure va ctx =>
    let u := s.engineUse core asid secure [va]
    match ctx with
    | none => (match s.pinned core asid secure va .write with | .ok pa => u.agentWrite pa w.data | .error _ => u)
    | some x => (match s.pinnedOff core asid secure va w.data.length .write with
      | .ok pa => u.pkgWrite (some (s.engineFill core asid secure va x).writer) pa w.data
      | .error _ => u)
  | .record v =>
    ({ s with cp := { s.cp with wseq := s.cp.wseq + 1 } } : State).agentWrite s.recordPlace (toBytes 32 (s.cp.wseq % 2 ^ 64 + v))

/-- Make a write: at once, or once what holds it lets it go and those before it to its line are performed (log 120). -/
def State.post (s : State) (w : Posted) : State :=
  if s.store.posted.any (fun x => x.key == w.key) || s.postHeld w then { s with store := { s.store with posted := s.store.posted ++ [w] } }
  else s.performPost w

/-- The writes that wait are performed as far as nothing holds them. -/
def State.flush (s : State) : State :=
  s.store.posted.foldl State.post { s with store := { s.store with posted := [] } }

/-- Append a journal record: KIND, QUEUE, CTXID, NODE and INFO; its write is package-visible (R273, R274, R335). -/
def State.journal (s : State) (kind queue ctx node info : Nat) : State :=
  s.post { place := .record (2 ^ 64 * kind + 2 ^ 72 * (queue % 64) + 2 ^ 80 * (ctx % 4096) + 2 ^ 96 * (node % 2 ^ 32) + 2 ^ 128 * (info % 2 ^ 128))
           data := [] }

end Sys2Proof.Machine
end

