-- ==== Sys2Proof/Machine/Record.lean ====
section
/-! DEFINITION. Record and replay of one launch (18 R357 to R359): clocks, tags, reduction tables, the log. -/
namespace Sys2Proof.Machine

/-- The unit of R358 that an access by a team touches: 1 KiB; none for a team's own scratchpad. -/
def recUnit (serial : Nat) (l : Loc) : Option Loc :=
  match l with
  | .phys pa => some (.phys (pa / 1024 * 1024))
  | .scr t o => if t == serial then none else some (.scr t (o / 1024 * 1024))
  | .dscr c d o => some (.dscr c d (o / 1024 * 1024))
  | .ten p o => some (.ten p (o / 1024 * 1024))

/-- Whether a team belongs to the launch under record (1) or replay (2). -/
def State.recMode (s : State) (t : Team) : Nat :=
  match s.rr.run with
  | some r => if t.ctx == r.ctx && t.node == r.node then r.mode else 0
  | none => 0

/-- Records the log holds (R357). -/
def ReplayRun.size (r : ReplayRun) : Nat := 2 ^ (if 10 ≤ r.llog && r.llog ≤ 28 then r.llog else 10)

/-- The slot of a record, a power of two of them from LBASE on. -/
def ReplayRun.slot (r : ReplayRun) (k : Nat) : Nat := r.lbase + 32 * (k % r.size)

/-- The 32 bytes of a record (R358). -/
def recordBits (a b : Nat × Nat × Nat) : Nat :=
  a.1 % 2 ^ 24 + 2 ^ 24 * (a.2.1 % 512) + 2 ^ 64 * (a.2.2 % 2 ^ 32) + 2 ^ 96 * (b.1 % 2 ^ 24) + 2 ^ 120 * (b.2.1 % 512)
    + 2 ^ 160 * (b.2.2 % 2 ^ 32)

/-- A record read from the log. -/
def recordAt (s : State) (r : ReplayRun) (k : Nat) : (Nat × Nat × Nat) × (Nat × Nat × Nat) :=
  let v := s.store.mem.readN (r.slot k) 32
  ((field v 0 24, field v 24 9, field v 64 32), (field v 96 24, field v 120 9, field v 160 32))

/-- The records that the host has supplied and the log holds (R357). -/
def State.supplied (s : State) (r : ReplayRun) : List ((Nat × Nat × Nat) × (Nat × Nat × Nat)) :=
  (List.range (Nat.min s.rr.lcp r.size)).map (recordAt s r)

/-- The clock of a thread of the launch under record or replay, by teamid and tid. -/
def Replay.clock (r : Replay) (teamid tid : Nat) : Nat :=
  match r.clocks.find? (fun x => x.1 == teamid && x.2.1 == tid) with | some x => x.2.2 | none => 0

/-- Whether every source of an access of a thread has reached its clock: of its next access, or of the j-th after that (R359). -/
def State.replayOk (s : State) (t : Team) (crew lane : Nat) (j : Nat := 0) : Bool :=
  let me := (t.teamid, 32 * crew + lane, (s.rr.clock t.teamid (32 * crew + lane) + 1 + j) % 2 ^ 32)
  match s.rr.run with
  | none => true
  | some r => (s.supplied r).all (fun e => e.2 != me || s.rr.clock e.1.1 e.1.2.1 ≥ e.1.2.2)

/-- The reduction table of a thread, by teamid and tid: it outlasts the thread, whose copies run on (R358). -/
def Replay.tab (r : Replay) (teamid tid : Nat) : List (Nat × Nat × Nat) :=
  match r.tabs.find? (fun x => x.1 == teamid && x.2.1 == tid) with | some x => x.2.2 | none => []

/-- The owner and clock that the record of an access of a thread to a unit would name, if one is needed (R358). -/
def State.recNeed (s : State) (t : Team) (tid : Nat) (u : Loc) : Option (Nat × Nat × Nat) :=
  match s.rr.tags.find? (fun x => x.1 == u) with
  | none => none
  | some (_, oteam, otid, oclk) =>
    if oteam == t.teamid then none
    else if (s.rr.tab t.teamid tid).any (fun e => e.1 == oteam && e.2.1 == otid && e.2.2 ≥ oclk) then none
    else some (oteam, otid, oclk)

/-- Whether an access is one that is recorded (R358). -/
def Acc.recs (a : Acc) : Bool :=
  !a.phys && match a.kind with
    | .load | .store | .atomic | .bar | .binv | .stsig | .push _ _ | .pop | .tile => true
    | .fence | .epi | .copy | .clwb | .clevict => false

/-- Whether some unit of an access is one that is recorded. -/
def Acc.recAny (a : Acc) : Bool := a.recs && a.units.any (fun u => (recUnit a.serial u.loc).isSome)

/-- How an access begins: in replay, a recorded one waits for its sources (R359). -/
def State.holdOf (s : State) (t : Team) (a : Acc) : Hold := if s.recMode t == 2 && a.recAny then .clock else .none

/-- Whether another team's recorded access to a unit has begun and not ended: an access to a unit is one access for R358 and R359, though it
is performed by its aligned 8-byte units. -/
def State.midway (s : State) (serial : Nat) (u : Loc) : Bool :=
  s.accs.any (fun b => b.serial != serial && b.recs && b.hold == .none
    && (match s.findTeam b.serial with | some t => s.recMode t != 0 | none => false)
    && b.units.any (fun v => v.done && recUnit b.serial v.loc == some u) && b.units.any (fun v => !v.done && recUnit b.serial v.loc == some u))

/-- Whether a thread's accesses to some units, one after another, may be performed now as far as record and replay go: in record the log has
room for their records, in replay their sources have reached their clocks (R358, R359). -/
def State.recRoom (s : State) (t : Team) (crew lane : Nat) (us : List Loc) : Bool :=
  match s.recMode t, s.rr.run with
  | 0, _ | _, none => true
  | m, some r =>
    !us.any (s.midway t.serial)
      && if m == 1 then
        let n := (us.filter (fun u => (s.recNeed t (32 * crew + lane) u).isSome)).length
        n == 0 || decide (s.rr.lwp - s.rr.lcp + n ≤ r.size)
      else (List.range us.length).all (fun j => s.replayOk t crew lane j)

/-- Whether unit k of an access is the first of its recorded unit that is performed, and which that is. -/
def Acc.recFirst (a : Acc) (u : AUnit) : Option Loc :=
  match recUnit a.serial u.loc with
  | some w => if a.recs && !(a.units.any (fun v => v.done && recUnit a.serial v.loc == some w)) then some w else none
  | none => none

/-- Whether a unit of an access may be performed now as far as record and replay go. -/
def State.recOk (s : State) (t : Team) (a : Acc) (u : AUnit) : Bool :=
  match a.recFirst u with
  | none => true
  | some w => s.recRoom t a.crew a.lane [w]

/-- The clock, tag and record of a thread's access to a unit (R358); the records consumed (R357). -/
def State.recNote (s : State) (t : Team) (crew lane : Nat) (u : Loc) : State :=
  match s.rr.run with
  | none => s
  | some r =>
    if s.recMode t == 0 then s
    else
      let tid := 32 * crew + lane
      let me := (t.teamid, tid, (s.rr.clock t.teamid tid + 1) % 2 ^ 32)
      let note := fun (s : State) => { s with rr := { s.rr with
        clocks := me :: s.rr.clocks.filter (fun x => !(x.1 == me.1 && x.2.1 == me.2.1))
        tags := (u, me) :: s.rr.tags.filter (fun x => x.1 != u) } }
      if s.recMode t == 1 then
        match s.recNeed t tid u with
        | none => note s
        | some o =>
          let s := s.post { place := .at (r.slot s.rr.lwp), data := toBytes 32 (recordBits o me) }
          note { s with rr := { s.rr with
            tabs := (t.teamid, tid, (o :: s.rr.tab t.teamid tid).take 4) :: s.rr.tabs.filter (fun x => !(x.1 == t.teamid && x.2.1 == tid))
            log := s.rr.log ++ [(o, me)], lwp := s.rr.lwp + 1 } }
      else note { s with rr := { s.rr with lwp := s.rr.lwp + ((s.supplied r).filter (fun e => e.2 == me)).length } }

/-- Records that other records and program order imply are dropped when the launch ends (R358): a record a → b is implied when
some other record a' → b' has a' at or after a in a's thread and b' at or before b in b's thread. -/
def reduceLog (l : List ((Nat × Nat × Nat) × (Nat × Nat × Nat))) : List ((Nat × Nat × Nat) × (Nat × Nat × Nat)) :=
  let le := fun (x y : Nat × Nat × Nat) => x.1 == y.1 && x.2.1 == y.2.1 && decide (x.2.2 ≤ y.2.2)
  /- threads' events reachable from `a` through the other records, one pass per record -/
  let reach := fun (a : Nat × Nat × Nat) (others : List ((Nat × Nat × Nat) × (Nat × Nat × Nat))) =>
    (List.range others.length).foldl (fun (acc : List (Nat × Nat × Nat)) _ =>
      acc ++ (others.filter (fun e => acc.any (fun x => le x e.1) && !acc.contains e.2)).map (·.2)) [a]
  (List.range l.length).foldl (fun (kept : List ((Nat × Nat × Nat) × (Nat × Nat × Nat))) _ =>
    match kept.find? (fun e => (reach e.1 (kept.filter (· != e))).any (fun x => x != e.1 && le x e.2)) with
    | some e => kept.filter (· != e)
    | none => kept) l

/-- The end of a recorded or replayed launch: the command processor leaves in the log the records that no others imply, and sets LWP
(R358). -/
def State.endRecord (s : State) (ctx node : Nat) : State :=
  match s.rr.run with
  | none => s
  | some r =>
    if r.ctx != ctx || r.node != node then s
    else if r.mode != 1 then { s with rr := { s.rr with run := none } }
    else
      let log := reduceLog s.rr.log
      let s := (log.zipIdx).foldl (fun (s : State) e => s.post { place := .at (r.slot e.2), data := toBytes 32 (recordBits e.1.1 e.1.2) }) s
      { s with rr := { s.rr with run := none, log := log, lwp := log.length } }

end Sys2Proof.Machine
end

