-- ==== Sys2Proof/Machine/Plan.lean ====
section
/-! DEFINITION. What a lane of a memory instruction would access: its address, its checks in the order of 08 R173, its storage
format and conversion (04 R84 to R86, 08 R176 to R178), the whole-block rule. -/
namespace Sys2Proof.Machine

/-! ### Registers and elements -/

/-- Formats of one element: bits in a register and in storage, R68 codes of both, 0 when raw. -/
structure ElemFmt where
  rw : Nat
  sw : Nat
  sc : Nat
  fc : Nat
deriving DecidableEq, Repr

/-- The element formats of an access to storage of format S (R84, R176). -/
def elemFmt (f : F128M) (st : Nat) : ElemFmt :=
  let raw := widBits (field f.m 0 2)
  if f.fmt == 0 then
    if f.pg == 0 || st == 0 then ⟨raw, raw, 0, 0⟩ else ⟨fmtBits st, fmtBits st, st, st⟩
  else
    let r := f.fmt.toNat
    if st == 0 then ⟨fmtBits r, fmtBits r, r, r⟩ else ⟨fmtBits r, fmtBits st, st, r⟩

/-- Bit position of register element j of a run (R59, R176). -/
def elemPos (w : Nat) (pk : Bool) (j : Nat) : Nat := if w == 64 then 64 * j else if w == 4 || pk && w < 32 then w * j else 32 * j

/-- The elements of a run of register words. -/
def unpackRegs (w : Nat) (pk : Bool) (n : Nat) (ws : List Nat) : List Nat :=
  let x := ws.foldr (fun v acc => v % 2 ^ 32 + 2 ^ 32 * acc) 0
  (List.range n).map (fun j => field x (elemPos w pk j) w)

/-- The register words of a list of elements. -/
def packRegs (w : Nat) (pk : Bool) (els : List Nat) : List Nat :=
  let x := (els.mapIdx (fun j e => e % 2 ^ w * 2 ^ elemPos w pk j)).sum
  (List.range (runRegs w pk els.length)).map (fun k => field x (32 * k) 32)

/-- The exact value of an element of an R68 code. -/
def elemVal (code x : Nat) : FVal :=
  match ffOf code with
  | some F => fdecode F x
  | none => let i := intVal (intOf code).1 (intOf code).2 x; .fin (decide (i < 0)) i.natAbs 0

/-- One element converted between two codes; equal codes copy bits (R85). -/
def moveElem (a b w x : Nat) : FRes := if a == b then (x % 2 ^ w, 0) else convert a b 0 x

/-! ### Lane results -/

/-- A block of an FP4B24 page that a store touches: base, scale byte of a typed store, nibbles as (place in the block, element of
the lane, value if typed). -/
structure FBlock where
  pa : Nat
  scale : Option AUnit
  nibs : List (Nat × Nat × Option FVal)

/-- What a lane accesses. -/
structure LanePlan where
  units : List AUnit
  sfmt : Nat := 0
  addr : Nat
  foot : List (Where × Nat)
  flags : Nat := 0
  blocks : List FBlock := []

/-- The outcome of the checks of a lane (R173): lookups to wait for, a fault that parks, a page fault with the ranges that wait, an access. -/
inductive LaneRes
  | miss (va : Nat)
  | fault (c : Cause) (sub addr : Nat)
  | page (va addr : Nat) (foot : List (Where × Nat))
  | ok (p : LanePlan)
  /-- a hint that is dropped (R190) -/
  | drop
  /-- a walk waits for a line of the tables that an engine holds in G (R117, R297) -/
  | wait

/-- R172: space and offset of a lane's address, `step` bytes on: an offset of the `.sp` and `.ds` forms is signed and does not wrap
(R178). -/
def laneAddr (f : F128M) (v : Nat) (step : Int := 0) : Except Cause (Space × Int) :=
  let off := signed 24 f.off.toNat
  match f.sp.toNat with
  | 0 =>
    match decodeAddr (wrap 64 ((v : Int) + off + step)) with
    | .error c => .error c
    | .ok (sp, o) => .ok (sp, (o : Int))
  | 1 => .ok (.scratch, signed 32 v + off + step)
  | _ => .ok (.dscratch, signed 32 v + off + step)

/-- The address a record names for a generic address (R314): itself, or the offset in scratchpad and die scratch. -/
def recGen (g : Nat) : Nat :=
  match decodeAddr g with
  | .ok (.scratch, o) => o
  | .ok (.dscratch, o) => o
  | _ => g

/-- The address a record names (R314), of a lane of a memory instruction. -/
def recAddr (f : F128M) (v : Nat) : Nat :=
  let off := signed 24 f.off.toNat
  if f.sp == 0 then
    recGen (wrap 64 ((v : Int) + off))
  else wrap 64 (signed 32 v + off)

def Space.paged : Space → Bool
  | .global => true
  | .priv => true
  | _ => false

/-- Spaces that a gate callee does not reach (R168). -/
def Space.barred : Space → Bool
  | .scratch => true
  | .dscratch => true
  | .peer _ => true
  | _ => false

/-- The team that member m of a team's cohort names (R79, R81). -/
def State.peerTeam (s : State) (t : Team) (core m : Nat) : Except Cause Team :=
  let cs := if t.clvl == 0 then 1 else t.csize
  let id := t.teamid / cs * cs + m
  if m ≥ cs || id ≥ t.teams then .error .peerAbsent
  else
    match s.teams.find? (fun u => u.ctx == t.ctx && u.node == t.node && u.teamid == id && !u.ended) with
    | none => .error .peerAbsent
    | some u => if clusOf u.core != clusOf core then .error .peerFar else .ok u

/-- Bounds of R79 for n bytes at an offset of a space. R172 has a negative offset fault while the address is formed, R173 lists the cause
at order 5: GATE_SPACE and MISALIGN are judged before it (DESIGN CHOICE, log 88). -/
def State.whereIs (s : State) (c : Crew) (lane : Nat) (sp : Space) (o : Int) (n : Nat) : Except Cause Where :=
  let t := s.teamOf c
  let e := o + n
  match sp with
  | .global => .ok (.va (o.toNat % 2 ^ 57))
  | .priv => if e > c.privSize then .error .privBound else .ok (.va (c.privVa t lane o.toNat))
  | .scratch => if o < 0 || e > 1024 * t.scrK then .error .scratchBound else .ok (.loc (.scr t.serial o.toNat))
  | .dscratch =>
    let die := dieOf c.core
    if o < 0 || e > (s.ctxOf t.ctx).ways die * 2 ^ 25 then .error .dscratchBound else .ok (.loc (.dscr t.ctx die o.toNat))
  | .peer m =>
    match s.peerTeam t c.core m with
    | .error e => .error e
    | .ok u => if e > 1024 * u.scrK then .error .scratchBound else .ok (.loc (.scr u.serial o.toNat))

/-- The range that n bytes at an offset of a space cover, none outside the space; of a private window the bytes that lie in it. -/
def State.footOf (s : State) (c : Crew) (lane : Nat) (sp : Space) (o : Int) (most : Nat) : List (Where × Nat) :=
  let n := if sp == .priv then Nat.min most (c.privSize - o.toNat) else most
  match s.whereIs c lane sp o n with
  | .ok w => [(w, n)]
  | .error _ => []

/-- Virtual addresses whose pages the accesses of an instruction look up (R302). -/
def footVas (l : List (Where × Nat)) : List Nat := l.filterMap (fun x => match x.1 with | .va v => some v | .loc _ => none)

/-- Place one piece of at most 8 bytes (16 for a barrier object), with translation (orders 6 and 7 of R173). A generic address of memory
that R80 fences takes PAGE_PROT (DESIGN CHOICE, log 87). -/
def State.piece (s : State) (c : Crew) (lane : Nat) (w : Want) (sp : Space) (o : Int) (n addr : Nat) (foot : List (Where × Nat)) :
    Except LaneRes (Loc × Option Leaf) :=
  match s.whereIs c lane sp o n with
  | .error e => .error (.fault e 0 addr)
  | .ok (.loc l) =>
    match l with
    | .dscr _ d _ => if s.dieOff d then .error (.fault .layerOff 0 addr) else .ok (l, none)
    | _ => .ok (l, none)
  | .ok (.va va) =>
    match s.xlate c va w with
    | .miss v => .error (.miss v)
    | .fault .pageAbsent => .error (.page (va / 65536 * 65536) addr foot)
    | .fault e => .error (.fault e 0 addr)
    | .ok pa l =>
      if sp == .global && s.fenced c lane va n || s.tableAt pa n then .error (.fault .pageProt 0 addr)
      else if s.homeOff pa then .error (.fault .layerOff 0 addr)
      else .ok (.phys pa, some l)

/-- Place every piece of a list of (offset, size). -/
def State.pieces (s : State) (c : Crew) (lane : Nat) (w : Want) (sp : Space) (addr : Nat) (foot : List (Where × Nat)) :
    List (Int × Nat) → Except LaneRes (List (Loc × Nat) × Option Leaf)
  | [] => .ok ([], none)
  | (o, n) :: l =>
    match s.piece c lane w sp o n addr foot with
    | .error r => .error r
    | .ok (x, lf) =>
      match s.pieces c lane w sp addr foot l with
      | .error r => .error r
      | .ok (xs, _) => .ok ((x, n) :: xs, lf)

/-- The pieces of a footprint: aligned units of at most 8 bytes (R108). -/
def chunks (o : Int) (n : Nat) : List (Int × Nat) :=
  if n ≤ 8 then [(o, n)] else (List.range (n / 8)).map (fun (k : Nat) => (o + 8 * (k : Int), 8))

/-- R83: a footprint that is a power of two from 1 to 64 and divides the address. -/
def misaligned (o : Int) (n : Nat) : Bool := !([1, 2, 4, 8, 16, 32, 64].contains n) || o % n != 0

/-- The storage format of the page of a lane's address (R172). -/
def State.pageFmt (s : State) (c : Crew) (lane : Nat) (sp : Space) (o : Int) (addr : Nat) (foot : List (Where × Nat)) : Except LaneRes Nat :=
  match s.whereIs c lane sp o 1 with
  | .error e => .error (.fault e 0 addr)
  | .ok (.loc _) => .ok 0
  | .ok (.va va) =>
    match s.leafRes c va with
    | .miss => .error (.miss va)
    | .failed .pageAbsent => .error (.page (va / 65536 * 65536) addr foot)
    | .failed e => .error (.fault e 0 addr)
    | .ok l => .ok l.sfmt

/-- Whether an access is typed: a register format is named, or `.page` (R84). -/
def typedAcc (f : F128M) : Bool := !(f.fmt == 0 && f.pg == 0)

/-- The storage format that a lane's access has at an address: that of its page where it is typed and the space has pages. `most` bounds
the bytes that it may touch. -/
def State.storeFmt (s : State) (c : Crew) (lane : Nat) (f : F128M) (sp : Space) (o : Int) (addr most : Nat) : Except LaneRes Nat :=
  if sp.paged && typedAcc f then s.pageFmt c lane sp o addr (s.footOf c lane sp o most) else .ok 0

/-- A unit carries the fields of its page that its performance needs. -/
def AUnit.on (l : Option Leaf) (u : AUnit) : AUnit := match l with | some l => { u with cls := l.cls, shr := l.shr } | none => u

/-- Cut a value into the data of units. -/
def withData (ls : List (Loc × Nat)) (bytes : List Byte) : List AUnit :=
  match ls with
  | [] => []
  | (l, n) :: r => { loc := l, size := n, data := ofBytes (bytes.take n), done := false } :: withData r (bytes.drop n)

/-- Bytes of storage elements. -/
def elemBytes (w : Nat) (els : List Nat) : List Byte :=
  toBytes (w * els.length / 8) ((els.mapIdx (fun j e => e % 2 ^ w * 2 ^ (w * j))).sum)

/-- Whole blocks of a page of FP4B24, and the block and nibble of a nibble of the page (R299). -/
def fp4Blocks (size : Nat) : Nat := size / 12

/-- Virtual address of the scale of block b of a page (R299). -/
def Leaf.scaleVa (l : Leaf) (b : Nat) : Nat := wrap 57 ((l.va : Int) + l.csoff + b)

/-- Which of several outcomes a lane takes: a lookup to wait for, then what R173 puts at order 6 before order 7. -/
def foremost (l : List LaneRes) : Option LaneRes :=
  let rank := fun (r : LaneRes) => match r with | .miss _ => 0 | .fault .layerOff _ _ => 2 | _ => 1
  match l.find? (fun r => rank r == 0), l.find? (fun r => rank r == 1), l.head? with
  | some r, _, _ => some r
  | none, some r, _ => some r
  | none, none, r => r

/-- The scale byte of a block of an FP4B24 page: it is translated and checked on its own (R299). -/
def State.scalePiece (s : State) (c : Crew) (lane : Nat) (w : Want) (l : Leaf) (addr : Nat) (foot : List (Where × Nat)) (b : Nat) :
    Except LaneRes AUnit :=
  let va := l.scaleVa b
  match s.xlate c va w with
  | .miss v => .error (.miss v)
  | .fault .pageAbsent => .error (.page (va / 65536 * 65536) addr foot)
  | .fault e => .error (.fault e 0 addr)
  | .ok pa lf =>
    if lf.sfmt != 0 then .error (.fault .ptFormat 0 addr)
    else if s.fenced c lane va 1 || s.tableAt pa 1 then .error (.fault .pageProt 0 addr)
    else if s.homeOff pa then .error (.fault .layerOff 0 addr)
    else .ok (AUnit.on (some lf) { loc := .phys pa, size := 1, data := 0, done := false })

/-- Scale bytes of the elements of a typed access to an FP4B24 page (R299). -/
def State.scalePieces (s : State) (c : Crew) (lane : Nat) (w : Want) (l : Leaf) (addr : Nat) (foot : List (Where × Nat)) (bs : List Nat) :
    Except LaneRes (List AUnit) :=
  let rs := bs.map (s.scalePiece c lane w l addr foot)
  match foremost (rs.filterMap (fun r => match r with | .error e => some e | .ok _ => none)) with
  | some e => .error e
  | none => .ok (rs.filterMap (fun r => match r with | .ok u => some u | .error _ => none))

/-- The page in which a lane's address lies, with its virtual address, where it is known. -/
def State.leadPage (s : State) (c : Crew) (lane : Nat) (sp : Space) (o : Int) : Option (Leaf × Nat) :=
  match s.whereIs c lane sp o 1 with
  | .ok (.va va) => (match s.leafRes c va with | .ok l => some (l, va) | _ => none)
  | _ => none

/-- LD and ST in one lane (R177). `words` are the registers of a store. An odd count of FP4B24 elements has no footprint in bytes: it is
judged as its first byte up to BLOCK_ALIGN (log 88). -/
def planLdst (f : F128M) (store : Bool) (s : State) (c : Crew) (lane : Nat) (vals : List Nat) : LaneRes :=
  let addr := recAddr f (val vals 0)
  let n := f.n
  let w : Want := if store then .write else .read
  match laneAddr f (val vals 0) with
  | .error e => .fault e 0 addr
  | .ok (sp, o) =>
    if c.gdepth ≥ 1 && sp.barred then .fault .gateSpace 0 addr
    else
      match s.storeFmt c lane f sp o addr (8 * n) with
      | .error r => r
      | .ok st =>
        let e := elemFmt f st
        let fp4 := e.sc == 7
        let typed4 := fp4 && e.fc != 7
        let odd4 := fp4 && n % 2 == 1
        let fpn := if odd4 then 1 else n * e.sw / 8
        if misaligned o fpn then .fault .misalign 0 addr
        else
          /- the scale bytes of a converting access are translated and checked before BLOCK_ALIGN (R173, R299) -/
          let lead := if typed4 then s.leadPage c lane sp o else none
          let blocksOf := fun (l : Leaf) (p : Nat) => ((List.range n).map (fun j => (2 * p + j) / 24)).filter (fun b => decide (b < fp4Blocks l.size))
          let foot := s.footOf c lane sp o fpn ++ match lead with
            | some (l, va) => (blocksOf l (va - l.va)).eraseDups.map (fun b => (Where.va (l.scaleVa b), 1))
            | none => []
          let scales : Except LaneRes (List AUnit) := match lead with
            | some (l, va) => s.scalePieces c lane w l addr foot (blocksOf l (va - l.va))
            | none => .ok []
          match s.pieces c lane w sp addr foot (chunks o fpn), scales with
          | .error e, .error r => (foremost [e, r]).getD e
          | .error e, .ok _ => e
          | .ok _, .error r => r
          | .ok (ls, lf), .ok sls =>
            let l := lf.getD default
            let raw4 := l.sfmt == 7 && !typed4
            /- page offset of the first byte of the element plane -/
            let p := match ls.head? with | some (.phys pa, _) => pa - l.pa | _ => 0
            let blk := fun j => (2 * p + j) / 24
            let nib := if typed4 then n else 2 * fpn
            if odd4 || fp4 && 2 * p + n > 24 * fp4Blocks l.size then .fault .blockAlign 0 addr
            else
                let els := unpackRegs e.rw f.pk n (vals.drop 1)
                let conv := els.map (moveElem e.fc e.sc e.sw)
                let put := fun (bytes : List Byte) => (withData ls bytes).map (AUnit.on lf)
                let base : LanePlan := { units := [], sfmt := st, addr := addr, foot := foot }
                if !store then .ok { base with units := put [] ++ sls }
                else if typed4 || raw4 then
                  let bs := (((List.range nib).filter (fun j => (2 * p + j) < 24 * fp4Blocks l.size)).map blk).eraseDups
                  let blocks := bs.map (fun b =>
                    { pa := l.pa + 12 * b
                      scale := if typed4 then
                          (((List.range n).zip sls).find? (fun x => blk x.1 == b)).map (·.2)
                        else none
                      nibs := ((List.range nib).filter (fun j => blk j == b)).map (fun j =>
                        ((2 * p + j) % 24, j, if typed4 then some (elemVal e.fc ((els[j]?).getD 0)) else none)) : FBlock })
                  .ok { base with units := put (if typed4 then [] else elemBytes e.sw els), blocks := blocks }
                else .ok { base with units := put (elemBytes e.sw (conv.map (·.1)))
                                     flags := orAll (conv.map (·.2)) }

/-- One element of a strided access: its place, its size, its page, its storage format (R178). -/
def planElem (f : F128M) (store : Bool) (s : State) (c : Crew) (lane addr v : Nat) (step : Int) :
    Except LaneRes (Loc × Nat × Option Leaf × Nat) :=
  match laneAddr f v step with
  | .error e => .error (.fault e 0 addr)
  | .ok (sp, o) =>
    if c.gdepth ≥ 1 && sp.barred then .error (.fault .gateSpace 0 addr)
    else
      match s.storeFmt c lane f sp o addr 8 with
      | .error r => .error r
      | .ok st =>
        let sz := Nat.max 1 ((elemFmt f st).sw / 8)
        if misaligned o sz then .error (.fault .misalign 0 addr)
        else
          match s.piece c lane (if store then .write else .read) sp o sz addr [] with
          | .error r => .error r
          | .ok (l, lf) => if (lf.getD default).sfmt == 7 then .error (.fault .blockAlign 0 addr) else .ok (l, sz, lf, st)

/-- The range of an element of a strided access, as wide as an element can be. -/
def elemFoot (f : F128M) (s : State) (c : Crew) (lane v : Nat) (step : Int) : List (Where × Nat) :=
  match laneAddr f v step with
  | .error _ => []
  | .ok (sp, o) =>
    let sz := match s.storeFmt c lane f sp o 0 8 with | .ok st => Nat.max 1 ((elemFmt f st).sw / 8) | .error _ => 8
    s.footOf c lane sp o sz

/-- The format among some that is the widest in registers. -/
def widest (f : F128M) (l : List Nat) : Nat :=
  l.foldl (fun b st => if (elemFmt f st).rw > (elemFmt f b).rw then st else b) (l.head?.getD 0)

/-- Bits of the register slot of an element of a strided form (R176, R178). -/
def slotBits (w : Nat) : Nat := if w == 64 then 64 else 32

/-- LDM and STM in one lane (R178): one footprint for each element. Where several elements fault, the lane takes the fault of the lowest
j, whatever its order in R173: R178 leaves open which (DESIGN CHOICE, log 89). Under `.page` the register run of elements in pages of
different formats gives each what the widest needs (DESIGN CHOICE, log 104). -/
def planStrided (f : F128M) (store : Bool) (s : State) (c : Crew) (lane : Nat) (vals : List Nat) : LaneRes :=
  let addr := recAddr f (val vals 0)
  let n := f.n
  let stride := signed 32 (match vals.getLast? with | some v => v | none => 0)
  let rs := (List.range n).map (fun (j : Nat) => planElem f store s c lane addr (val vals 0) (stride * j))
  let foot := (List.range n).flatMap (fun (j : Nat) => elemFoot f s c lane (val vals 0) (stride * j))
  let find := fun (p : LaneRes → Bool) => rs.findSome? (fun r => match r with | .error e => if p e then some e else none | .ok _ => none)
  let oks := rs.filterMap (fun r => match r with | .ok x => some x | .error _ => none)
  match find (fun e => match e with | .miss _ => true | _ => false), find (fun e => match e with | .page _ _ _ => false | _ => true), find (fun _ => true) with
  | some r, _, _ => r
  | none, some r, _ => r
  | none, none, some (.page va a _) => .page va a foot
  | none, none, some r => r
  | none, none, none =>
    let fmt := fun (j : Nat) => elemFmt f (match oks[j]? with | some (_, _, _, st) => st | none => 0)
    let st := widest f (oks.map (·.2.2.2))
    let els := unpackRegs (slotBits (elemFmt f st).rw) false n (vals.drop 1)
    let conv := els.mapIdx (fun j x => moveElem (fmt j).fc (fmt j).sc (fmt j).sw (x % 2 ^ (fmt j).rw))
    .ok { units := oks.mapIdx (fun j x => ({ loc := x.1, size := x.2.1, data := if store then ((conv[j]?).getD (0, 0)).1 else 0, done := false,
                                             sf := x.2.2.2 } : AUnit).on x.2.2.1)
          sfmt := st
          addr := addr, foot := foot, flags := if store then orAll (conv.map (·.2)) else 0 }

/-- An atomic in one lane (R180). -/
def planAtomic (f : F128M) (s : State) (c : Crew) (lane : Nat) (vals : List Nat) : LaneRes :=
  let addr := recAddr f (val vals 0)
  let n := if fmt64 f.fmt.toNat then 8 else 4
  match laneAddr f (val vals 0) with
  | .error e => .fault e 0 addr
  | .ok (sp, o) =>
    if c.gdepth ≥ 1 && sp.barred then .fault .gateSpace 0 addr
    else if misaligned o n then .fault .misalign 0 addr
    else
      let foot := s.footOf c lane sp o n
      match s.piece c lane .write sp o n addr foot with
      | .error r => r
      | .ok (l, lf) =>
        if (lf.getD default).sfmt == 7 then .fault .blockAlign 0 addr
        else .ok { units := [AUnit.on lf { loc := l, size := n, data := 0, done := false }], addr := addr, foot := foot }

/-- STSIG in one lane (R186): payload, then signal. Where both fault, the payload's cause and address stand at each of the orders 2 to 4,
and the payload's orders 5 to 7 come before the signal's: R186 says only that the lane takes the cause of whichever faults (DESIGN CHOICE,
log 90). -/
def planStsig (f : F128M) (s : State) (c : Crew) (lane : Nat) (vals : List Nat) : LaneRes :=
  let addr := recAddr f (val vals 0)
  let n := 4 * f.n
  let sn := if bit f.m 0 then 8 else 4
  let sig := match vals.getLast? with | some v => v | none => 0
  match laneAddr f (val vals 0), decodeAddr sig with
  | .error e, _ => .fault e 0 addr
  | _, .error e => .fault e 0 sig
  | .ok (sp, o), .ok (sp2, o2) =>
    if c.gdepth ≥ 1 && (sp.barred || sp2.barred) then .fault .gateSpace 0 (if sp.barred then addr else recGen sig)
    else if misaligned o n then .fault .misalign 0 addr
    else if misaligned o2 sn then .fault .misalign 0 (recGen sig)
    else
      let foot := s.footOf c lane sp o n ++ s.footOf c lane sp2 o2 sn
      match s.pieces c lane .write sp addr foot (chunks o n), s.piece c lane .write sp2 o2 sn (recGen sig) foot with
      | .error r, _ => r
      | _, .error r => r
      | .ok (ls, lf), .ok (l2, lf2) =>
        if (lf.getD default).sfmt == 7 then .fault .blockAlign 0 addr
        else if (lf2.getD default).sfmt == 7 then .fault .blockAlign 0 (recGen sig)
        else .ok { units := (withData ls (elemBytes 32 ((vals.drop 1).take f.n))).map (AUnit.on lf)
                     ++ [AUnit.on lf2 { loc := l2, size := sn, data := 0, done := false }]
                   addr := addr, foot := foot }

/-- A barrier instruction in one lane (R189): BAR_SPACE at decode; `n` is the count that BINIT and BARR check at issue. -/
def planBar (f : F128M) (chk : Nat → Bool) (s : State) (c : Crew) (lane : Nat) (vals : List Nat) : LaneRes :=
  let addr := recAddr f (val vals 0)
  match laneAddr f (val vals 0) with
  | .error e => .fault e 0 addr
  | .ok (sp, o) =>
    if sp == .global || sp == .priv || sp == .dscratch then .fault .barSpace 0 addr
    else if c.gdepth ≥ 1 then .fault .gateSpace 0 addr
    else if misaligned o 16 then .fault .misalign 0 addr
    else
      match s.piece c lane .write sp o 16 addr [] with
      | .error r => r
      | .ok (l, _) =>
        if chk (val vals 1) then .fault .barCount 0 addr
        else .ok { units := [{ loc := l, size := 16, data := 0, done := false }], addr := addr, foot := s.footOf c lane sp o 16 }

/-- CLWB and CLEVICT in one lane: the line, or nothing (R190). Poison is judged when the hint is performed
(R381), in the sector of the address alone (DESIGN CHOICE, log 122). -/
def planLine (f : F128M) (s : State) (c : Crew) (lane : Nat) (vals : List Nat) : LaneRes :=
  let addr := recAddr f (val vals 0)
  match laneAddr f (val vals 0) with
  | .error _ => .drop
  | .ok (sp, o) =>
    if c.gdepth ≥ 1 && sp.barred then .fault .gateSpace 0 addr
    else if !sp.paged then .drop
    else
      match s.piece c lane .hint sp o 1 addr [] with
      | .error (.miss v) => .miss v
      | .error _ => .drop
      | .ok (.phys pa, lf) =>
        /- the unit keeps which of the line's sectors holds the address -/
        .ok { units := [AUnit.on lf { loc := .phys (pa / 1024 * 1024), size := 1024, data := pa / 256 % 4, done := false }], addr := addr
              foot := (s.footOf c lane sp o 1).map (fun x => match x.1 with | .va v => (.va (v / 1024 * 1024), 1024) | w => (w, 1024)) }
      | .ok _ => .drop

/-- LDPHYS and STPHYS in one lane (R267): ADDR_RANGE, MISALIGN, PHYS_DENIED, LAYER_OFF. At F every physical address is reached, one that no
tower holds among them: nothing is stored there, and a load gives a free value (log 77). -/
def planPhys (f : F128M) (store : Bool) (s : State) (c : Crew) (_lane : Nat) (vals : List Nat) : LaneRes :=
  let pa := wrap 64 ((val vals 0 : Int) + signed 24 f.off.toNat)
  let w := widBits (field f.m 0 2)
  let n := f.n * w / 8
  let t := s.teamOf c
  let x := s.ctxOf t.ctx
  let inPart := match s.partAt pa with | some (p, _) => p.num == x.part | none => false
  if pa ≥ 2 ^ 52 then .fault .addrRange 0 pa
  else if misaligned (pa : Int) n then .fault .misalign 0 pa
  else if t.level < 2 && (!inPart || s.tableAt pa n || !x.secure && s.worldAt pa)
  then .fault .physDenied 0 pa
  else if s.homeOff pa then .fault .layerOff 0 pa
  else
    .ok { units := withData ((chunks (pa : Int) n).map (fun p => (Loc.phys p.1.toNat, p.2)))
                     (if store then elemBytes w (unpackRegs w f.pk f.n (vals.drop 1)) else [])
          addr := pa, foot := [(.loc (.phys pa), n)] }

/-! ### The whole-block rule (R86) -/

/-- Nibbles of a block that the lanes of one step supply. -/
def blockNibs (ps : List (Nat × LaneRes)) (pa : Nat) : List (Nat × Nat × Nat × Option FVal) :=
  ps.flatMap (fun p => match p.2 with
    | .ok q => q.blocks.flatMap (fun b => if b.pa == pa then b.nibs.map (fun x => (x.1, p.1, x.2.1, x.2.2)) else [])
    | _ => [])

/-- Whether the lanes of one step cover a block whole. -/
def blockWhole (ps : List (Nat × LaneRes)) (pa : Nat) : Bool :=
  let l := blockNibs ps pa
  (List.range 24).all (fun k => l.any (fun x => x.1 == k))

/-- Lanes that touch a block in part take BLOCK_ALIGN, until none does. -/
def partialBlocks (ps : List (Nat × LaneRes)) : Nat → List (Nat × LaneRes)
  | 0 => ps
  | fuel + 1 =>
    let qs := ps.map (fun p => match p.2 with
      | .ok q => if q.blocks.any (fun b => !blockWhole ps b.pa) then (p.1, LaneRes.fault .blockAlign 0 q.addr) else p
      | _ => p)
    partialBlocks qs fuel

/-- Scale and elements of a whole block under typed stores (R66): the highest lane's element stands. -/
def encodeBlock (ps : List (Nat × LaneRes)) (pa : Nat) : Nat × List Nat × Nat :=
  let l := blockNibs ps pa
  fp4Encode ((List.range 24).map (fun k =>
    match (l.filter (fun x => x.1 == k)).getLast? with
    | some (_, _, _, some v) => v
    | _ => .fin false 0 0))

/-- Fill in what typed stores to FP4B24 pages write: each lane's elements of the encoded blocks, and the scale bytes. -/
def fillBlocks (ps : List (Nat × LaneRes)) : List (Nat × LaneRes) :=
  ps.map (fun p => match p.2 with
    | .ok q =>
      if q.blocks.any (fun b => b.scale.isSome) then
        let enc := q.blocks.map (fun b => (b, encodeBlock ps b.pa))
        let els := enc.flatMap (fun x => x.1.nibs.map (fun y => (y.2.1, (x.2.2.1[y.1]?).getD 0)))
        let code := fun j => match els.find? (fun y => y.1 == j) with | some y => y.2 | none => 0
        let bytes := elemBytes 4 ((List.range els.length).map code)
        let scales := enc.filterMap (fun x => x.1.scale.map (fun u => { u with data := x.2.1 }))
        let data := withData (q.units.map (fun u => (u.loc, u.size))) bytes
        (p.1, LaneRes.ok { q with units := q.units.mapIdx (fun j u => { u with data := ((data[j]?).getD u).data }) ++ scales
                                  flags := orAll (enc.map (fun x => x.2.2.2)) })
      else p
    | _ => p)

/-- The whole-block rule over the lanes that perform an instruction in one step. -/
def blockRule (ps : List (Nat × LaneRes)) : List (Nat × LaneRes) :=
  if ps.any (fun p => match p.2 with | .ok q => !q.blocks.isEmpty | _ => false) then fillBlocks (partialBlocks ps 32) else ps

end Sys2Proof.Machine
end

