-- ==== Sys2Proof/Machine/Access.lean ====
section
/-! DEFINITION. The accesses of the memory instructions: issue with its checks (08 R173, 15 R304, R305), the order in which
they may be performed (05 R112, R117), their performance at the bank, slice or home (R381), their completion. -/
namespace Sys2Proof.Machine

/-- Atomic operations other than by their opcode: what one reads and writes (R180 to R184). -/
structure MemDesc where
  f : F128M
  kind : AccKind
  plan : State → Crew → Nat → List Nat → LaneRes
  /-- sources, given the storage format -/
  uses : Nat → List (Use × Src)
  /-- destination registers, given the storage format, and whether they are a run (R176) -/
  dk : Nat → Nat
  drun : Bool := false
  dpair : Nat → Bool := fun _ => false
  /-- whether n breaks a packing rule, given the storage format (R176) -/
  pack : Nat → Bool := fun _ => false
  acq : Bool := false
  rel : Bool := false
  phys : Bool := false
  /-- a hint: what would be a fault drops a lane of it (R190) -/
  hint : Bool := false
  /-- a strided form (R178) -/
  strided : Bool := false

/-- The packing rule of a load or store of storage format S; the strided and the physical forms have no packing (R176, R178). -/
def packRule (f : F128M) (strided phys : Bool) (st : Nat) : Bool := !strided && !phys && packBad (elemFmt f st).rw f.pk f.n

/-- Registers of the data run of a load or store of storage format S. -/
def runOf (f : F128M) (strided : Bool) (st : Nat) : Nat × Bool :=
  let e := elemFmt f st
  (runRegs e.rw (f.pk && !strided) f.n, e.rw == 64)

def ldDesc (f : F128M) (strided phys : Bool) : MemDesc :=
  { f := f, kind := .load
    plan := if phys then planPhys f false else if strided then planStrided f false else planLdst f false
    uses := fun _ => (f.addrUse, f.s1) :: if strided then [(.w32, f.s2)] else []
    dk := fun st => (runOf f strided st).1, drun := true, dpair := fun st => (runOf f strided st).2
    pack := packRule f strided phys, acq := f.ord == 1, phys := phys, strided := strided }

def stDesc (f : F128M) (strided phys : Bool) : MemDesc :=
  { f := f, kind := .store
    plan := if phys then planPhys f true else if strided then planStrided f true else planLdst f true
    uses := fun st => [(f.addrUse, f.s1), (.run (runOf f strided st).1 (runOf f strided st).2, f.s2)]
      ++ if strided then [(.w32, f.s3)] else []
    dk := fun _ => 0, pack := packRule f strided phys, rel := f.ord == 2, phys := phys, strided := strided }

def atomDesc (f : F128M) (nsrc : Nat) : MemDesc :=
  let two := fmt64 f.fmt.toNat
  { f := f, kind := .atomic, plan := planAtomic f
    uses := fun _ => (f.addrUse, f.s1) :: ([(useW two, f.s2), (useW two, f.s3)].take nsrc)
    dk := fun _ => if two then 2 else 1, dpair := fun _ => two, acq := bit f.ord.toNat 0, rel := bit f.ord.toNat 1 }

def barDesc (f : F128M) (kind : AccKind) (two : Bool) (chk : Nat → Bool) (dst arr : Bool) : MemDesc :=
  { f := f, kind := kind, plan := planBar f chk
    uses := fun _ => (f.addrUse, f.s1) :: if two then [(.w32, f.s2)] else []
    dk := fun _ => if dst then 1 else 0, rel := arr || f.ord == 2 }

def lineDesc (f : F128M) (kind : AccKind) : MemDesc :=
  { f := f, kind := kind, plan := planLine f, uses := fun _ => [(f.addrUse, f.s1)], dk := fun _ => 0, hint := true }

/-- The description of every instruction that makes an access in its lanes (R175). -/
def memDesc (i : Instr) : Option MemDesc :=
  match i with
  | .ld f => some (ldDesc f false false)
  | .ldm f => some (ldDesc f true false)
  | .ldphys f => some (ldDesc f false true)
  | .st f => some (stDesc f false false)
  | .stm f => some (stDesc f true false)
  | .stphys f => some (stDesc f false true)
  | .aadd f | .amin f | .amax f | .aand f | .aor f | .axor f | .axch f | .afadd f | .ainc f | .adec f | .afmin f | .afmax f =>
    some (atomDesc f 1)
  | .acas f => some (atomDesc f 2)
  | .amaxswap f => some (atomDesc f 0)
  | .stsig f => some { f := f, kind := .stsig, plan := planStsig f
                       uses := fun _ => [(f.addrUse, f.s1), (.run f.n false, f.s2), (.w64, f.s3)], dk := fun _ => 0 }
  | .binit f => some (barDesc f .bar true (fun n => n == 0 || n > 65535) false false)
  | .bexpb f => some (barDesc f .bar true (fun _ => false) (bit f.m 0) (bit f.m 0))
  | .barr f => some (barDesc f .bar true (fun n => n == 0 || n > 65535) true true)
  | .binv f => some (barDesc f .binv false (fun _ => false) false false)
  | .clwb f => some (lineDesc f .clwb)
  | .clevict f => some (lineDesc f .clevict)
  | _ => none

/-! ### Issue -/

/-- Operand-log slots (R305): one for the addresses, one for each 8 bytes of other source values. -/
def MemDesc.slots (d : MemDesc) (st : Nat) : Nat :=
  let n := (((d.uses st).drop 1).map (fun u => 4 * u.1.regs)).sum
  1 + (n + 7) / 8

/-- Whether a lane is to perform the instruction at an address again, from its log. -/
def Crew.again (c : Crew) (pc : DWord) (l : Nat) : Bool := (c.thread l).relog.isSome && (c.thread l).pc == pc

/-- What instructions hold for lanes that are to perform them again (R305); the one that issues takes its own over. -/
def State.keptLogs (s : State) (k : Nat) (c : Crew) : List KeptLog :=
  let now := fun (l : Nat) => match s.cur with | some i => i.crew == k && i.mask.getLsbD l | none => false
  c.logs.filter (fun x => (List.range 32).any (fun l => c.again x.pc l && !now l))

/-- An instruction keeps its slots for lanes that have faulted. -/
def Crew.keepLog (c : Crew) (x : KeptLog) : Crew := { c with logs := c.logs.filter (fun y => y.pc != x.pc) ++ [x] }

/-- Slots that a crew holds: those of its accesses, once for each instruction, and those kept for lanes that have faulted (R305). -/
def State.slotsHeld (s : State) (serial crew : Nat) : Nat :=
  let mine := s.accs.filter (fun a => a.serial == serial && a.crew == crew)
  let kept := match s.crewAt serial crew with
    | some k => (match s.crew? k with | some c => s.keptLogs k c | none => [])
    | none => []
  (mine.map (fun a => if mine.find? (fun b => b.group == a.group) == some a then a.slots else 0)).sum
    + ((kept.filter (fun x => !mine.any (fun a => a.group == x.group))).map (·.slots)).sum

/-- The sources that form the addresses of a lane. -/
def MemDesc.places (d : MemDesc) : List (Use × Src) :=
  (d.uses 0).filter (fun u => match u.1 with | .run _ _ => false | _ => true)

/-- The storage format that decides the registers of a lane whose sources have some values: that of its page under `.page`, of a strided
form the widest of its elements' pages (log 104), else none. -/
def MemDesc.fmtAt (d : MemDesc) (s : State) (c : Crew) (l : Nat) (vals : List Nat) : Except LaneRes Nat :=
  if d.f.pg != 1 then .ok 0
  else
    let v := val vals 0
    let stride := signed 32 (match vals.getLast? with | some v => v | none => 0)
    let rs := (List.range (if d.strided then d.f.n else 1)).map (fun (j : Nat) => match laneAddr d.f v (stride * j) with
      | .ok (sp, o) => if sp.paged then s.pageFmt c l sp o (recAddr d.f v) [] else .ok 0
      | .error _ => .ok 0)
    let find := fun (p : LaneRes → Bool) => rs.findSome? (fun r => match r with | .error e => if p e then some e else none | .ok _ => none)
    match find (fun e => match e with | .miss _ => true | _ => false), find (fun e => match e with | .page _ _ _ => false | _ => true), find (fun _ => true) with
    | some e, _, _ => .error e
    | none, some e, _ => .error e
    | none, none, some e => .error e
    | none, none, none => .ok (widest d.f (rs.filterMap (fun r => match r with | .ok st => some st | .error _ => none)))

/-- The same of a lane of the bundle that issues; a lane outside a window of its address operands has none (R45). -/
def pageOf (s : State) (c : Crew) (mask : Mask) (d : MemDesc) (l : Nat) : Except LaneRes Nat :=
  if d.f.pg != 1 then .ok 0
  else if !((c.thread l).outSrcs d.places).isEmpty then .error (.fault .indexBound 0 0)
  else d.fmtAt s c l (readLane s c mask d.places l).vals

/-- Whether the destination of a lane leaves its window for a storage format (R45, R176). -/
def MemDesc.dstOut (d : MemDesc) (t : Thread) (st : Nat) : Bool :=
  if d.drun then idxRunOut t d.f.h.dst.toNat (d.dk st) else idxOut t d.f.h.dst.toNat (d.dk st)

/-- Whether the registers that an instruction names break a rule in a lane for a storage format (R135, R176). -/
def MemDesc.regsBad (d : MemDesc) (t : Thread) (st : Nat) : Bool :=
  let dst := d.f.h.dst.toNat
  dst < 128 && dst + d.dk st > 128 || (d.uses st).any (fun p => srcBad6 p.1 p.2) || dst < 128 && d.dpair st && dst % 2 == 1 || d.pack st
    || (d.uses st).any (fun p => t.reads p.2 && srcOdd t p.1 p.2)
    || 192 ≤ dst && dst < 200 && d.dpair st && !d.dstOut t st && namedReg t dst % 2 == 1

/-- Whether the registers of a lane suit a storage format. -/
def MemDesc.suits (d : MemDesc) (t : Thread) (st : Nat) : Bool :=
  !(d.regsBad t st || d.dstOut t st || (d.uses st).any (fun p => t.reads p.2 && (srcBad5 p.1 p.2 || srcOut t p.1 p.2)))

/-- The sources of a lane that it would read outside their windows. Under `.page` an address outside its window leaves the format unknown, and
with it the run (log 121). -/
def MemDesc.gaps (d : MemDesc) (t : Thread) (st : Nat) : List Src :=
  let p := t.outSrcs d.places
  if d.f.pg == 1 && !p.isEmpty then p ++ ((d.uses st).filter (fun u => match u.1 with | .run _ _ => t.reads u.2 | _ => false)).map (·.2)
  else t.outSrcs (d.uses st)

/-- Registers of the data run of a storage format. -/
def MemDesc.runLen (d : MemDesc) (st : Nat) : Nat := (runOf d.f d.strided st).1

/-- The storage format by which a lane is judged and read while its page is absent (log 91): of those that suit it one with the longest
run, else one with the shortest run. -/
def MemDesc.roomFmt (d : MemDesc) (t : Thread) : Nat :=
  let all := List.range 16
  match all.filter (d.suits t) with
  | st :: l => l.foldl (fun b x => if d.runLen x > d.runLen b then x else b) st
  | [] => all.foldl (fun b x => if d.runLen x < d.runLen b then x else b) 0

def fmtOfLane (s : State) (c : Crew) (mask : Mask) (d : MemDesc) (l : Nat) : Nat :=
  match pageOf s c mask d l with
  | .ok st => st
  | .error (.page _ _ _) => d.roomFmt (c.thread l)
  | .error _ => 0

/-- Lanes of a `.page` instruction whose page is absent: no format says which registers they use (R176, R304; log 91). Each with its page and
address. -/
def pageLanes (s : State) (c : Crew) (mask em : Mask) (d : MemDesc) : List (Nat × Nat × Nat) :=
  if d.f.pg != 1 then []
  else (lanesOf em).filterMap (fun l => match pageOf s c mask d l with | .error (.page va a _) => some (l, va, a) | _ => none)

/-- Releases of the sources (R47), whose runs depend on the lane. A lane that does not execute has no page: the instruction's own width
decides the run of a permuted source that it releases there (log 73). `late` lanes release their data run once its format is known (log 91). -/
def releaseMem (s : State) (c : Crew) (mask em : Mask) (d : MemDesc) (late : Mask := 0) : Crew :=
  (lanesOf mask).foldl (fun k l =>
    (if late.getLsbD l then d.places else d.uses (if em.getLsbD l then fmtOfLane s c mask d l else 0)).foldl (fun k p => releaseSrc (mask &&& BitVec.ofNat 32 (2 ^ l))
      (em &&& BitVec.ofNat 32 (2 ^ l)) false p.1 p.2 k) k) c

/-- ILLEGAL of a memory instruction in the registers of its lanes, whose runs depend on the lane (R135, R176): it comes before every fault
of execution, so every lane that executes is judged. -/
def memIllegal (s : State) (c : Crew) (mask em : Mask) (pc : DWord) (d : MemDesc) : Option Stop :=
  let st := fmtOfLane s c mask d
  /- a lane whose lookup failed has no format to judge its registers by -/
  let sure := fun l => match pageOf s c mask d l with | .ok _ => true | .error (.page _ _ _) => true | .error _ => false
  let judged := (lanesOf em).filter sure
  if judged.any (fun l => (d.uses (st l)).any (fun p => (c.thread l).reads p.2 && srcBad5 p.1 p.2)) then some (illegalTrap mask pc 5)
  else if judged.any (fun l => d.regsBad (c.thread l) (st l)) then some (illegalTrap mask pc 6)
  else none

/-- Registers of a run that a write takes entries for, in a lane whose page is absent: a spilled one keeps its value until the run is known
(log 91). -/
def lateDst (t : Thread) (ns : List Nat) : List Nat :=
  ns.filter (fun n => match t.reg? n with | some r => r.st.entry || r.pend | none => true)

/-- The operand checks of a memory instruction, as of a lane instruction, with lane-dependent runs. A hint only waits for its operands, and
not in the lanes `out` that it drops. -/
def memCheck (s : State) (c : Crew) (mask em out : Mask) (pc : DWord) (d : MemDesc) : Option Stop :=
  let st := fmtOfLane s c mask d
  let uses := fun l => if out.getLsbD l then butSrcs (d.gaps (c.thread l) (st l)) (d.uses (st l)) else d.uses (st l)
  let good := em &&& ~~~out
  let reads := if d.hint then good else em
  let rd := fun l => readLane s c mask (uses l) l
  let late := maskOf ((pageLanes s c mask em d).map (·.1))
  /- the words of a store whose page is absent are judged once its format is known -/
  let sure := fun l => if late.getLsbD l then readLane s c mask d.places l else rd l
  let dst := fun l =>
    let ns := dstRegs (c.thread l) d.f.h.dst.toNat (d.dk (fmtOfLane s c mask d l))
    if late.getLsbD l then lateDst (c.thread l) ns else ns
  match memIllegal s c mask em pc d with
  | some x => some x
  | none =>
    if (lanesOf reads).any (fun l => s.flagsWait c mask (uses l) l) then some (.stall .dep)
    else if d.hint then (if (lanesOf reads).any (fun l => (rd l).regs.any (regBlocked c)) then some (.stall .dep) else none)
    else if (lanesOf late).any (fun l => reads.getLsbD l && (rd l).regs.any (regBlocked c)) then some (.stall .dep)
    else valueCheck s c reads good out pc (fun l => ((sure l).regs, (sure l).zread))
      (fun l => releasedRegs (c.thread l) (if late.getLsbD l then d.places else uses l)) dst

/-- Lanes that take INDEX_BOUND at a memory instruction. -/
def memOut (s : State) (c : Crew) (mask em : Mask) (d : MemDesc) : Mask :=
  lanesIf em (fun l =>
    let st := fmtOfLane s c mask d l
    let t := c.thread l
    !(t.outSrcs (d.uses st)).isEmpty || d.dstOut t st)

/-- Lanes of a hint that are dropped for their operands: outside a window, poisoned, or unmapped in a strict region. A hint takes no fault
but ILLEGAL and GATE_SPACE (R190; DESIGN CHOICE, log 84). -/
def hintDrop (s : State) (c : Crew) (mask em : Mask) (d : MemDesc) : Mask :=
  let out := memOut s c mask em d
  out ||| lanesIf (em &&& ~~~out) (fun l =>
    let r := readLane s c mask (d.uses 0) l
    r.regs.any (regBad c) || r.zread && (s.teamOf c).strict)

/-- Whether a crew has an open record for a page of its ASID (R304). -/
def State.openPage (s : State) (serial crew asid va : Nat) : Bool :=
  let hit := fun (r : Rec) => r.serial == serial && r.crew == crew && r.page == some (asid, va)
  s.cp.faultQ.any hit || s.cp.rings.any (fun g => g.recs.any (fun x => !x.ended && hit x.fault))

/-- Open one record for each page that lanes of an instruction wait for, unless the crew has one open (R304). Lanes are given
with the page and the address. -/
def State.pageRecords (s : State) (c : Crew) (pc : DWord) (ls : List (Nat × Nat × Nat)) : State :=
  ((ls.map (fun x => x.2.1)).eraseDups).foldl (fun s va =>
    if s.openPage c.team c.id c.asid va then s
    else
      let mine := inOrder (fun (a b : Nat × Nat × Nat) => decide (a.1 ≤ b.1)) (ls.filter (fun x => x.2.1 == va))
      let (rid, s) := s.fresh
      s.sendRec { s.recOf c { cause := .pageAbsent, lmask := maskOf (mine.map (·.1)), pc := pc
                              addr := match mine.head? with | some x => x.2.2 | none => va } rid with page := some (c.asid, va) }) s

/-- The access of one lane from its plan, or one that waits for its page. -/
def mkAcc (s : State) (c : Crew) (i : Instr) (d : MemDesc) (id group lane st slots : Nat) (pc : DWord) (vals : List Nat)
    (r : LaneRes) : Option Acc :=
  let t := s.teamOf c
  let dst := d.f.h.dst.toNat
  let base : Acc :=
    { id := id, group := group, serial := c.team, crew := c.id, lane := lane, core := c.core, ctx := t.ctx, pc := pc, ins := i
      kind := d.kind, units := [], addr := 0, foot := [], acq := d.acq, rel := d.rel, scope := d.f.scp.toNat, sfmt := st
      rd := d.f.rd.toNat, dst := if dst == 255 || !isXreg dst then none else some (namedReg (c.thread lane) dst)
      nreg := d.dk st, vals := vals, hold := .none, slots := slots, gdepth := c.gdepth, phys := d.phys }
  match r with
  | .ok p =>
    let a := { base with units := p.units, sfmt := p.sfmt, addr := p.addr, foot := p.foot }
    some { a with hold := s.holdOf t a }
  | .page va addr foot => some { base with addr := addr, foot := foot, hold := .page va, paged := true }
  | _ => none

/-- Under `.page` the storage format of a lane's page decides its registers: the instruction waits for the address operands and for the
lookups of their pages before its operands are judged (R176). An odd pair among the address operands is ILLEGAL before that (R45). -/
def pageWait (s : State) (c : Crew) (iss : Issue) (em : Mask) (d : MemDesc) : Option State :=
  if d.f.pg != 1 then none
  else if oddAt c em d.places 255 1 false then some (s.stopped iss.crew iss (illegalTrap iss.mask iss.pc 6))
  else
    let ins := lanesIf em (fun l => ((c.thread l).outSrcs d.places).isEmpty)
    if (lanesOf ins).any (fun l => (readLane s c iss.mask d.places l).regs.any (regBlocked c)) then
      some (s.stopped iss.crew iss (.stall .dep))
    else
      let ms := (lanesOf em).filterMap (fun l => match pageOf s c iss.mask d l with | .error (.miss v) => some v | _ => none)
      if ms.isEmpty then none
      else some ((ms.foldl (fun s v => s.lookup c v) s).stopped iss.crew iss (.stall .xlate))

/-- What a lane keeps while the page that decides its registers is absent (log 91). `st` is the format by whose run it was read. -/
def lateOf (s : State) (c : Crew) (mask : Mask) (d : MemDesc) (l st : Nat) : Late :=
  let t := c.thread l
  let dst := d.f.h.dst.toNat
  let run := (d.uses st).filter (fun u => match u.1 with | .run _ _ => true | _ => false)
  let read := run.filter (fun u => t.reads u.2)
  let code := match run with | u :: _ => u.2.code.toNat | [] => dst
  let i := ((t.idx[code - 192]?).getD 0).toNat
  let own := (List.range (d.runLen st)).map (fun j => namedReg t code + j)
  let regs := read.flatMap (fun u => (readSrc s c mask l u.1 u.2).regs)
  let marks := fun (p : Nat × Nat → Bool) => (regs.mapIdx (fun j r => (j, r))).filterMap (fun x => if p x.2 then some x.1 else none)
  { first := namedReg t code, len := d.runLen st
    room := if 192 ≤ code && code < 200 then some (Nat.min (field i 7 7 - field i 16 16) (128 - namedReg t code)) else none
    zero := marks (fun r => r.1 != 32 && (c.thread r.1).unmapped r.2)
    bad := marks (regBad c)
    fresh := if run.isEmpty && isXreg dst then own.filter t.unmapped else []
    last := (read.filter (fun u => u.2.last == 1 && isXreg u.2.code.toNat)).flatMap (fun _ => own.filter (fun n => !t.unmapped n)) }

/-- The registers of a lane that wait for the format of its page: those that a load may write, those that a store may release. -/
def Thread.awaitRun (t : Thread) (x : Late) (load : Bool) : Thread :=
  (if load then (List.range x.len).map (x.first + ·) else x.last).foldl Thread.awaitReg t

/-- The registers of a lane once the run has `n` of them: those outside it are what they were, those that the run releases go (R47). -/
def Thread.settleRun (t : Thread) (x : Late) (load : Bool) (n : Nat) : Thread :=
  let mine := fun (r : Nat) => decide (x.first ≤ r && r < x.first + n)
  if load then
    let t := (x.fresh.filter (fun r => !mine r)).foldl Thread.release t
    ((List.range x.len).map (x.first + ·)).foldl (fun t r =>
      if mine r then { t with regs := t.regs.map (fun q => if q.n == r then { q with keep := false } else q) } else t.leaveReg r) t
  else x.last.foldl (fun t r => if mine r then t.release r else t.leaveReg r) t

/-- The fault that the registers of a lane take once the format of its page is known, in the order of R135 and R173 (log 91). -/
def MemDesc.lateStop (d : MemDesc) (x : Late) (strict : Bool) (st : Nat) : Option (Cause × Nat) :=
  let n := d.runLen st
  let two := (runOf d.f d.strided st).2
  let dst := d.f.h.dst.toNat
  if (match x.room with | some r => decide (n > r) | none => false) then some (.indexBound, 0)
  else if (d.uses st).any (fun p => srcBad5 p.1 p.2) then some (.illegal, 5)
  else if dst < 128 && dst + d.dk st > 128 || (d.uses st).any (fun p => srcBad6 p.1 p.2) || d.pack st || two && x.first % 2 == 1
    && (x.room.isSome || dst < 128 && d.dpair st) then some (.illegal, 6)
  else if x.bad.any (fun j => decide (j < n)) then some (.poison, 3)
  else if strict && x.zero.any (fun j => decide (j < n)) then some (.zreadStrict, 0)
  else none

/-- Whether a lane has read an unmapped register of its run (R48). -/
def MemDesc.lateZero (d : MemDesc) (x : Late) (st : Nat) : Bool := x.zero.any (fun j => decide (j < d.runLen st))

/-- The lanes whose pages are being looked up go on on a prediction, where each of those pages has one: their accesses are held (R303). Under
`.page`, whose format only the leaf gives, and for a hint, the instruction waits (log 99). -/
def predicts (s : State) (c : Crew) (d : MemDesc) (misses : List Nat) : Bool := misses.all (s.guessed c) && d.f.pg != 1 && !d.hint

/-- Issue a memory instruction in its lanes (R173). Lanes in `absent` have no page that decides their registers: they wait with the
longest run that suits them (log 91). -/
def issueLanes (i : Instr) (s : State) (iss : Issue) (c : Crew) (d : MemDesc) (em : Mask) (absent : List (Nat × Nat × Nat)) : State :=
  let out := if d.hint then hintDrop s c iss.mask em d else memOut s c iss.mask em d
  match memCheck s c iss.mask em out iss.pc d with
  | some x => s.stopped iss.crew iss x
  | none =>
    let st := fmtOfLane s c iss.mask d
    let rd := fun l => readLane s c iss.mask (d.uses (st l)) l
    let lanes := lanesOf (em &&& ~~~out)
    let looked := blockRule (lanes.map (fun l => (l, d.plan s c l (rd l).vals)))
    let misses := looked.filterMap (fun p => match p.2 with | .miss v => some v | _ => none)
    let s0 := misses.foldl (fun s v => s.lookup c v) s
    let early := fun (l : Nat) => looked.any (fun p => p.1 == l && match p.2 with | .miss _ => true | _ => false)
    let plans : List (Nat × LaneRes) := looked.map (fun p => match p.2 with | .miss _ => (p.1, d.plan (s.asAbsent c misses) c p.1 (rd p.1).vals) | _ => p)
    let slots := (lanes.map (fun l => d.slots (st l))).foldl Nat.max 0
    if !misses.isEmpty && !predicts s0 c d misses then s0.stopped iss.crew iss (.stall .xlate)
    else if s.slotsHeld c.team c.id + slots > Config.logSlots then s.stopped iss.crew iss (.stall .struct)
    else
      let bad : List LaneFault := (if d.hint then [] else faultsOf out .indexBound 0)
        ++ plans.filterMap (fun p => match p.2 with | .fault k sub a => some (p.1, k, sub, a) | _ => none)
      let pages := plans.filterMap (fun p => match p.2 with | .page va a _ => if early p.1 then none else some (p.1, va, a) | _ => none)
      let fm := maskOf (bad.map (·.1))
      let good := em &&& ~~~fm
      let late := maskOf ((pages.filter (fun x => absent.any (fun y => y.1 == x.1))).map (·.1))
      let keep := fun l => lateOf s c iss.mask d l (st l)
      let (group, s1) := s0.fresh
      let mk := plans.foldl (fun (acc : State × List Acc) p =>
        match mkAcc s c i d acc.1.nextId group p.1 (st p.1) slots iss.pc (rd p.1).vals p.2 with
        | some a => ({ acc.1 with nextId := acc.1.nextId + 1 }, acc.2 ++ [if early p.1 then { a with hold := .predict }
            else if late.getLsbD p.1 then { a with late := some (keep p.1) } else a])
        | none => acc) (s1, [])
      let flags := fun l => match plans.find? (fun p => p.1 == l) with | some (_, .ok p) => p.flags | _ => 0
      let dst := d.f.h.dst.toNat
      let past := if d.hint then 0 else out
      let c1 := releaseMem s c (iss.mask &&& ~~~past) (em &&& ~~~out) d late
      let c2 := c1.modLanes (good &&& ~~~out) (fun l t =>
        if late.getLsbD l then
          (t.raise (readFlags { rd l with zread := (readLane s c iss.mask d.places l).zread })).awaitRun (keep l) (d.kind == .load)
        else (dstRegs t dst (d.dk (st l))).foldl Thread.pendReg (t.raise (orF (flags l) (readFlags (rd l)))))
      let c3 := (c2.modLanes (fm &&& ~~~out) (fun l t => (t.raise (readFlags (rd l))).keep (rd l).vals)).modLanes past (fun l t =>
        let gaps := d.gaps (c.thread l) (st l)
        t.log (d.uses (st l)) gaps (readLane s c iss.mask (butSrcs gaps (d.uses (st l))) l))
      let c3 := if fm == 0 then c3 else c3.keepLog { pc := iss.pc, ins := i, slots := slots, group := group }
      let c4 := c3.advance (iss.mask &&& ~~~fm) s.cycle (fun _ t => t.pc + 16)
      let s2 := (({ (mk.1.modCrew iss.crew (fun _ => c4)) with accs := s.accs ++ mk.2 } : State).tlbHits c
        (mk.2.flatMap (fun a => footVas a.foot)))
      let s3 := if pages.isEmpty && bad.isEmpty && !d.hint then s2 else s2.dropFailed c
      let s4 := s3.pageRecords c iss.pc pages
      if fm == 0 then s4 else s4.stopped iss.crew iss (.trap { trapOf iss.pc bad with group := some group })

/-- Issue a memory instruction for the bundle in `cur` (R173). With the guard false in every lane it only releases its permuted sources
(R47). -/
def issueMem (i : Instr) (s : State) : Host.Outcome State Fault Refusal :=
  match s.cur, memDesc i with
  | some iss, some d =>
    match s.crew? iss.crew with
    | none => .next s
    | some c =>
      let em := guardMask c iss.mask d.f.h
      if em == 0 then
        .next (s.modCrew iss.crew (fun _ => (releaseMem s c iss.mask 0 d).advance iss.mask s.cycle (fun _ t => t.pc + 16)))
      else
        match pageWait s c iss em d with
        | some w => .next w
        | none => .next (issueLanes i s iss c d em (pageLanes s c iss.mask em d))
  | _, _ => .next s

end Sys2Proof.Machine
end

