-- ==== Sys2Proof/Machine/Perform.lean ====
section
/-! DEFINITION. When an access may be performed (05 R112, R117, R110), what it does at its location (R109, R111, R180 to R189),
the faults found there (08 R381), and what its completion writes (R173). -/
namespace Sys2Proof.Machine

/-! ### Order -/

def Acc.done (a : Acc) : Bool := a.hold == .none && a.units.all (·.done)

def Acc.isLoad (a : Acc) : Bool := match a.kind with | .load => true | .atomic => true | .pop => true | _ => false
/-- The access of a CALL or RET (R58). -/
def Acc.isCall (a : Acc) : Bool := match a.kind with | .push _ _ => true | .pop => true | _ => false
/-- Whether an access waits for its page, its replay or the end of its lookup: it has no units, only the ranges it addresses (R124, R303). -/
def Acc.awaits (a : Acc) : Bool := match a.hold with | .page _ => true | .replay => true | .predict => true | _ => false
/-- Whether an access counts as a store for R112 (R191, R225). -/
def Acc.isStore (a : Acc) : Bool :=
  match a.kind with
  | .store => true
  | .atomic => true
  | .bar => true
  | .stsig => true
  | .binv => true
  | .push _ _ => true
  | .clwb => true
  | .clevict => true
  | .epi => true
  | .tile => true
  | _ => false

/-- Whether later stores wait for an access as for a release fence (R112): a FENCE with release, or an ACAS whose release part acts as one
when its compare fails (R183). -/
def Acc.relFence (a : Acc) : Bool := a.rel && match a.ins with | .fence _ => true | .acas _ => true | _ => false

/-- Writes bytes that a later lane of the instruction may cover. -/
def Acc.writes (a : Acc) : Bool := match a.kind with | .load => false | .pop => false | .fence => false | .copy => false | _ => true

def sameThread (a b : Acc) : Bool := a.serial == b.serial && a.crew == b.crew && a.lane == b.lane

/-- Whether an undone unit of b shares a byte with a unit. -/
def Acc.covers (b : Acc) (u : AUnit) : Bool := b.units.any (fun v => !v.done && overlap u.loc u.size v.loc v.size)

/-- Whether two ranges of places share a byte. -/
def rangeHit (a b : Where × Nat) : Bool :=
  match a.1, b.1 with
  | .loc x, .loc y => overlap x a.2 y b.2
  | .va x, .va y => decide (x < y + b.2) && decide (y < x + a.2)
  | _, _ => false

/-- Whether two accesses of one thread address a byte in common. -/
def footHit (a b : Acc) : Bool := a.foot.any (fun x => b.foot.any (rangeHit x))

/-- Whether an earlier access of the same thread keeps a unit from being performed (R112, R124). -/
def blockedBy (a : Acc) (u : AUnit) (b : Acc) : Bool :=
  sameThread a b && decide (b.id < a.id) && !b.done &&
    b.kind != .copy && (b.acq || a.rel || a.kind == .stsig && some u == a.units.getLast?
      || (match a.kind with | .fence => a.acq && b.isLoad | _ => false)
      || b.relFence && a.isStore
      || b.covers u || b.awaits && footHit a b)

/-- Whether a lower lane of the same instruction writes the same byte first (R110, R178). A lane that a fault holds has no effect, and
comes after the others when it is performed again (R381). -/
def laneBefore (a : Acc) (k : Nat) (u : AUnit) (b : Acc) : Bool :=
  a.writes && b.group == a.group &&
    (decide (b.lane < a.lane) && (match b.hold with | .fault _ => false | _ => b.covers u || b.awaits && footHit a b)
      || b.lane == a.lane && (a.units.take k).any (fun v => !v.done && overlap u.loc u.size v.loc v.size))

/-- Whether an engine may take lines in G for an operation of a thread: no other engine holds one, and the accesses that the thread issued
before to them are performed; one that waits for its page may be among them (R117, R112). -/
def State.linesFree (s : State) (id serial crew lane : Nat) (lines : List Nat) : Bool :=
  !lines.any s.gLines.contains && !(!lines.isEmpty && s.accs.any (fun a => a.serial == serial && a.crew == crew && a.lane == lane
    && decide (a.id < id) && ((a.held || a.awaits) && a.kind != .copy
      || a.units.any (fun u => !u.done && match u.loc.line with | some n => lines.contains n | none => false))))

/-- The state of an address's sector in a die's L2. -/
def State.l2State (s : State) (die pa : Nat) : LState :=
  match s.store.l2.find? (fun l => l.die == die && l.line == pa / 1024) with
  | some l => (l.sts[pa / 256 % 4]?).getD LState.i
  | none => .i

/-- Whether a core's die serves a read of n bytes itself, with no request to the fabric: a hit in its L1 or L2, or W bytes (R334). -/
def State.readHere (s : State) (core pa n : Nat) : Bool :=
  let st := s.l2State (dieOf core) pa
  s.store.l1.any (fun x => x.core == core && x.line == pa / 1024 && (x.secs[pa / 256 % 4]?).getD false)
    || st != LState.i && st != LState.w
    || s.store.wsecs.any (fun w => w.die == dieOf core && (List.range n).all (fun j => w.bytes.any (fun c => c.1 == pa + j)))

/-- Whether a die serves an event of an access itself: a read that hits, a write to a sector that it owns or, narrow, that it has in W (R334,
R336). -/
def State.servedHere (s : State) (a : Acc) (u : AUnit) (pa : Nat) : Bool :=
  let st := s.l2State (dieOf a.core) pa
  let owned := st == LState.m || st == LState.e
  !a.phys && match a.kind with
    | .load | .pop => s.readHere a.core pa u.size
    | .store | .push _ _ | .stsig => owned || st == LState.w && s.inW { core := a.core, ctx := a.ctx, scope := a.scope } pa
    | .atomic => owned
    | _ => false

/-- Whether the fabric holds an event of an access, or the pushes that it makes first. -/
def State.unitHeld (s : State) (a : Acc) (k : Nat) (u : AUnit) : Bool :=
  let die := dieOf a.core
  let last := a.kind == .stsig && k + 1 == a.units.length
  (match u.loc with | .phys pa => u.size != 0 && s.fabricHolds (some die) pa && !s.servedHere a u pa | _ => false)
    || (a.rel || last) && decide (a.scope ≥ 3) && s.pushHeld die (fun _ => true)
    || last && s.pushHeld die (fun w => a.units.any (fun v => match v.loc with | .phys q => q / 256 == w.sector | _ => false))

/-- Whether unit k of an access may be performed now. -/
def State.mayPerform (s : State) (a : Acc) (k : Nat) : Bool :=
  match a.units[k]? with
  | none => false
  | some u =>
    let okRec := match s.findTeam a.serial with | none => true | some t => s.recOk t a u
    !u.done && a.hold == .none && !s.unitHeld a k u && !s.inG a.id u && !s.frozen a.ctx && okRec
      && !(s.accs.any (fun b => blockedBy a u b || laneBefore a k u b))
      && !(a.kind == .stsig && k + 1 == a.units.length && (a.units.take k).any (fun v => !v.done))

/-! ### Atomics -/

/-- The new value of an atomic from old M, b and c; none writes nothing; with flags (R180, R182, R183). -/
def atomicOp (i : Instr) (m b c : Nat) : Option Nat × Nat :=
  let it := fun (f : F128M) => ityOf (f.fmt.toNat - 8)
  let wr := fun (x : Nat) => ((some x, 0) : Option Nat × Nat)
  match i with
  | .aadd f => wr ((m + b) % 2 ^ (it f).w)
  | .amin f => wr (if readTy (it f) m ≤ readTy (it f) b then m else b)
  | .amax f => wr (if readTy (it f) m ≤ readTy (it f) b then b else m)
  | .aand _ => wr (andNat m b)
  | .aor _ => wr (orNat m b)
  | .axor _ => wr (xorNat m b)
  | .axch _ => wr b
  | .acas _ => if m == c then wr b else (none, 0)
  | .ainc _ => wr (if m ≥ b then 0 else m + 1)
  | .adec _ => wr (if m == 0 || m > b then b else m - 1)
  | .amaxswap _ => wr 0
  | .afadd f =>
    match f.fmt.toNat with
    | 1 => let r := faddA ffF64 m b; (some r.1, r.2)
    | 2 => let r := faddA ffF32 m b; (some r.1, r.2)
    | k =>
      let F := if k == 3 then ffBF16 else ffF16
      let lo := faddA F (m % 65536) (b % 65536)
      let hi := faddA F (m / 65536 % 65536) (b / 65536 % 65536)
      (some (lo.1 + 65536 * hi.1), orF lo.2 hi.2)
  | .afmin f => let F := if f.fmt == 1 then ffF64 else ffF32; wr (fminmax F false m (if bit f.m 0 then b % 2 ^ F.mw else b))
  | .afmax f => let F := if f.fmt == 1 then ffF64 else ffF32; wr (fminmax F true m (if bit f.m 0 then b % 2 ^ F.mw else b))
  | _ => (none, 0)
where
  readTy (t : ITy) (x : Nat) : Int := intVal t.w t.sg x
  faddA (F : FFmt) (x y : Nat) : FRes :=
    let r := addV (fdecode F x) (fdecode F y)
    let q := fround F r.1
    (q.1, orF q.2 r.2)

/-! ### Barrier objects (R187, R188) -/

/-- A barrier object. -/
structure BarObj where
  phase : Bool
  expc : Nat
  pend : Nat
  bytes : Nat
deriving DecidableEq, Repr

def BarObj.ofNat (x : Nat) : BarObj :=
  { phase := bit x 0, expc := field x 16 16, pend := field x 32 16, bytes := field x 64 64 }

def BarObj.toNat (b : BarObj) : Nat := ofBool b.phase + 2 ^ 16 * b.expc + 2 ^ 32 * (b.pend % 65536) + 2 ^ 64 * (b.bytes % 2 ^ 64)

/-- BarUpdate (R188); none is BAR_COUNT. -/
def barUpdate (o : BarObj) (darr : Nat) (dbytes : Int) (fromCopy : Bool) : Option BarObj :=
  if !fromCopy && (o.expc == 0 || darr > o.pend) then none
  else
    let o := { o with pend := o.pend - darr, bytes := wrap 64 ((o.bytes : Int) + dbytes) }
    if o.expc != 0 && o.pend == 0 && o.bytes == 0 then some { o with phase := !o.phase, pend := o.expc } else some o

/-- What a barrier instruction makes of its object (R189). -/
def barEffect (i : Instr) (vals : List Nat) (o : BarObj) : Option BarObj :=
  match i with
  | .binit _ => some { phase := false, expc := val vals 1 % 65536, pend := val vals 1 % 65536, bytes := 0 }
  | .bexpb f => barUpdate o (if bit f.m 0 then 1 else 0) (val vals 1) false
  | .barr _ => barUpdate o (val vals 1) 0 false
  | .binv _ => some { phase := false, expc := 0, pend := 0, bytes := 0 }
  | _ => some o

/-! ### Completion -/

/-- Virtual address of a register's place in its crew's spill area (R53, R282). -/
def spillVa (t : Team) (crew lvl n lane : Nat) : Nat := t.spb + 81920 * (16 * t.slot + crew) + 16384 * lvl + 4 * (32 * n + lane)

/-- The physical address of a register's place, or PIN_FAULT (R301). -/
def State.spillPa (s : State) (c : Crew) (lvl n lane : Nat) (w : Want) : Except Cause Nat :=
  let t := s.teamOf c
  let x := s.ctxOf t.ctx
  s.pinnedOff c.core x.abase x.secure (spillVa t c.id lvl n lane) 4 w

/-- The fill of a read of a register's place: an access with no reuse distance, through its page (R87, R89). -/
def State.spillFill (s : State) (c : Crew) (lvl n lane : Nat) : Fill :=
  let t := s.teamOf c
  let x := s.ctxOf t.ctx
  s.engineFill c.core x.abase x.secure (spillVa t c.id lvl n lane) t.ctx

/-- Put a loaded word in a register; that of a register which the percolator took while it was pending goes to its place in the spill area
(R52). A register released while it was pending is mapped again (DESIGN CHOICE, log 113). -/
def State.deliverReg (s : State) (k l n v : Nat) : State :=
  match (s.crew? k).bind (fun c => (c.thread l).reg? n) with
  | some r =>
    if r.st == .mapped then s.modThread k l (fun t => t.setReg n (BitVec.ofNat 32 v))
    else s.modThread k l (fun t => { t with regs := t.regs.map (fun x =>
      if x.n == n then { x with v := BitVec.ofNat 32 v, pend := false, keep := false, st := if x.st == .spilling then .spilling else .late } else x) })
  | none => s.modThread k l (fun t => t.setReg n (BitVec.ofNat 32 v))

/-- Register words and flags that a completed access delivers (R177, R180, R189). -/
def Acc.result (a : Acc) : List Nat × Nat :=
  let data := a.units.flatMap (fun u => toBytes u.size u.data)
  let num := ofBytes data
  match a.ins with
  | .ld f => loadRes f false num data
  | .ldm f => loadRes f true num data
  | .ldphys f => loadRes f false num data
  | .bexpb _ => tok
  | .barr _ => tok
  | i =>
    let m := num
    let fl := (atomicOp i m (val a.vals 1) (val a.vals 2)).2
    (if a.nreg == 2 then [m % 2 ^ 32, m / 2 ^ 32] else [m % 2 ^ 32], fl)
where
  /-- the token of R189 -/
  tok : List Nat × Nat :=
    match a.units with
    | [u] => ([(match u.loc with | .scr _ o => o | _ => 0) + u.data % 2], 0)
    | _ => ([], 0)
  loadRes (f : F128M) (strided : Bool) (num : Nat) (data : List Byte) : List Nat × Nat :=
    let e := elemFmt f (if a.phys then 0 else a.sfmt)
    let n := f.n
    let r : List FRes :=
      if strided then a.units.map (fun u => let x := elemFmt f u.sf; moveElem x.sc x.fc x.rw u.data)
      else if e.sc == 7 && e.fc != 7 then
        (List.range n).map (fun j =>
          let el := field num (4 * j) 4
          let sc := ((data.drop (n / 2))[j]?).getD 0
          toCode e.fc 0 (fp4Val sc.toNat el))
      else (List.range n).map (fun j => moveElem e.sc e.fc e.rw (field num (e.sw * j) e.sw))
    (packRegs (if strided then slotBits e.rw else e.rw) (f.pk && !strided) (r.map (·.1)), orAll (r.map (·.2)))

/-- The effects of a CALL or RET whose access has been performed (R58). -/
def Thread.callDone (t : Thread) (target ra : DWord) : Thread :=
  { t with stack := (ra :: t.stack).take 4, depth := t.depth + 1, pc := target, flags := t.flags ||| BitVec.ofNat 32 flCSOVF, relog := none }

def Thread.retDone (t : Thread) (entry : DWord) : Thread :=
  { t with stack := t.stack.drop 1 ++ [entry], depth := t.depth - 1, pc := (t.stack.head?.getD 0), relog := none }

/-- A lane of a CALL or RET goes on (R58). -/
def State.callReady (s : State) (k l : Nat) : State :=
  match s.crew? k with
  | none => s
  | some c =>
    if (c.thread l).st == .stalled then s.modCrew k (fun c => c.wake (BitVec.ofNat 32 (2 ^ l)))
    else s.modThread k l (fun t => if t.st == .parked then { t with back := .ready } else t)

/-- Registers and flags of a completed access. -/
def State.deliverAcc (s : State) (k : Nat) (a : Acc) : State :=
  let r := a.result
  let s := match a.dst with
    | some n => (List.range r.1.length).foldl (fun (s : State) j => s.deliverReg k a.lane (n + j) (val r.1 j)) s
    | none => s
  let mine := fun (n : Nat) => match a.dst with | some d => decide (d ≤ n) && decide (n < d + a.nreg) | none => false
  s.modThread k a.lane (fun t => { t.raise r.2 with regs := t.regs.map (fun x => if mine x.n then { x with pend := false } else x) })

/-- Whether a thread has exited: nothing of it is written (R159). -/
def State.exited (s : State) (k lane : Nat) : Bool :=
  match s.crew? k with | some c => (c.thread lane).st == .exited | none => true

/-- A completed access of a lane: registers, flags, call stack. -/
def State.finishAcc (s : State) (a : Acc) : State :=
  match s.crewAt a.serial a.crew with
  | none => s
  | some k =>
    if s.exited k a.lane then s else
    match a.kind with
    | .load => s.deliverAcc k a
    | .atomic => s.deliverAcc k a
    | .bar => s.deliverAcc k a
    | .push target ra => (s.modThread k a.lane (fun t => t.callDone target ra)).callReady k a.lane
    | .pop =>
      let v := match a.units with | u :: _ => BitVec.ofNat 64 u.data | [] => 0
      (s.modThread k a.lane (fun t => t.retDone v)).callReady k a.lane
    | _ => s

/-- When every lane of an instruction has performed, its registers are written and its slots are freed (R173, R305). Of a CALL or RET,
the lanes that no fault or page holds go on without the others (R157). -/
def State.finishGroup (s : State) (group : Nat) : State :=
  let g := s.accs.filter (fun a => a.group == group && !(a.isCall && a.held))
  if g.all Acc.done then
    g.foldl State.finishAcc { s with accs := s.accs.filter (fun a => !(a.group == group && !(a.isCall && a.held))) }
  else s

/-! ### Performing -/

def State.modAcc (s : State) (id : Nat) (f : Acc → Acc) : State :=
  { s with accs := s.accs.map (fun a => if a.id == id then f a else a) }

def State.unitDone (s : State) (a : Acc) (k data : Nat) : State :=
  (s.modAcc a.id (fun a => { a with units := a.units.modify k (fun u => { u with data := data, done := true }) })).finishGroup a.group

/-- The record of a fault that other lanes of the same issue have met; none is delivered while a lane may still meet one (R331, log 74). -/
def State.openFault (s : State) (group : Nat) : Option Rec := s.cp.faultQ.find? (fun r => r.group == some group)

/-- A record that lanes of its instruction join: the lowest lane's cause stands (R331). -/
def Rec.join (r : Rec) (t : Trap) : Rec :=
  let r' := { r with lmask := r.lmask ||| t.lmask }
  match (lanesOf r.lmask).head?, (lanesOf t.lmask).head? with
  | some l, some m => if m < l then { r' with cause := t.cause, sub := t.sub, addr := BitVec.ofNat 64 t.addr, info := 0 } else r'
  | _, _ => r'

/-- Lanes of an issue fault: they join the record of the issue's other lanes where it is still to be delivered, else the crew is parked with
one (R331). -/
def State.groupFault (s : State) (k group : Nat) (t : Trap) : State :=
  match s.openFault group with
  | some r => { s with cp := { s.cp with faultQ := s.cp.faultQ.map (fun x => if x.rid == r.rid then x.join t else x) } }
  | none => s.takeFault k { t with group := some group }

/-- A fault found when an access is performed (R381): its lanes are held for the handler, and the crew is parked where it stands. `why` gives
the sub-cause in each lane that meets it (R331). -/
def State.lateFault (s : State) (a : Acc) (cause : Cause) (why : Acc → Option Nat) : State :=
  match s.crewAt a.serial a.crew with
  | none => { s with accs := s.accs.filter (fun b => b.id != a.id) }
  | some k =>
    let mine := s.accs.filter (fun b => b.group == a.group && b.hold == .none && !b.done && (b.id == a.id || (why b).isSome))
    let rid := match s.openFault a.group with | some r => r.rid | none => s.nextId
    let s1 : State := { s with accs := s.accs.map (fun (b : Acc) => if mine.any (fun m => m.id == b.id) then { b with hold := .fault rid } else b) }
    (s1.finishGroup a.group).groupFault k a.group (trapOf a.pc (mine.map (fun b => (b.lane, cause, (why b).getD 0, b.addr))))

/-- Whether the lanes of a store cover n bytes in one instruction (R321). -/
def State.coversAll (s : State) (group lo n : Nat) : Bool :=
  let us := (s.accs.filter (fun b => b.group == group && b.hold == .none)).flatMap (·.units)
  (List.range n).all (fun j => us.any (fun u => match u.loc with
    | .phys pa => pa ≤ lo + j && lo + j < pa + u.size
    | _ => false))

/-- Whether the lanes of a store cover a whole sector in one instruction (R321). -/
def State.coversSector (s : State) (group sector : Nat) : Bool := s.coversAll group (256 * sector) 256

/-- Whether a store is performed in a W sector (R109). One whose instruction covers a whole poisoned sector is performed at the home at once,
which R109 allows: the poison is cleared there (DESIGN CHOICE, log 107). -/
def State.viaW (s : State) (a : Acc) (pa : Nat) : Bool :=
  !a.phys && s.inW { core := a.core, ctx := a.ctx, scope := a.scope } pa
    && !(s.store.poison.contains (pa / 256) && s.coversSector a.group (pa / 256))

/-- A narrow store that must first be registered (R336). -/
def State.createsW (s : State) (a : Acc) (u : AUnit) : Bool :=
  match u.loc with
  | .phys pa => s.viaW a pa && !s.store.wsecs.any (fun w => w.die == dieOf a.core && w.sector == pa / 256)
  | _ => false

/-- POISON of a unit that is stored to: it covers part of a poisoned sector or word (R321). -/
def State.storePoison (s : State) (a : Acc) (u : AUnit) : Option Nat :=
  match u.loc with
  | .phys pa =>
    if s.sectorBad (if s.viaW a pa then some (dieOf a.core) else none) (pa / 256) && !s.coversSector a.group (pa / 256) then some 1 else none
  | .dscr _ _ o => if o % 8 == 0 && u.size == 8 then none else s.poisonRead (dieOf a.core) u.loc u.size
  | _ => none

/-- POISON of an atomic's word: the W bytes of its sector are pushed before it reads (R109, R321). -/
def State.homePoison (s : State) (a : Acc) (u : AUnit) : Option Nat :=
  match u.loc with
  | .phys pa => if s.sectorBad none (pa / 256) || !s.store.poison.contains (pa / 256) && s.upsetAt u.loc u.size then some 1 else none
  | l => s.poisonRead (dieOf a.core) l u.size

/-- A physical load first recalls every cached copy of the line (R267). -/
def State.recallFor (s : State) (a : Acc) (u : AUnit) : State :=
  match u.loc, a.phys && a.kind == .load with
  | .phys pa, true => s.recall pa
  | _, _ => s

/-- POISON of a unit (R321): BINIT and BINV store, the other barrier instructions read (R189). -/
def State.unitPoison (s : State) (a : Acc) (u : AUnit) : Option Nat :=
  let read := s.poisonRead (dieOf a.core) u.loc u.size
  match a.kind with
  | .store | .push _ _ => s.storePoison a u
  | .stsig => if some u == a.units.getLast? then s.homePoison a u else s.storePoison a u
  | .bar => (match a.ins with | .binit _ => none | _ => read)
  | .atomic => s.homePoison a u
  | .load | .pop => (s.recallFor a u).poisonRead (dieOf a.core) u.loc u.size
  | _ => none

/-- POISON of a lane, found when a unit of it is performed: all that it has still to perform is judged then (R381). What it has performed
before stays (DESIGN CHOICE, log 92). -/
def State.lanePoison (s : State) (a : Acc) : Option Nat := a.units.findSome? (fun u => if u.done then none else s.unitPoison a u)

/-- The same of a register's place in the spill area: no access of a context is made during its SEEDSET. -/
def State.spillHeld (s : State) (c : Crew) (lvl n lane : Nat) (w : Want) : Bool :=
  let t := s.teamOf c
  let x := s.ctxOf t.ctx
  s.frozen t.ctx || s.pinHeld c.core x.abase x.secure (spillVa t c.id lvl n lane) 4 w

/-- What the translation of a register's place leaves in the TLB. -/
def State.spillUse (s : State) (c : Crew) (lvl n lane : Nat) : State :=
  let t := s.teamOf c
  let x := s.ctxOf t.ctx
  s.engineUse c.core x.abase x.secure [spillVa t c.id lvl n lane]

/-- Fill the caches for a read through a page (R87). -/
def State.fillFor (s : State) (a : Acc) (u : AUnit) : State :=
  match u.loc with
  | .phys pa => if a.phys then (s.recallFor a u).check u.loc u.size else (s.check u.loc u.size).cacheRead { core := a.core, ctx := a.ctx, cls := u.cls, shr := u.shr, rd := a.rd } 0 pa
  | _ => s

/-- A wide release first pushes the W sectors of its die (R109). -/
def State.relPush (s : State) (a : Acc) : State := if a.rel && a.scope ≥ 3 then s.pushDie (dieOf a.core) else s

/-- The writer of a unit, at a scope. -/
def Acc.writer (a : Acc) (u : AUnit) (scope : Nat) (thru : Bool) : Writer :=
  { core := a.core, ctx := a.ctx, scope := scope, cls := u.cls, shr := u.shr, rd := a.rd, thru := thru }

/-- Whether an instruction has nothing more to store, beside one unit, in the block of n bytes that holds an address. -/
def State.lastIn (s : State) (a : Acc) (u : AUnit) (n pa : Nat) : Bool :=
  s.accs.all (fun b => b.group != a.group || b.units.all (fun v =>
    v.done || b.id == a.id && v == u || match v.loc with | .phys q => q / n != pa / n | _ => true))

/-- Whether a unit of a physical access lies where no tower holds a byte (R267, R332, log 77). -/
def Acc.nowhere (a : Acc) (s : State) (u : AUnit) : Bool := a.phys && match u.loc with | .phys pa => (s.partAt pa).isNone | _ => false

/-- Write a unit of a store. A poisoned sector that the instruction has now covered is clean, a codeword that it has covered has new check
bits; bytes that rest in a W sector do neither before their push (R109, R125, R324). -/
def State.storeUnit (s : State) (a : Acc) (u : AUnit) : State :=
  let w := a.writer u a.scope true
  let data := toBytes u.size u.data
  match u.loc with
  | .phys pa =>
    if s.viaW a pa then s.wWrite w pa data
    else
      let s := if a.phys then (s.recall pa).pkgWrite none pa data else s.pkgWrite (some w) pa data
      let s := if s.lastIn a u 256 pa && s.coversSector a.group (pa / 256) then s.clearPoison (pa / 256) else s
      if s.lastIn a u 64 pa && s.coversAll a.group (pa / 64 * 64) 64 then s.recode none (· == pa / 64) else s
  | l => (s.writeLoc w l data).clearWord l u.size

/-- An atomic read and write of a unit: the W bytes of its sector come first, at a home in another stack those of its whole line in every die, the
issuing one among them; the line is owned whether or not a value is written (R111, R181, R183). Gives the value read. -/
def State.atomicUnit (s : State) (a : Acc) (u : AUnit) (f : Nat → Option Nat) : State × Nat :=
  let w := a.writer u 5 false
  let s := s.check u.loc u.size
  let s := match u.loc with
    | .phys pa =>
      if s.homeStack pa == some (s.stackOfCore a.core) then s.pushFor (some w) pa u.size else s.pushIf (fun x => x.sector / 4 == pa / 1024)
    | _ => s
  let m := ofBytes (s.readLoc (dieOf a.core) u.loc u.size)
  match f m, u.loc with
  | some v, l => (s.writeLoc w l (toBytes u.size v), m)
  | none, .phys pa => (s.ownSector (some w) (pa / 256), m)
  | none, _ => (s, m)

/-- The payload of an STSIG is at its home before the signal is performed: what rests of it in W sectors is pushed, and a wide signal
pushes its die (R109, R121). -/
def State.payloadPush (s : State) (a : Acc) : State :=
  if a.scope ≥ 3 then s.pushDie (dieOf a.core)
  else s.pushIf (fun w => w.die == dieOf a.core && a.units.dropLast.any (fun v => match v.loc with
    | .phys pa => pa / 256 == w.sector
    | _ => false))

/-- The state of a sector after its write-back (R190). -/
def cleaned (x : LState) : LState := match x with | .m => .e | .o => .s | x => x

/-- CLWB of a line: the W sectors of the die are pushed, dirty sectors of its L2 and of the last-level cache are written back; CLEVICT then
invalidates the line in the die and in the last-level cache of its home (R190). -/
def State.cleanLine (s : State) (die pa : Nat) (evict : Bool) : State :=
  let s := s.pushIf (fun w => w.die == die && w.sector / 4 == pa / 1024)
  let here := fun (l : L2Line) => l.die == die && l.line == pa / 1024
  let home := fun (x : LlcLine) => !x.ten && some x.stack == s.homeStack pa && x.line == pa / 1024
  if evict then
    { s with store := { s.store with
        l2 := s.store.l2.filter (fun l => !here l)
        l1 := s.store.l1.filter (fun x => !(dieOf x.core == die && x.line == pa / 1024))
        llc := s.store.llc.filter (fun x => !home x) } }
  else
    { s with store := { s.store with
        l2 := s.store.l2.map (fun (l : L2Line) => if here l then { l with sts := l.sts.map cleaned } else l)
        llc := s.store.llc.map (fun (x : LlcLine) => if home x then { x with sts := x.sts.map cleaned } else x) } }

/-! ### Writes of accumulator entries (R224, R225) -/

/-- Whether one of the 64 rows, whose 8-byte units begin at the given places, covers a whole block of m bytes: a sector, a codeword (R224). -/
def sectorWhole (l : List Loc) (m block : Nat) : Bool :=
  let n := l.length / 64
  (List.range 64).any (fun i =>
    let r := (l.drop (i * n)).take n
    (List.range (m / 8)).all (fun k => r.contains (.phys (m * block + 8 * k))))

/-- An entry has met poison at a place that it writes after its start (R224). -/
def State.entryPoisoned (s : State) (id : Nat) : State :=
  { s with accq := s.accq.map (fun (x : AccEntry) => if x.id == id && x.poison.isNone then { x with poison := some 2 } else x) }

/-- Write one unit of an AST or AEPI; a part of a poisoned sector is not written, a codeword that a row covers has new check bits (R224,
R321, R324). -/
def State.tileStore (s : State) (a : Acc) (rows : List Loc) (u : AUnit) : State :=
  let w := a.writer u 5 false
  match u.loc with
  | .phys pa =>
    if s.sectorBad none (pa / 256) && !sectorWhole rows 256 (pa / 256) then s.entryPoisoned a.id
    else
      let s := s.pkgWrite (some w) pa (toBytes u.size u.data)
      let last := fun (n : Nat) => a.units.all (fun v => v.done || v == u || match v.loc with | .phys q => q / n != pa / n | _ => true)
      let s := if last 256 && sectorWhole rows 256 (pa / 256) then s.clearPoison (pa / 256) else s
      if last 64 && sectorWhole rows 64 (pa / 64) then s.recode none (· == pa / 64) else s
  | l => (s.writeLoc w l (toBytes u.size u.data)).clearWord l u.size

/-- The amax update of R224: FMax into the word, as an atomic. A word poisoned after issue is left as it is. -/
def State.tileAmax (s : State) (a : Acc) (u : AUnit) : State :=
  if (s.poisonRead (dieOf a.core) u.loc u.size).isSome then s.entryPoisoned a.id
  else (s.atomicUnit a u (fun m => some (fminmax ffF32 true m u.data))).1

/-- Perform unit k of the writes of an entry. -/
def State.tileUnit (s : State) (a : Acc) (u : AUnit) : State :=
  if u.size == 8 then s.tileStore a ((a.units.filter (fun v => v.size == 8)).map (·.loc)) u else s.tileAmax a u

/-- Perform unit k of an access that may be performed (R108, R109, R111, R188). A line hint at a sector that is poisoned then is dropped (R190,
R381); the poison of the line's other sectors does not count (DESIGN CHOICE, log 122). -/
def State.performUnit (s : State) (a : Acc) (k : Nat) : State :=
  match a.units[k]? with
  | none => s
  | some u =>
    if (s.lanePoison a).isSome then (a.units.foldl (fun s u => (s.recallFor a u).check u.loc u.size) s).lateFault a .poison s.lanePoison
    else
      let s := match s.findTeam a.serial, a.recFirst u with
        | some t, some w => s.recNote t a.crew a.lane w
        | _, _ => s
      match a.kind with
      | .load | .pop =>
        if a.nowhere s u then ({ s with freeCtr := s.freeCtr + 1 } : State).unitDone a k ((Config.free s.freeCtr).toNat % 2 ^ (8 * u.size))
        else
          let s := s.fillFor a u
          (s.unitDone a k (ofBytes (s.readLoc (dieOf a.core) u.loc u.size)))
      | .store | .push _ _ => (if a.nowhere s u then s.relPush a else (s.relPush a).storeUnit a u).unitDone a k u.data
      | .atomic =>
        let r := (s.relPush a).atomicUnit a u (fun m => (atomicOp a.ins m (val a.vals 1) (val a.vals 2)).1)
        r.1.unitDone a k r.2
      | .bar | .binv =>
        let s := s.relPush a
        let m := ofBytes (s.readLoc (dieOf a.core) u.loc 16)
        match barEffect a.ins a.vals (BarObj.ofNat m) with
        | none => s.lateFault a .barCount (fun b => if b.id == a.id then some 0 else none)
        | some o => ((s.writeLoc (a.writer u 5 false) u.loc (toBytes 16 o.toNat)).clearWord u.loc 16).unitDone a k m
      | .stsig =>
        if k + 1 == a.units.length then
          let inc := match a.ins with | .stsig f => field f.m 1 5 | _ => 0
          let r := (s.payloadPush a).atomicUnit a u (fun m => some ((m + inc) % 2 ^ (8 * u.size)))
          r.1.unitDone a k r.2
        else (s.storeUnit a u).unitDone a k u.data
      | .fence => (s.relPush a).unitDone a k 0
      | .tile => (s.tileUnit a u).unitDone a k u.data
      | .epi | .copy => s
      | .clwb | .clevict =>
        match u.loc with
        | .phys pa => (if s.store.poison.contains (pa / 256 + u.data) then s else s.cleanLine (dieOf a.core) pa (a.kind == .clevict)).unitDone a k 0
        | _ => s.unitDone a k 0

/-- The access with an identifier. -/
def State.acc? (s : State) (id : Nat) : Option Acc := s.accs.find? (fun a => a.id == id)

/-- Perform a unit of an access of a kind, if it may be performed. -/
def State.tryPerform (s : State) (id k : Nat) (p : Acc → AUnit → Bool) : State :=
  match s.acc? id with
  | none => s
  | some a =>
    match a.units[k]? with
    | none => s
    | some u => if p a u && s.mayPerform a k then s.performUnit a k else s

end Sys2Proof.Machine
end

