-- ==== Sys2Proof/Machine/Memory.lean ====
section
/-! DEFINITION. The meanings of the memory and synchronisation instructions (08 R175 to R191) and of the events that perform
their accesses (95). -/
namespace Sys2Proof.Machine

/-- LD (R177). -/
def execLd (f : F128M) (s : State) : Out := issueMem (.ld f) s
/-- ST (R177). -/
def execSt (f : F128M) (s : State) : Out := issueMem (.st f) s
/-- LDM (R178). -/
def execLdm (f : F128M) (s : State) : Out := issueMem (.ldm f) s
/-- STM (R178). -/
def execStm (f : F128M) (s : State) : Out := issueMem (.stm f) s
/-- AADD (R180). -/
def execAadd (f : F128M) (s : State) : Out := issueMem (.aadd f) s
/-- AMIN (R180). -/
def execAmin (f : F128M) (s : State) : Out := issueMem (.amin f) s
/-- AMAX (R180). -/
def execAmax (f : F128M) (s : State) : Out := issueMem (.amax f) s
/-- AAND (R180). -/
def execAand (f : F128M) (s : State) : Out := issueMem (.aand f) s
/-- AOR (R180). -/
def execAor (f : F128M) (s : State) : Out := issueMem (.aor f) s
/-- AXOR (R180). -/
def execAxor (f : F128M) (s : State) : Out := issueMem (.axor f) s
/-- AXCH (R180). -/
def execAxch (f : F128M) (s : State) : Out := issueMem (.axch f) s
/-- ACAS (R183). -/
def execAcas (f : F128M) (s : State) : Out := issueMem (.acas f) s
/-- AFADD (R182). -/
def execAfadd (f : F128M) (s : State) : Out := issueMem (.afadd f) s
/-- AMAXSWAP (R184). -/
def execAmaxswap (f : F128M) (s : State) : Out := issueMem (.amaxswap f) s
/-- AINC (R180). -/
def execAinc (f : F128M) (s : State) : Out := issueMem (.ainc f) s
/-- ADEC (R180). -/
def execAdec (f : F128M) (s : State) : Out := issueMem (.adec f) s
/-- AFMIN (R182). -/
def execAfmin (f : F128M) (s : State) : Out := issueMem (.afmin f) s
/-- AFMAX (R182). -/
def execAfmax (f : F128M) (s : State) : Out := issueMem (.afmax f) s
/-- STSIG (R186). -/
def execStsig (f : F128M) (s : State) : Out := issueMem (.stsig f) s
/-- BINIT (R189). -/
def execBinit (f : F128M) (s : State) : Out := issueMem (.binit f) s
/-- BEXPB (R189). -/
def execBexpb (f : F128M) (s : State) : Out := issueMem (.bexpb f) s
/-- BARR (R189). -/
def execBarr (f : F128M) (s : State) : Out := issueMem (.barr f) s
/-- BINV (R189). -/
def execBinv (f : F128M) (s : State) : Out := issueMem (.binv f) s
/-- CLWB (R190). -/
def execClwb (f : F128M) (s : State) : Out := issueMem (.clwb f) s
/-- CLEVICT (R190). -/
def execClevict (f : F128M) (s : State) : Out := issueMem (.clevict f) s

/-- The fence of one lane. -/
def fenceAcc (s : State) (c : Crew) (f : F64) (pc : DWord) (group id lane : Nat) : Acc :=
  { id := id, group := group, serial := c.team, crew := c.id, lane := lane, core := c.core, ctx := (s.teamOf c).ctx, pc := pc
    ins := .fence f, kind := .fence, units := [{ loc := .phys 0, size := 0, data := 0, done := false }], addr := 0, foot := []
    acq := bit f.mod.toNat 0, rel := bit f.mod.toNat 1, scope := field f.mod.toNat 2 3, sfmt := 0, rd := 0
    dst := none, nreg := 0, vals := [], hold := .none, slots := 0, gdepth := c.gdepth, phys := false }

/-- FENCE (R185): each executing lane enters a fence that R112 orders. -/
def execFence (f : F64) (s : State) : Out :=
  match s.cur with
  | none => .next s
  | some iss =>
    match s.crew? iss.crew with
    | none => .next s
    | some c =>
      let ls := lanesOf (guardMask c iss.mask f.h)
      let accs := ls.mapIdx (fun j l => fenceAcc s c f iss.pc s.nextId (s.nextId + 1 + j) l)
      let s := { s with nextId := s.nextId + 1 + ls.length, accs := s.accs ++ accs }
      .next (s.modCrew iss.crew (fun c => c.advance iss.mask s.cycle (fun _ t => t.pc + 8)))

/-! ### Hints that act at once -/

/-- The sectors or the line that a hint names in a lane: (physical address, class, SHR), a lookup, or GATE_SPACE (R190). The poison of a line's other
sectors does not count (DESIGN CHOICE, log 122). -/
def hintPlan (f : F128M) (n : Nat) (s : State) (c : Crew) (lane v : Nat) : Except LaneRes (List (Nat × Nat × Bool)) :=
  match laneAddr f v with
  | .error _ => .ok []
  | .ok (sp, o) =>
    if c.gdepth ≥ 1 && sp.barred then .error (.fault .gateSpace 0 (recAddr f v))
    else if !sp.paged then .ok []
    else
      let one := fun (j : Nat) =>
        s.piece c lane .hint sp (if j == 0 then o else o / 256 * 256 + 256 * j) 1 0 []
      let rs := (List.range n).map one
      match rs.findSome? (fun r => match r with | .error (.miss v) => some v | _ => none) with
      | some v => .error (.miss v)
      | none =>
        /- a condition in any sector drops the lane's hint -/
        if rs.any (fun r => match r with | .error _ => true | .ok (.phys pa, _) => s.store.poison.contains (pa / 256) | _ => false) then .ok []
        else .ok (rs.filterMap (fun r => match r with
          | .ok (.phys pa, l) => some (pa, (l.getD default).cls, (l.getD default).shr)
          | _ => none))

/-- The sectors that a hint names in a lane, by their first bytes. -/
def hintFoot (f : F128M) (n : Nat) (s : State) (c : Crew) (lane v : Nat) : List (Where × Nat) :=
  match laneAddr f v with
  | .error _ => []
  | .ok (sp, o) => (List.range n).flatMap (fun (j : Nat) => s.footOf c lane sp (if j == 0 then o else o / 256 * 256 + 256 * j) 1)

/-- Issue a hint whose effect is on caches only (R190). It needs a log slot, which it frees at once (R305). A lane whose operands would
fault is dropped (log 84). `waits` says of what address a hint waits. -/
def runHint (i : Instr) (f : F128M) (n : Nat) (eff : State → Crew → Nat × Nat × Bool → State) (s : State)
    (waits : Crew → Nat → Bool := fun _ _ => false) : Out :=
  match s.cur with
  | none => .next s
  | some iss =>
    match s.crew? iss.crew with
    | none => .next s
    | some c =>
      let d : MemDesc := { lineDesc f .load with plan := fun _ _ _ _ => LaneRes.drop }
      let em := guardMask c iss.mask f.h
      let out := hintDrop s c iss.mask em d
      match memCheck s c iss.mask em out iss.pc d with
      | some x => .next (s.stopped iss.crew iss x)
      | none =>
        let rd := fun l => readLane s c iss.mask [(f.addrUse, f.s1)] l
        let ps := (lanesOf (em &&& ~~~out)).map (fun l => (l, hintPlan f n s c l (val (rd l).vals 0)))
        let misses := ps.filterMap (fun p => match p.2 with | .error (.miss v) => some v | _ => none)
        if !misses.isEmpty then .next ((misses.foldl (fun s v => s.lookup c v) s).stopped iss.crew iss (.stall .xlate))
        else if ps.any (fun p => match p.2 with | .ok l => l.any (fun x => waits c x.1) | .error _ => false) then .next (s.stopped iss.crew iss (.stall .dep))
        else if !ps.isEmpty && s.slotsHeld c.team c.id + 1 > Config.logSlots then .next (s.stopped iss.crew iss (.stall .struct))
        else
          let bad : List LaneFault := ps.filterMap (fun p => match p.2 with | .error (.fault k sub a) => some (p.1, k, sub, a) | _ => none)
          let fm := maskOf (bad.map (·.1))
          let c1 := (releaseMem s c iss.mask (em &&& ~~~out) d).modLanes (em &&& ~~~out) (fun l t => t.raise (readFlags (rd l)))
          let c2 := c1.modLanes fm (fun l t => t.keep (rd l).vals)
          let c2 := if fm == 0 then c2 else c2.keepLog { pc := iss.pc, ins := i, slots := 1, group := s.nextId }
          let s := if fm == 0 then s else { s with nextId := s.nextId + 1 }
          let c3 := c2.advance (iss.mask &&& ~~~fm) s.cycle (fun _ t => t.pc + 16)
          let vas := (lanesOf (em &&& ~~~out)).flatMap (fun l => footVas (hintFoot f n s c l (val (rd l).vals 0)))
          let s1 := ((s.modCrew iss.crew (fun _ => c3)).tlbHits c vas).dropFailed c
          let s2 := (ps.flatMap (fun p => match p.2 with | .ok l => l | _ => [])).foldl (fun s x => eff s c x) s1
          if fm == 0 then .next s2 else .next (s2.stopped iss.crew iss (.trap (trapOf iss.pc bad)))

/-- PREF (R190). It waits while an engine holds a sector's line in G, or the fabric holds the request (R117, R342, R343; log 123). -/
def execPref (f : F128M) (s : State) : Out :=
  runHint (.pref f) f f.n (fun s c x => s.cacheRead
    { core := c.core, ctx := (s.teamOf c).ctx, cls := x.2.1, shr := x.2.2, rd := f.rd.toNat } (field f.m 0 2) x.1) s
    (fun c pa => s.gLines.contains (pa / 1024) || s.fabricHolds (some (dieOf c.core)) pa && !s.readHere c.core pa 1)

/-- CLRRV (R190). -/
def execClrrv (f : F128M) (s : State) : Out :=
  runHint (.clrrv f) f 1 (fun s c x =>
    { s with store := { s.store with
        l2 := s.store.l2.map (fun (l : L2Line) => if l.line == x.1 / 1024 && l.die == dieOf c.core then { l with v := f.rd.toNat } else l)
        llc := s.store.llc.map (fun (l : LlcLine) => if !l.ten && l.line == x.1 / 1024 then { l with v := f.rd.toNat } else l) } }) s

/-! ### Events -/

/-- LOAD_COMPLETE: unit `unit` of a load, an atomic, an arrival or a RET's read is performed, and the registers are written
when every lane of the instruction has performed (R173, R381). -/
def execLoadComplete (id unit : Nat) (s : State) : Out :=
  .next (s.tryPerform id unit (fun a _ => match a.kind with
    | .load => true
    | .atomic => true
    | .pop => true
    | .bar => true
    | _ => false))

/-- HOME_ACKNOWLEDGEMENT: a store, a fence, a payload, a write-back or a unit of an AST or AEPI has been performed at its home (R116, R225). -/
def execHomeAcknowledgement (id unit : Nat) (s : State) : Out :=
  .next (s.tryPerform id unit (fun a u => match a.kind with
    | .store => !s.createsW a u
    | .push _ _ => !s.createsW a u
    | .fence => true
    | .clwb => true
    | .clevict => true
    | .tile => true
    | .stsig => unit + 1 != a.units.length && !s.createsW a u
    | _ => false))

/-- W_SECTOR_REGISTRATION: the narrow store that creates a W sector is performed (R336). -/
def execWSectorRegistration (id unit : Nat) (s : State) : Out :=
  .next (s.tryPerform id unit (fun a u => match a.kind with
    | .store => s.createsW a u
    | .push _ _ => s.createsW a u
    | .stsig => unit + 1 != a.units.length && s.createsW a u
    | _ => false))

/-- W_SECTOR_PUSH: the home merges a W sector of a die (R109, R336), where the fabric does not hold the push (R342, R343); in ZEPHYR and CALM
the dies stand still (R379). -/
def execWSectorPush (die sector : Nat) (s : State) : Out :=
  .next (if s.host.cur == .zephyr || s.host.cur == .calm || s.fabricHolds (some die) (256 * sector) then s
    else s.pushIf (fun w => w.die == die && w.sector == sector))

/-- STSIG_SIGNAL: the release atomic on the signal word, after the payload (R186). -/
def execStsigSignal (id : Nat) (s : State) : Out :=
  match s.acc? id with
  | none => .next s
  | some a => .next (s.tryPerform id (a.units.length - 1) (fun a _ => a.kind == .stsig))

/-- What a lane that is replayed comes to. Where its page decides its registers, these are judged first (log 91). -/
def MemDesc.again (d : MemDesc) (s : State) (c : Crew) (a : Acc) : LaneRes :=
  match a.late, d.fmtAt s c a.lane a.vals with
  | some x, .ok st => match d.lateStop x (s.teamOf c).strict st with
    | some (k, sub) => .fault k sub (if k == .illegal || k == .indexBound then 0 else a.addr)
    | none => d.plan s c a.lane a.vals
  | _, _ => d.plan s c a.lane a.vals

/-- The registers of a lane are known once its page is there (log 91): the access has those of its format's run, the others are what they
were, and a store of words that were unmapped sets ZREAD (R48). -/
def State.settleLate (s : State) (k : Nat) (a : Acc) (st : Nat) : State :=
  match a.late, memDesc a.ins with
  | some x, some d =>
    (s.modAcc a.id (fun a => { a with late := none, nreg := d.dk st })).modThread k a.lane (fun t =>
      (t.settleRun x (d.kind == .load) (d.runLen st)).raise (if d.lateZero x st then flZREAD else 0))
  | _, _ => s

/-- Apply the plans of the lanes of one instruction that are replayed together to their accesses (R306): lookups begin anew, or every lane
performs, waits again with its page's record, or takes its fault, in one record (R173). -/
def replayLanes (s : State) (k : Nat) (c : Crew) (pc : DWord) (ps : List (Acc × LaneRes)) : State :=
  let misses := ps.filterMap (fun p => match p.2 with | .miss v => some v | _ => none)
  if !misses.isEmpty then misses.foldl (fun s v => s.lookup c v) s
  else
    let bad : List LaneFault := ps.filterMap (fun p => match p.2 with | .fault e sub a => some (p.1.lane, e, sub, a) | _ => none)
    let pages := ps.filterMap (fun p => match p.2 with | .page va a _ => some (p.1.lane, va, a) | _ => none)
    let group := match ps with | p :: _ => p.1.group | [] => 0
    let next := s.nextId + ((pages.map (fun x => x.2.1)).eraseDups).length
    let rid := match s.openFault group with | some r => r.rid | none => next
    let s1 := ps.foldl (fun (s : State) p => match p.2 with
      | .ok q =>
        (s.modAcc p.1.id (fun a => { a with
          units := q.units, sfmt := q.sfmt, addr := q.addr, foot := q.foot, core := c.core
          hold := s.holdOf (s.teamOf c) { a with units := q.units } })).modThread k p.1.lane (fun t => t.raise q.flags)
          |> fun s => s.settleLate k p.1 q.sfmt
      | .page va _ foot => s.modAcc p.1.id (fun a => { a with units := [], foot := foot, hold := .page va, paged := true })
      | .fault _ _ _ => s.modAcc p.1.id (fun a => { a with hold := .fault rid })
      | .drop => ({ s with accs := s.accs.filter (fun a => a.id != p.1.id) } : State).finishGroup p.1.group
      | .miss _ | .wait => s) s
    let s2 := (s1.tlbHits c (ps.flatMap (fun p => match p.2 with | .ok q => footVas q.foot | _ => []))).dropFailed c
    let s3 := { s2.pageRecords c pc pages with nextId := next }
    if bad.isEmpty then s3 else s3.groupFault k group (trapOf pc bad)

/-- The plan of the memory access of a CALL or RET (R58): its private offset is kept in `addr`. -/
def planCall (s : State) (c : Crew) (a : Acc) : LaneRes :=
  let w : Want := match a.kind with | .pop => .read | _ => .write
  let foot := s.footOf c a.lane .priv (a.addr : Int) 8
  match s.piece c a.lane w .priv (a.addr : Int) 8 a.addr foot with
  | .error r => r
  | .ok (l, lf) => .ok { units := [AUnit.on lf { loc := l, size := 8, data := val a.vals 0, done := false }], addr := a.addr, foot := foot }

/-- REPLAY_ACCESS_RELEASE: in replay, an access goes on once every recorded source has reached its clock (R359). -/
def execReplayAccessRelease (id : Nat) (s : State) : Out :=
  match s.acc? id with
  | none => .next s
  | some a =>
    if a.hold != .clock then .next s
    else
      match s.findTeam a.serial with
      | some t => if s.replayOk t a.crew a.lane then .next (s.modAcc id (fun a => { a with hold := .none })) else .next s
      | none => .next (s.modAcc id (fun a => { a with hold := .none }))

/-! ### Translation events -/

/-- A lookup ends with a leaf: the core TLB takes it. Accesses held on a prediction are confirmed or squashed then: they are tried again
with the leaf (R303). -/
def State.endLookup (s : State) (q : Lookup) (l : Leaf) : State :=
  { s.fillCore q.core l with store := { (s.fillCore q.core l).store with lookups := s.store.lookups.filter (· != q) } }

/-- Whether the walk of a lookup waits (R117, R297). -/
def State.walkWaits (s : State) (q : Lookup) : Bool := s.walkHeld q.asid q.va

/-- LAST_LEVEL_TLB_LOOKUP: the lookup finds a leaf in the die's TLB, or goes on to a walk (R300, R303). -/
def execLastLevelTlbLookup (core asid va : Nat) (s : State) : Out :=
  match s.store.lookups.find? (fun q => q.core == core && q.asid == asid && q.va == va / 65536 * 65536 && !q.walking && q.failed.isNone) with
  | none => .next s
  | some q =>
    match s.llLeaf (dieOf core) asid q.secure va with
    | some l =>
      let s : State := { s with store := { s.store with llTlb := tlbUse s.store.llTlb (dieOf core) (fun e => e.maps asid q.secure va) } }
      .next (s.endLookup q l)
    | none => .next { s with store := { s.store with lookups := s.store.lookups.map (fun x => if x == q then { x with walking := true } else x) } }

/-- TABLE_WALK_COMPLETE: a walk returns a leaf to every lookup of the die that waits for it, or a fault (R297, R300, R304). -/
def execTableWalkComplete (core asid va : Nat) (s : State) : Out :=
  match s.store.lookups.find? (fun q => q.core == core && q.asid == asid && q.va == va / 65536 * 65536 && q.walking && q.failed.isNone) with
  | none => .next s
  | some q =>
    let mine := s.store.lookups.filter (fun x =>
      dieOf x.core == dieOf core && x.asid == asid && x.secure == q.secure && x.va == q.va && x.walking && x.failed.isNone)
    if s.walkWaits q then .next s
    else
      let s1 := s.walkRecall asid q.va
      match walk s asid q.secure q.va with
      | .ok l => .next (mine.foldl (fun s q => s.endLookup q l) (s1.fillLl (dieOf core) l))
      | .error e =>
        .next { s1 with store := { s1.store with lookups := s.store.lookups.map (fun x => if mine.contains x then { x with failed := some e } else x) } }

end Sys2Proof.Machine
end

