-- ==== Sys2Proof/Machine/Control.lean ====
section
/-! DEFINITION. The control instructions (07 R156 to R162, 02 R58) and the events of meetings, collectives and bundles (01 R14
to R20, R27). -/
namespace Sys2Proof.Machine

/-- PC moved by a signed number of 4-byte units (R156). -/
def relPc (pc : DWord) (i : BitVec 32) : DWord := BitVec.ofNat 64 (wrap 64 ((pc.toNat : Int) + 4 * signed 32 i.toNat))

/-- The fault of a register target (R157): PC_ALIGN comes last (DESIGN CHOICE, log 117). -/
def targetFault (a : Nat) : Option Cause :=
  match decodeAddr a with
  | .error c => some c
  | .ok (.global, _) => if a % 4 != 0 then some .pcAlign else none
  | .ok _ => some .addrWindow

/-- What a lane of a control transfer does: goes on with a changed thread, faults, or makes an access first. -/
inductive Go
  | next (pc : DWord) (f : Thread → Thread)
  | fault (c : Cause)
  | acc (kind : AccKind) (off : Nat) (vals : List Nat)

/-- Issue a control transfer (R156, R157, R58). Lanes whose guard is false go to PC + len. -/
def runCtl (i : Instr) (h : Hdr) (srcs : List (Use × Src)) (len : Nat) (go : Thread → List Nat → Go) (s : State) : Out :=
  match s.cur with
  | none => .next s
  | some iss =>
    match s.crew? iss.crew with
    | none => .next s
    | some c =>
      let em := guardMask c iss.mask h
      match operandCheck s c iss.mask em em iss.pc srcs 255 1 false with
      | some x => .next (s.stopped iss.crew iss x)
      | none =>
        let out := boundLanes c em srcs 255 1
        let rd := fun l => readLane s c iss.mask srcs l
        let gs := (lanesOf (em &&& ~~~out)).map (fun l => (l, go (c.thread l) (rd l).vals))
        let (group, s1) := s.fresh
        let accOf := fun (l : Nat) (kind : AccKind) (off : Nat) (vals : List Nat) =>
          ({ id := group + 1 + l, group := group, serial := c.team, crew := c.id, lane := l, core := c.core, ctx := (s.teamOf c).ctx
             pc := iss.pc, ins := i, kind := kind, units := [], addr := off, foot := [], acq := false, rel := false, scope := 0
             sfmt := 0, rd := 2, dst := none, nreg := 0, vals := vals, hold := .none
             slots := if vals.isEmpty then 1 else 2, gdepth := c.gdepth, phys := false } : Acc)
        let as := gs.filterMap (fun g => match g.2 with | .acc k o v => some (accOf g.1 k o v) | _ => none)
        let plans := as.map (fun a => (a, planCall s c a))
        let misses := plans.filterMap (fun p => match p.2 with | .miss v => some v | _ => none)
        if !misses.isEmpty then .next ((misses.foldl (fun s v => s.lookup c v) s).stopped iss.crew iss (.stall .xlate))
        else if !as.isEmpty && s.slotsHeld c.team c.id + (if as.any (fun a => !a.vals.isEmpty) then 2 else 1) > Config.logSlots then .next (s.stopped iss.crew iss (.stall .struct))
        else
          let bad : List LaneFault := faultsOf out .indexBound 0
            ++ gs.filterMap (fun g => match g.2 with | .fault k => some (g.1, k, 0, 0) | _ => none)
            ++ plans.filterMap (fun p => match p.2 with | .fault k _ a => some (p.1.lane, k, 0, a) | _ => none)
          let good := plans.filterMap (fun p => match p.2 with
            | .ok q => some { p.1 with units := q.units, foot := q.foot }
            | .page va _ foot => some { p.1 with hold := .page va, foot := foot, paged := true }
            | _ => none)
          let fm := maskOf (bad.map (·.1))
          let wait := maskOf (good.map (·.lane))
          let c1 := releaseAll (iss.mask &&& ~~~out) (em &&& ~~~out) false srcs c
          let c2 := c1.modLanes (em &&& ~~~out) (fun l t =>
            match gs.find? (fun g => g.1 == l) with
            | some (_, .next _ f) => f (t.raise (readFlags (rd l)))
            | some (_, .fault _) => t.keep (rd l).vals
            | _ => t.raise (readFlags (rd l)))
          let c3 := c2.modLanes (maskOf ((plans.filter (fun p => match p.2 with | .fault _ _ _ => true | _ => false)).map (fun p => p.1.lane)))
            (fun l t => t.keep (rd l).vals)
          let c3 := c3.logLanes s c iss.mask out (fun _ => srcs)
          let c3 := if as.isEmpty || fm == 0 then c3 else c3.keepLog { pc := iss.pc, ins := i, group := group
                                                                       slots := if as.any (fun a => !a.vals.isEmpty) then 2 else 1 }
          let c4 := (c3.stall wait .call).advance (iss.mask &&& ~~~(fm ||| wait)) s.cycle (fun l t =>
            match gs.find? (fun g => g.1 == l) with
            | some (_, .next pc _) => pc
            | _ => t.pc + BitVec.ofNat 64 len)
          let s2 := ({ (s1.modCrew iss.crew (fun _ => c4)) with nextId := s1.nextId + 32, accs := s1.accs ++ good } : State).tlbHits c
            (good.flatMap (fun a => footVas a.foot))
          let pages := plans.filterMap (fun p => match p.2 with | .page va a _ => some (p.1.lane, va, a) | _ => none)
          let s3 := (if pages.isEmpty && bad.isEmpty then s2 else s2.dropFailed c).pageRecords c iss.pc pages
          if fm == 0 then .next s3 else .next (s3.stopped iss.crew iss (.trap { trapOf iss.pc bad with group := some group }))

/-- A call to a target with a return address (R58). -/
def callGo (t : Thread) (target ra : DWord) : Go :=
  if t.depth ≥ 516 then .fault .callDepth
  else if t.depth ≥ 4 then
    .acc (.push target ra) (8 * (t.depth - 4)) [((t.stack[3]?).getD 0).toNat]
  else .next target (fun t => { t with stack := ra :: t.stack, depth := t.depth + 1 })

/-- BRA (R156). -/
def execBra (f : F96I) (s : State) : Out := runCtl (.bra f) f.h [] 12 (fun t _ => .next (relPc t.pc f.imm) id) s
/-- CALL (R58, R156). -/
def execCall (f : F96I) (s : State) : Out := runCtl (.call f) f.h [] 12 (fun t _ => callGo t (relPc t.pc f.imm) (t.pc + 12)) s
/-- JMP (R156, R157). -/
def execJmp (f : F64) (s : State) : Out :=
  runCtl (.jmp f) f.h [(.w64, f.s1)] 8 (fun _ v => match targetFault (val v 0) with
    | some c => .fault c
    | none => .next (BitVec.ofNat 64 (val v 0)) id) s
/-- CALLX (R58, R157). The target is judged before the depth (DESIGN CHOICE, log 82). -/
def execCallx (f : F64) (s : State) : Out :=
  runCtl (.callx f) f.h [(.w64, f.s1)] 8 (fun t v => match targetFault (val v 0) with
    | some c => .fault c
    | none => callGo t (BitVec.ofNat 64 (val v 0)) (t.pc + 8)) s
/-- RET (R58, R157). -/
def execRet (f : F64) (s : State) : Out :=
  runCtl (.ret f) f.h [] 8 (fun t _ =>
    let ra := t.stack.head?.getD 0
    if t.depth == 0 then .fault .retEmpty
    else if ra.toNat % 4 != 0 then .fault .pcAlign
    else if t.depth ≥ 5 then .acc .pop (8 * (t.depth - 5)) []
    else .next ra (fun t => { t with stack := t.stack.drop 1, depth := t.depth - 1 })) s
/-- NOP (R156). -/
def execNop (f : F64) (s : State) : Out := runCtl (.nop f) f.h [] 8 (fun t _ => .next (t.pc + 8) id) s

/-- MEET (R158): what it writes counts toward meetings from the next cycle, which begins by clearing `mrOld`. -/
def execMeet (f : F96I) (s : State) : Out :=
  runCtl (.meet f) f.h [] 12 (fun t _ => .next (t.pc + 12) (fun t =>
    let t := { t with mrOld := some (t.mrOld.getD (t.mrv, t.mrm)) }
    if bit f.mod.toNat 0 then { t with mrv := false } else { t with mrv := true, mrm := relPc t.pc f.imm })) s

/-- A pad word moves the PC on by 4 and takes no issue slot (R126). -/
def execPadWord (s : State) : Out :=
  match s.cur with
  | none => .next s
  | some iss => .next (s.modCrew iss.crew (fun c =>
      (c.modLanes iss.mask (fun _ t => { t with pc := t.pc + 4, relog := none })).rebundle iss.mask))

/-- EXIT (R159): GATE_EXIT inside a gate call. -/
def execExit (f : F64) (s : State) : Out :=
  match s.cur with
  | none => .next s
  | some iss =>
    match s.crew? iss.crew with
    | none => .next s
    | some c =>
      let em := guardMask c iss.mask f.h
      if em != 0 && c.gdepth ≥ 1 then .next (s.takeFault iss.crew { cause := .gateExit, lmask := em, pc := iss.pc })
      else
        let live := c.live &&& ~~~em
        let s := if live == 0 then s.dropClaim (s.teamOf c).ctx c else s
        .next (s.modCrew iss.crew (fun c =>
          { (c.exitLanes em).advance (iss.mask &&& ~~~em) s.cycle (fun _ t => t.pc + 8) with
            claim := if live == 0 then none else c.claim }))

/-- Issue TRAP or BKPT (R162). A lane outside its window takes INDEX_BOUND and stays at the instruction; the others stand at PC + 8 and take
the trap, in the same record (R323, R331; log 81). `halts` makes a precise stop of the scheduler of what they take (R348). With the guard false
in every lane nothing is released either (R162). -/
def runTrap (f : F64) (halts : State → Crew → Bool) (cause : Cause) (s : State) : Out :=
  match s.cur with
  | none => .next s
  | some iss =>
    match s.crew? iss.crew with
    | none => .next s
    | some c =>
      let em := guardMask c iss.mask f.h
      let srcs : List (Use × Src) := [(.w32, f.s1)]
      match operandCheck s c iss.mask em em iss.pc srcs 255 1 false with
      | some x => .next (s.stopped iss.crew iss x)
      | none =>
        let out := boundLanes c em srcs 255 1
        let go := em &&& ~~~out
        let rd := fun l => readLane s c iss.mask srcs l
        let c0 := if em == 0 then c else releaseAll (iss.mask &&& ~~~out) go false srcs c
        let c1 := c0.modLanes go (fun l t => t.raise (readFlags (rd l)))
        let s1 := s.modCrew iss.crew (fun _ =>
          (c1.advance (iss.mask &&& ~~~out) s.cycle (fun _ t => t.pc + 8)).logLanes s c iss.mask out (fun _ => srcs))
        let s2 := if go != 0 && halts s c then s1.stopSched c.core c.sched 2 else s1
        let fs := faultsOf out .indexBound 0 ++ (if halts s c then [] else faultsOf go cause 0)
        let t := trapOf iss.pc fs
        let info := match lanesOf go with | l :: _ => val (rd l).vals 0 % 65536 | [] => 0
        if fs.isEmpty then .next s2
        else .next (s2.takeFault iss.crew { t with info := if t.cause == cause then info else 0 })

/-- TRAP (R162). -/
def execTrap (f : F64) (s : State) : Out := runTrap f (fun _ _ => false) .userTrap s

/-- Whether a debugger is attached to the region of a crew (R348). -/
def State.attached (s : State) (c : Crew) : Bool :=
  let d := s.debugOf c.core
  d.attEn && d.attCtx == (s.teamOf c).ctx

/-- BKPT (R162): a precise stop of the scheduler when a debugger is attached, else a fault as TRAP's. -/
def execBkpt (f : F64) (s : State) : Out :=
  runTrap f State.attached .breakpoint s

/-! ### Events -/

/-- REGROUP_BOUNDARY: at a multiple of 8 cycles every READY thread of a crew joins those at its PC (R14). -/
def Crew.regroup (c : Crew) : Crew := c.rebundle (c.lanesWhere (fun t => t.st == .ready))

def execRegroupBoundary (s : State) : Out :=
  if s.cycle % 8 == 0 then .next { s with crews := s.crews.map Crew.regroup, regrouped := true } else .next s

/-- The hold limit of R17 in cycles. A limit in ticks is counted as 10 cycles a tick from the arrival: R17 does not say how it falls on
the edges of the reference clock (DESIGN CHOICE, log 79). -/
def holdLimit (cfg : Word) : Nat :=
  let h := field cfg.toNat 0 16
  Nat.max 64 (if bit cfg.toNat 16 then 10 * h else h)

/-- Release the threads held at an address, as one bundle (R16, R18). -/
def Crew.releaseHeld (c : Crew) (m : DWord) (fl : Nat) : Crew :=
  let mask := c.lanesWhere (fun t => t.st == .held && t.pc == m)
  let c := c.modLanes mask (fun _ t => { t.raise fl with mrv := false })
  { (c.wake mask) with holds := c.holds.filter (fun h => h.1 != m) }

/-- HOLD_LIMIT_EXPIRY (R18). -/
def execHoldLimitExpiry (team crew : Nat) (m : DWord) (s : State) : Out :=
  match s.crewAt team crew with
  | none => .next s
  | some k =>
    match s.crew? k with
    | none => .next s
    | some c =>
      if c.holds.any (fun h => h.1 == m && decide (h.2 ≥ holdLimit (s.teamOf c).holdcfg)) then
        .next (s.modCrew k (fun c => c.releaseHeld m flHOLDX))
      else .next s

/-- CONVERGE_TIMEOUT: ILL_CONVERGE sub-cause 3 (R20). The count starts again when the crew is resumed (log 14). -/
def execConvergeTimeout (team crew : Nat) (s : State) : Out :=
  match s.crewAt team crew with
  | none => .next s
  | some k =>
    match s.crew? k with
    | none => .next s
    | some c =>
      match c.coll.find? (fun x => decide (x.2 ≥ holdLimit (s.teamOf c).holdcfg)) with
      | some (p, _) =>
        .next ((s.modCrew k (fun c => { c with coll := c.coll.map (fun x => if x.1 == p then (p, 0) else x) })).takeFault k
          { cause := .illConverge, sub := 3, lmask := c.lanesWhere (fun t => t.st == .cheld && t.pc == p), pc := p })
      | none => .next s

/-- Whether a copy still to be completed writes into a team's scratchpad (R27). -/
def Copy.into (c : Copy) (serial : Nat) : Bool := c.targets.contains serial || c.recvs.any (fun r => r.serial == serial)

/-- SCRATCH_RELEASE: an ended team's scratchpad is released when every copy into it has completed (R27). -/
def execScratchRelease (team : Nat) (s : State) : Out :=
  match s.findTeam team with
  | none => .next s
  | some t =>
    if t.ended && !s.copies.any (fun c => c.into team) then .next (s.modTeam team (fun t => { t with released := true, scr := [] }))
    else .next s

end Sys2Proof.Machine
end

