-- ==== Sys2Proof/Machine/Gate.lean ====
section
/-! DEFINITION. Gate calls (07 R165 to R171): the entry, its checks, GATE, GRET, and the end of a call by a fault domain. -/
namespace Sys2Proof.Machine

/-- A gate-table entry (R165). -/
structure GateEntry where
  valid : Bool
  xworld : Bool
  cworld : Bool
  scrc : Bool
  scrf : Bool
  narg : Nat
  nres : Nat
  rbud : Nat
  asid : Nat
  fdom : Nat
  epc : Nat
  cmask : Nat
  psz : Nat
  pbase : Nat
deriving DecidableEq, Repr

def GateEntry.ofNat (x : Nat) : GateEntry :=
  { valid := bit x 0, xworld := bit x 1, cworld := bit x 2, scrc := bit x 3, scrf := bit x 4, narg := field x 8 5
    nres := field x 13 5, rbud := field x 18 8, asid := field x 32 16, fdom := field x 48 16, epc := field x 64 64
    cmask := field x 128 32, psz := field x 160 16, pbase := field x 192 64 }

/-- Whether the fields of an entry make it valid for a context (R165, R253). -/
def GateEntry.ok (e : GateEntry) (x : Ctx) : Bool :=
  let lo := field x.asids.toNat 0 16
  let n := field x.asids.toNat 16 16
  e.valid && e.narg ≤ 16 && e.nres ≤ 16 && 1 ≤ e.rbud && e.rbud ≤ 128 && e.narg ≤ e.rbud && e.nres ≤ e.rbud
    && e.epc % 4 == 0 && e.epc < 2 ^ 57 && 1 ≤ e.psz && e.psz ≤ 4096 && e.pbase % 4096 == 0
    && lo ≤ e.asid && e.asid < lo + n

/-- The entry in force in a table (R265). -/
def State.gateEntry (s : State) (ctx rcb n : Nat) : Option GateEntry :=
  (s.gates.find? (fun g => g.ctx == ctx && g.rcb == rcb && g.n == n)).map (fun g => GateEntry.ofNat g.img.toNat)

/-- World class of the die of a core (R248). -/
def State.classOf (s : State) (core : Nat) : Nat :=
  match s.pkg.dies.find? (fun d => d.log == some (dieOf core)) with | some d => d.cls | none => 0

/-- Whether a world class admits a world (R248): 00 non-secure only, 01 secure only, 10 both. -/
def admits (cls : Nat) (secure : Bool) : Bool := cls == 2 || (cls == 1) == secure

/-- The checks of R166 in order. -/
def gateFault (s : State) (c : Crew) (n : Nat) : Except Cause GateEntry :=
  let t := s.teamOf c
  match (if n < t.gcnt then s.gateEntry t.ctx t.rcb n else none) with
  | none => .error .gateInvalid
  | some e =>
    if !e.ok (s.ctxOf t.ctx) then .error .gateInvalid
    else if !bit e.cmask t.gclass then .error .gateDenied
    else if (e.cworld != c.secure && !e.xworld) || !admits (s.classOf c.core) e.cworld then .error .gateWorld
    else if c.gdepth ≥ 4 then .error .gateDepth
    else .ok e

/-- Whether GATE and GRET must wait: accesses and copies' issues of the crew under way, or spilled registers to refill (R167). -/
def crewPending (s : State) (c : Crew) : Bool := s.accs.any (fun a => a.serial == c.team && a.crew == c.id)

def spilledIn (l : List Reg) : Bool := l.any (fun r => r.st != .mapped)

/-- Whether a frame's snapshot has a register that is not mapped (R53, R169). -/
def Frame.spilledAny (f : Frame) : Bool := f.lanes.any (fun x => spilledIn x.regs)

/-- The callee's map: arguments that the caller has mapped (R167). -/
def calleeRegs (narg : Nat) (l : List Reg) : List Reg := l.filter (fun r => decide (r.n < narg))

/-- What a gate frame keeps of a thread (R167). -/
def LaneFrame.ofThread (t : Thread) : LaneFrame :=
  { regs := t.regs, preds := t.preds, idx := t.idx, mrv := t.mrv, mrm := t.mrm, flags := t.flags, depth := t.depth, stack := t.stack }

/-- The effect of a GATE that passes its checks (R167). -/
def Crew.gate (c : Crew) (e : GateEntry) (cycle : Nat) : Crew :=
  let f : Frame :=
    { pc := (c.thread 0).pc + 12, asid := c.asid, secure := c.secure, fdom := c.fdom, privBase := c.privBase
      privSize := c.privSize, rbud := c.rbud, nres := e.nres, scrf := e.scrf, cregs := if e.scrc then some (c.creg.take 63) else none
      lanes := c.threads.map LaneFrame.ofThread }
  let c := { c with
    frames := f :: c.frames, asid := e.asid, secure := e.cworld, fdom := e.fdom, privBase := e.pbase, privSize := 4096 * e.psz
    rbud := e.rbud
    threads := c.threads.map (fun (t : Thread) =>
      { t with
        regs := calleeRegs e.narg t.regs
        preds := 0
        idx := t.idx.map (fun _ => 0)
        mrv := false
        depth := 0
        stack := []
        flags := 0 }) }
  c.advance allLanes cycle (fun _ _ => BitVec.ofNat 64 e.epc)

/-- GATE (R166, R167). -/
def execGate (f : F96I) (s : State) : Out :=
  match s.cur with
  | none => .next s
  | some iss =>
    match s.crew? iss.crew with
    | none => .next s
    | some c =>
      let em := guardMask c iss.mask f.h
      match collective c iss.mask em iss.pc false with
      | some x => .next (s.stopped iss.crew iss x)
      | none =>
        if em == 0 then .next (s.modCrew iss.crew (fun c => c.advance iss.mask s.cycle (fun _ t => t.pc + 12)))
        else
          match gateFault s c f.imm.toNat with
          | .error k => .next (s.takeFault iss.crew { cause := k, lmask := iss.mask, pc := iss.pc })
          | .ok e =>
            if crewPending s c then .next (s.stopped iss.crew iss (.stall .dep))
            else if (List.range 32).any (fun l => spilledIn (c.thread l).regs
                || !s.canTake c l (calleeRegs e.narg (c.thread l).regs).length) then .next (s.stopped iss.crew iss (.stall .regs))
            else .next (s.modCrew iss.crew (fun c => c.gate e s.cycle))

/-- The caller's map after a return: results first (R169). -/
def returnRegs (nres : Nat) (snap callee : List Reg) : List Reg :=
  callee.filter (fun r => decide (r.n < nres)) ++ snap.filter (fun r => decide (r.n ≥ nres))

/-- Return to a frame: `res` registers are copied and p6 and c63 are set as given (R169, R170). With SCRF the flags of the call go, those
of the caller's own matrix work that completed meanwhile among them (DESIGN CHOICE, log 115). -/
def Crew.gateReturn (c : Crew) (f : Frame) (res : Bool) (c63 : Word) : Crew :=
  { c with
    frames := c.frames.drop 1, asid := f.asid, secure := f.secure, fdom := f.fdom, privBase := f.privBase, privSize := f.privSize
    rbud := f.rbud
    cbad := c.cbad.filter (fun n => f.cregs.isNone && n != 63)
    creg := (match f.cregs with | some l => l ++ c.creg.drop 63 | none => c.creg).set 63 c63
    threads := c.threads.mapIdx (fun l (t : Thread) =>
      let q := (f.lanes[l]?).getD default
      let t := { t with
        regs := if res then returnRegs f.nres q.regs t.regs else q.regs
        preds := q.preds, idx := q.idx, mrv := q.mrv, mrm := q.mrm, depth := q.depth, stack := q.stack
        flags := q.flags ||| (if f.scrf then 0 else t.flags) }
      t.setPred 6 res) }

/-- GRET (R169). -/
def execGret (f : F64) (s : State) : Out :=
  match s.cur with
  | none => .next s
  | some iss =>
    match s.crew? iss.crew with
    | none => .next s
    | some c =>
      let em := guardMask c iss.mask f.h
      match collective c iss.mask em iss.pc false with
      | some x => .next (s.stopped iss.crew iss x)
      | none =>
        if em == 0 then .next (s.modCrew iss.crew (fun c => c.advance iss.mask s.cycle (fun _ t => t.pc + 8)))
        else
          match c.frames with
          | [] => .next (s.takeFault iss.crew { cause := .gretEmpty, lmask := iss.mask, pc := iss.pc })
          | fr :: _ =>
            if crewPending s c then .next (s.stopped iss.crew iss (.stall .dep))
            else if (List.range 32).any (fun l =>
                spilledIn ((c.thread l).regs.filter (fun r => r.n < fr.nres))
                || spilledIn (((fr.lanes[l]?).getD default).regs)) then .next (s.stopped iss.crew iss (.stall .regs))
            else .next (s.modCrew iss.crew (fun c => (c.gateReturn fr true 0).advance allLanes s.cycle (fun _ _ => fr.pc)))

/-- The cause with which a crew's innermost gate call is being ended, if it is (R170). -/
def Crew.ending (c : Crew) : Option Nat :=
  (c.threads.flatMap (·.causes)).findSome? (fun p => match p with | .ending n => some n | _ => none)

/-- Accesses are dropped: what is left of their instructions may then be complete. -/
def State.dropAccs (s : State) (p : Acc → Bool) : State :=
  ((s.accs.filter p).map (·.group)).eraseDups.foldl State.finishGroup { s with accs := s.accs.filter (fun a => !p a) }

/-- The callee's accesses that a fault keeps for the handler are dropped with its call (R170). -/
def State.dropCallee (s : State) (c : Crew) : State :=
  s.dropAccs (fun a => a.serial == c.team && a.crew == c.id && match a.hold with | .fault _ => true | _ => false)

/-- Whether the end of a crew's gate call waits: for the callee's accesses, or for spilled registers of the snapshot (R169, R170). -/
def endWaits (s : State) (c : Crew) : Bool := crewPending s c || (match c.frames with | f :: _ => f.spilledAny | [] => false)

/-- The end of a gate call (R170): once the callee's accesses are complete, replays of page faults among them (R169, R309), and the spilled
registers of the snapshot are back, the crew returns, every thread stands at the return PC, and those that no other cause parks run on. -/
def State.gateEnd (s : State) (k : Nat) : State :=
  match s.crew? k with
  | none => s
  | some c =>
    match c.ending with
    | none => s
    | some cause =>
      let s := s.dropCallee c
      if endWaits s c then s
      else
        let live := c.live
        let freed := fun (c : Crew) => c.modLanes live (fun _ t => { t with causes := t.causes.erase (.ending cause) })
        match c.frames with
        | [] => s.modCrew k (fun c => (freed c).unpark live)
        | fr :: _ => s.modCrew k (fun c =>
            let c := freed (c.gateReturn fr false (BitVec.ofNat 32 (2 ^ 31 + cause)))
            let c := { c with holds := [], coll := [], latch := none, ended := [] }
            let c := c.leave live
            let c := c.modLanes live (fun _ t =>
              { t with pc := fr.pc, relog := none, wait := none, why := .none, st := .parked, back := .ready })
            { c with left := [] }.unpark live)

/-- A fault domain ends the innermost gate call of a crew (R170): the crew stops, and returns as after GRET. -/
def State.endGate (s : State) (k cause : Nat) : State :=
  match s.crew? k with
  | none => s
  | some c =>
    if c.frames.isEmpty then s
    else (s.modCrew k (fun c => c.addCause allLanes (.ending (cause % 65536)))).gateEnd k

end Sys2Proof.Machine
end

