-- ==== Sys2Proof/Machine/Wait.lean ====
section
/-! DEFINITION. WAIT (01 R22 to R26, 07 R163, R164): issue, evaluation, completion, time-out. -/
namespace Sys2Proof.Machine

/-! ### Evaluation -/

/-- MEM relations (R163). -/
def memRel (r x v : Nat) : Bool :=
  match r with
  | 0 => x == v
  | 1 => x != v
  | 2 => decide (x < v)
  | _ => decide (x ≥ v)

/-- Tiles that an entry reads or writes, as a mask test (R22). -/
def AccEntry.uses (e : AccEntry) (mask : Nat) : Bool := (e.srcs ++ e.dsts).any (fun t => bit mask t)

/-- Whether the MEM word of a wait may be read now: the read is one of R117 and R103, as an access's. -/
def State.memReadable (s : State) (c : Crew) (loc : Loc) (n : Nat) : Bool :=
  !s.inG s.nextId { loc := loc, size := n, data := 0, done := false } && !s.frozen (s.teamOf c).ctx
    && !(match loc with | .phys pa => s.fabricHolds (some (dieOf c.core)) pa && !s.readHere c.core pa n | _ => false)

/-- Whether a condition holds for a thread (R22). A MEM word that may not be read yet has not been read; it is read where it was found at issue,
however long the wait lasts, but for an invalidation of its page (DESIGN CHOICE, log 125). -/
def State.condHolds (s : State) (c : Crew) (t : Thread) (p : Pending) (x : Cond) : Bool :=
  match x with
  | .bar off q => bit (ofBytes ((s.teamOf c).scr.bytes off 1)) 0 != q
  | .batch n => decide (t.batches.length ≤ n)
  | .mem loc mask v => s.memReadable c loc p.msz && memRel p.mrel (andNat (ofBytes (s.readLoc (dieOf c.core) loc p.msz)) mask) v
  | .tile mask => !s.accq.any (fun e => e.granted && e.serial == c.team && e.uses mask)
      && !s.accs.any (fun a => a.kind == .epi && a.serial == c.team && match a.ins with | .aepi f => bit mask (field f.ctl.toNat 0 4) | _ => false)
  | .time _ => false

def Cond.isTime : Cond → Bool
  | .time _ => true
  | _ => false

/-- The HELD bits of a wait (R24). -/
def State.heldBits (s : State) (c : Crew) (t : Thread) (p : Pending) : Nat :=
  (p.conds.mapIdx (fun k x => ofBool (s.condHolds c t p x) * 2 ^ k)).sum

/-- Whether a wait completes by its conditions (R23). -/
def State.waitDone (s : State) (c : Crew) (t : Thread) (p : Pending) : Bool :=
  let cs := p.conds.filter (fun x => !x.isTime)
  if p.all then !cs.isEmpty && cs.all (s.condHolds c t p) else cs.any (s.condHolds c t p)

/-- Whether the time-out of a wait has expired at this reference edge (R23). -/
def State.waitExpired (s : State) (p : Pending) : Bool :=
  s.cycle % 10 == 0 && p.conds.any (fun x => match x with | .time t => decide (p.elapsed ≥ 10 * t) | _ => false)

/-- Sub-cause and ADDR of the POISON that a condition finds when what it names is read now: its MEM word, or the word of a barrier object
that holds PHASE (R164, R325). -/
def State.condPoison (s : State) (c : Crew) (p : Pending) (x : Cond) : Option (Nat × Nat) :=
  match x with
  | .mem loc _ _ => if s.memReadable c loc p.msz then (s.poisonRead (dieOf c.core) loc p.msz).map (fun n => (n, p.addr)) else none
  | .bar off _ => (s.poisonRead (dieOf c.core) (.scr c.team off) 8).map (fun n => (n, off))
  | _ => none

/-- The same of the first of a wait's conditions that finds poison. -/
def State.waitPoison (s : State) (c : Crew) (p : Pending) : Option (Nat × Nat) := p.conds.findSome? (s.condPoison c p)

/-! ### Completion -/

/-- A thread whose wait ends: its predicate, its next PC (R24). -/
def Thread.endWait (t : Thread) (p : Pending) (ok : Bool) : Thread :=
  let t := if p.dst == 255 then t else t.setPred (p.dst - 200) ok
  { t with pc := t.pc + BitVec.ofNat 64 p.len, wait := none, relog := none }

/-- Crew registers after the WAITs that ended in one cycle: the result word of each group at one PC is that of its lowest lane, and the
group with the higher lowest lane writes last; of two that one lane has ended, the later (R15, R25). -/
def waitWords (creg : List Word) (es : List WaitEnd) : List Word :=
  (List.range 32).foldl (fun (r : List Word) l =>
    (es.filter (fun e => e.lane == l)).foldl (fun (r : List Word) e =>
      if es.any (fun x => x.pc == e.pc && x.lane < l) then r else r.set e.creg e.word) r) creg

/-- Lanes of a crew end their waits together, with HELD bits and TO each; those that have ended before in the cycle count with them. -/
def Crew.endWaits (c : Crew) (ls : List (Nat × Nat × Bool)) : Crew :=
  let info := fun l => ls.find? (fun x => x.1 == l)
  let mask := maskOf (ls.map (·.1))
  let es := ls.filterMap (fun x => ((c.thread x.1).wait.bind (·.creg)).map (fun n =>
    ({ lane := x.1, pc := (c.thread x.1).pc, creg := n, word := BitVec.ofNat 32 (x.2.1 + 16 * ofBool x.2.2) } : WaitEnd)))
  let c1 := if es.isEmpty then c else { c with
    ended := c.ended ++ es, creg := waitWords c.creg (c.ended ++ es), cbad := c.cbad.filter (fun n => !es.any (fun e => e.creg == n)) }
  let c2 := c1.modLanes mask (fun l t => match t.wait, info l with
    | some p, some x => t.endWait p (!x.2.2)
    | _, _ => t)
  c2.wake mask

/-- The reads of MEM words: their codewords are checked, and they go through the caches as accesses with no reuse distance (R87, R324). -/
def State.waitCheck (s : State) (c : Crew) (ps : List Pending) : State :=
  ps.foldl (fun s p => p.conds.foldl (fun s x => match x with
    | .mem loc _ _ =>
      if !s.memReadable c loc p.msz then s
      else match loc with
        | .phys pa => (s.check loc p.msz).cacheRead { core := c.core, ctx := (s.teamOf c).ctx, cls := p.cls, shr := p.shr, rd := 2 } 0 pa
        | _ => s.check loc p.msz
    | _ => s) s) s

/-- Evaluate the waits of a crew: lanes that find poison take POISON (R164, R325), lanes whose conditions hold go on, and, where
`timed`, lanes whose time-out has expired (R23). -/
def State.wakeWaits (s : State) (k : Nat) (timed : Nat → Bool) : State :=
  match s.crew? k with
  | none => s
  | some c =>
    let ws := (List.range 32).filterMap (fun l =>
      let t := c.thread l
      match t.st, t.wait with | .waiting, some p => some (l, t, p) | _, _ => none)
    let bad := ws.filterMap (fun x => (s.waitPoison c x.2.2).map (fun q => (x, q)))
    match bad with
    | ((_, t0, _), sub, addr) :: _ =>
      let mask := maskOf (bad.map (·.1.1))
      let s := (s.waitCheck c (bad.map (·.1.2.2))).modCrew k (fun c =>
        (c.modLanes mask (fun _ t => { t with relog := t.wait.map (·.vals), gaps := [], wait := none })).wake mask)
      s.takeFault k { cause := .poison, sub := sub, lmask := mask, pc := t0.pc, addr := addr }
    | [] =>
      let done := ws.filterMap (fun x =>
        if s.waitDone c x.2.1 x.2.2 then some (x.1, s.heldBits c x.2.1 x.2.2, false)
        else if timed x.1 && s.waitExpired x.2.2 then some (x.1, s.heldBits c x.2.1 x.2.2, true)
        else none)
      let s := s.waitCheck c (ws.map (·.2.2))
      if done.isEmpty then s else s.modCrew k (fun c => c.endWaits done)

/-! ### Issue -/

/-- Cut the values of a WAIT into conditions (R163, R164). -/
def condsOf (tiles : Nat) (locs : Option Loc) : List Nat → List Nat → List Cond
  | [], _ => []
  | k :: ks, vs =>
    let v := val vs 0
    match k with
    | 1 => .bar (v / 2 * 2) (bit v 0) :: condsOf tiles locs ks (vs.drop 1)
    | 2 => .batch (Nat.min v 7) :: condsOf tiles locs ks (vs.drop 1)
    | 3 => .mem (locs.getD (.phys 0)) (val vs 1) (val vs 2) :: condsOf tiles locs ks (vs.drop 3)
    | 4 => .tile (v % 2 ^ 16 % 2 ^ tiles) :: condsOf tiles locs ks (vs.drop 1)
    | 5 => .time (Nat.min v (2 ^ 24 - 1)) :: condsOf tiles locs ks (vs.drop 1)
    | _ => condsOf tiles locs ks vs

/-- The outcome of a lane's checks at WAIT. -/
inductive WaitRes
  | ok (p : Pending) (sfmt : Nat)
  | stop (r : LaneRes)
  | dep

/-- Position of the MEM address among the values, if any. -/
def memAt : List Nat → Nat → Option Nat
  | [], _ => none
  | 3 :: _, n => some n
  | _ :: ks, n => memAt ks (n + 1)

/-- Check the conditions of a lane (R164, R168, R173). A BAR condition tests its object without waiting for earlier operations of the thread on it
that are not performed yet (DESIGN CHOICE, log 126). -/
def waitLane (s : State) (c : Crew) (f : F128X) (lane : Nat) (vs : List Nat) : WaitRes :=
  let ctl := f.ctl.toNat
  let ks := (waitKinds ctl).filter (· != 0)
  let t := s.teamOf c
  let sz := if bit ctl 13 then 8 else 4
  let p := fun (l : Option Loc) =>
    ({ conds := condsOf t.tiles l ks vs, all := bit ctl 12, msz := sz, mrel := field ctl 14 2, dst := f.h.dst.toNat
       creg := if bit ctl 19 then some (field ctl 20 6) else none, len := 16
       elapsed := match (c.thread lane).wait with | some q => q.elapsed | none => 0
       polled := 0, vals := vs.map (BitVec.ofNat 64)
       addr := match memAt ks 0 with | some n => recGen (val vs n) | none => 0 } : Pending)
  let bars := (condsOf t.tiles none ks vs).filterMap (fun x => match x with | .bar o _ => some o | _ => none)
  if c.gdepth ≥ 1 && ks.any (fun k => k == 1 || k == 2 || k == 4) then .stop (.fault .gateSpace 0 0)
  else if bars.any (fun o => o % 16 != 0) then .stop (.fault .misalign 0 ((bars.find? (fun o => o % 16 != 0)).getD 0))
  else if bars.any (fun o => o + 16 > 1024 * t.scrK) then .stop (.fault .scratchBound 0 ((bars.find? (fun o => o + 16 > 1024 * t.scrK)).getD 0))
  else
    match memAt ks 0 with
    | none => match s.waitPoison c (p none) with
      | some q => .stop (.fault .poison q.1 q.2)
      | none => .ok (p none) 0
    | some n =>
      let a := val vs n
      match decodeAddr a with
      | .error e => .stop (.fault e 0 a)
      | .ok (sp, o) =>
        let a := recGen a
        if c.gdepth ≥ 1 && sp.barred then .stop (.fault .gateSpace 0 a)
        else if misaligned (o : Int) sz then .stop (.fault .misalign 0 a)
        else
          let foot := s.footOf c lane sp (o : Int) sz
          match s.piece c lane .read sp (o : Int) sz a foot with
          | .error r => .stop r
          | .ok (l, lf) =>
            /- the read is performed at issue: earlier accesses that R112 orders before it come first -/
            let me : Acc := { (default : Acc) with id := s.nextId, serial := c.team, crew := c.id, lane := lane, kind := .load, addr := a, foot := foot }
            let u : AUnit := { loc := l, size := sz, data := 0, done := false }
            if s.accs.any (fun b => blockedBy me u b) || !s.memReadable c l sz then .dep
            else match s.waitPoison c (p (some l)) with
              | some q => .stop (.fault .poison q.1 q.2)
              | none => .ok { p (some l) with cls := (lf.getD default).cls, shr := (lf.getD default).shr } 0

/-- Virtual addresses that the MEM word of a lane's wait looks up (R302). -/
def State.waitVas (s : State) (c : Crew) (f : F128X) (lane : Nat) (vs : List Nat) : List Nat :=
  match memAt ((waitKinds f.ctl.toNat).filter (· != 0)) 0 with
  | none => []
  | some n =>
    match decodeAddr (val vs n) with
    | .error _ => []
    | .ok (sp, o) => footVas (s.footOf c lane sp (o : Int) (if bit f.ctl.toNat 13 then 8 else 4))

/-- First evaluation, at issue; a wait of 0 ticks ends. -/
def State.wakePolls (s : State) (k : Nat) (polls : Nat → Bool) : State :=
  match s.crew? k with
  | none => s
  | some c =>
    let done := (List.range 32).filterMap (fun l =>
      let t := c.thread l
      match t.st, t.wait with
      | .waiting, some p =>
        if s.waitDone c t p then some (l, s.heldBits c t p, false)
        else if polls l then some (l, s.heldBits c t p, true)
        else none
      | _, _ => none)
    if done.isEmpty then s else s.modCrew k (fun c => c.endWaits done)

/-- WAIT (R163, R164). A page fault of its MEM word holds the lane at the WAIT, its time-out counting; a lane that faults issues it afresh
(R164). -/
def execWait (f : F128X) (s : State) : Out :=
  match s.cur with
  | none => .next s
  | some iss =>
    match s.crew? iss.crew with
    | none => .next s
    | some c =>
      let em := guardMask c iss.mask f.h
      let ks := (waitKinds f.ctl.toNat).filter (· != 0)
      let srcs := (ks.flatMap (fun k => waitUses k (bit f.ctl.toNat 13))).zip [f.s1, f.s2, f.s3, f.s4]
      match operandCheck s c iss.mask em em iss.pc srcs 255 1 false with
      | some x => .next (s.stopped iss.crew iss x)
      | none =>
        let out := boundLanes c em srcs 255 1
        /- a MEM word's address and the other values take log slots (R305) -/
        let slots := if ks.contains 3 then 1 + ((srcs.map (fun u => 4 * u.1.regs)).sum - 1) / 8 else 0
        let rd := fun l => readLane s c iss.mask srcs l
        let rs := (lanesOf (em &&& ~~~out)).map (fun l => (l, waitLane s c f l (rd l).vals))
        let misses := rs.filterMap (fun r => match r.2 with | .stop (.miss v) => some v | _ => none)
        if !misses.isEmpty then .next ((misses.foldl (fun s v => s.lookup c v) s).stopped iss.crew iss (.stall .xlate))
        else if rs.any (fun r => match r.2 with | .dep => true | _ => false) then .next (s.stopped iss.crew iss (.stall .dep))
        else if slots > 0 && !rs.isEmpty && s.slotsHeld c.team c.id + slots > Config.logSlots then .next (s.stopped iss.crew iss (.stall .struct))
        else
          let bad := rs.filterMap (fun r => match r.2 with | .stop (.fault k sub a) => some (r.1, k, sub, a) | _ => none)
          let pages := rs.filterMap (fun r => match r.2 with | .stop (.page va a _) => some (r.1, va, a) | _ => none)
          let oks := rs.filterMap (fun r => match r.2 with | .ok p _ => some (r.1, p) | _ => none)
          let fs : List LaneFault := faultsOf out .indexBound 0 ++ bad
          let fm := maskOf (fs.map (·.1))
          let pm := maskOf (pages.map (·.1))
          let wm := maskOf (oks.map (·.1))
          let log := fun (l : Nat) (t : Thread) => t.keep (rd l).vals
          let time := fun (l : Nat) => (condsOf 16 none ks (rd l).vals).filter Cond.isTime
          let c1 := ((releaseAll (iss.mask &&& ~~~out) (em &&& ~~~out) false srcs c).modLanes (em &&& ~~~out) (fun l t =>
            t.raise (readFlags (rd l)))).logLanes s c iss.mask out (fun _ => srcs)
          let c2 := (c1.modLanes (maskOf (bad.map (·.1))) (fun l t => { log l t with wait := none })).modLanes pm (fun l t =>
            { log l t with
              st := .stalled, why := .page, page := match pages.find? (fun x => x.1 == l) with | some x => x.2.1 | none => 0
              wait := some { conds := time l, all := false, msz := 4, mrel := 0, dst := 255, creg := none, len := 16
                             elapsed := match t.wait with | some q => q.elapsed | none => 0, polled := 0, vals := [], addr := 0 } })
          let c3 := (c2.leave wm).modLanes wm (fun l t =>
            { t with st := .waiting, why := .none, lastIssue := s.cycle, relog := none
                     wait := match oks.find? (fun x => x.1 == l) with | some x => some x.2 | none => none })
          let c3 := if slots == 0 || fm ||| pm == 0 then c3 else c3.keepLog { pc := iss.pc, ins := .wait f, slots := slots, group := s.nextId }
          let s := if slots == 0 || fm ||| pm == 0 then s else { s with nextId := s.nextId + 1 }
          let c4 := c3.advance (iss.mask &&& ~~~em) s.cycle (fun _ t => t.pc + 16)
          let s1 := (s.modCrew iss.crew (fun _ => c4)).tlbHits c (oks.flatMap (fun x => s.waitVas c f x.1 (rd x.1).vals))
          let s2 := (if pages.isEmpty && bad.isEmpty then s1 else s1.dropFailed c).pageRecords c iss.pc pages
          /- t = 0 polls: the conditions are evaluated once (R23) -/
          let polls := fun (l : Nat) => match oks.find? (fun x => x.1 == l) with
            | some x => x.2.conds.any (fun y => y == Cond.time 0)
            | none => false
          let s3 := (s2.wakePolls iss.crew polls).waitCheck c (oks.map (·.2))
          if fm == 0 then .next s3 else .next (s3.stopped iss.crew iss (.trap (trapOf iss.pc fs)))
/-- WAIT_MEM_REPOLL: the MEM word of a waiting thread is read again (R23). -/
def execWaitMemRepoll (team crew lane : Nat) (s : State) : Out :=
  match s.crewAt team crew with
  | none => .next s
  | some k =>
    let s := s.modThread k lane (fun t => { t with wait := t.wait.map (fun p => { p with polled := 0 }) })
    .next (s.wakeWaits k (fun _ => false))

/-- WAIT_TIMEOUT: the time-out of a waiting thread expires; threads of its crew that end in the same cycle wake with it. -/
def execWaitTimeout (team crew lane : Nat) (s : State) : Out :=
  match s.crewAt team crew with
  | none => .next s
  | some k =>
    match s.crew? k with
    | none => .next s
    | some c =>
      match (c.thread lane).st, (c.thread lane).wait with
      | .waiting, some p => if s.waitExpired p then .next (s.wakeWaits k (fun _ => true)) else .next s
      | _, _ => .next s

end Sys2Proof.Machine
end

