-- ==== Sys2Proof/Machine/Tensor.lean ====
section
/-! DEFINITION. Tensor handles (04 R96 to R98, 13 R253), the tensor elements and their bytes (R97, 03 R63, 17 R382),
dictionaries (10 R238, R239), and the bytes that engines read. -/
namespace Sys2Proof.Machine

/-! ### Handles -/

/-- A handle entry that is valid for its context, with its home stack (R96, R382). -/
structure Handle where
  rank : Nat
  fmt : Nat
  ro : Bool
  cmp : Bool
  slot : Nat
  secure : Bool
  base : Nat
  soff : Nat
  /-- extents below RANK -/
  dims : List Nat
  part : Nat
  stack : Nat
deriving DecidableEq, Repr

/-- Bytes of an element of a format; FP4B24 moves by blocks (R96, R231). -/
def elemSize (fmt : Nat) : Nat := if fmt == 0 then 1 else if fmt == 7 then 0 else fmtBits fmt / 8

/-- Entries of a handle table (R253). -/
def Ctx.hcnt (x : Ctx) : Nat := Nat.min 65536 (field x.htab.toNat 46 17)
def Ctx.hbase (x : Ctx) : Nat := 64 * field x.htab.toNat 0 46

/-- The entry's fields, when they make a valid entry (R96, R382). -/
def handleOf (s : State) (p : Part) (e : Nat) : Option Handle :=
  let rank := field e 1 3
  let fmt := field e 4 4
  let dims := (List.range rank).map (fun k => field e (128 + 32 * k) 32)
  let n := dims.foldl (· * ·) 1
  let base := field e 64 40
  let soff := field e 288 40
  let plane := if fmt == 7 then n / 2 else n * elemSize fmt
  let used := if bit e 9 then (plane + 3) / 4 else plane
  let top := 65536 * p.tgranules
  if !bit e 0 || rank == 0 || rank > 5 || (List.range 5).any (fun k => field e (16 + 4 * k) 4 > 7) || dims.any (· == 0)
    || fmt == 7 && val dims 0 % 24 != 0 || base * 1024 + used > top || fmt == 7 && soff * 1024 + n / 24 > top
  then none
  else some { rank := rank, fmt := fmt, ro := bit e 8 || bit e 9, cmp := bit e 9, slot := field e 10 3, secure := bit e 13
              base := base * 1024, soff := soff * 1024, dims := dims, part := p.num
              stack := stackOfTower (s.tensorAt p (base * 1024)).1 }

/-- The handle that an instruction of a context names, or its fault (R98). -/
def State.handle (s : State) (x : Ctx) (h : Nat) : Except Cause Handle :=
  match s.pkg.parts.find? (fun p => p.num == x.part) with
  | none => .error .handleInvalid
  | some p =>
    if h ≥ x.hcnt then .error .handleInvalid
    else
      match handleOf s p (x.handles.readN (64 * h) 64) with
      | none => .error .handleInvalid
      | some t => if t.secure && !x.secure then .error .handleWorld else .ok t

/-- Whether an operation in progress keeps new uses of a handle waiting (R265, R266, R253). -/
def State.handleHeld (s : State) (ctx h : Nat) : Bool :=
  s.drains.any (fun d => d.ctx == ctx && match d.kind with
    | .handle k _ => k == h
    | .handleAll => true
    | .htab _ => true
    | _ => false)

/-! ### Elements -/

/-- Packed index of an element of a tensor, none outside it (R97). -/
def linOf : List Nat → List Int → Option Nat
  | [], _ => some 0
  | d :: ds, c :: cs => if c < 0 || c ≥ d then none else (linOf ds cs).map (fun r => c.toNat + d * r)
  | _ :: _, [] => none

/-- The place of a logical byte of the element plane (R238). -/
def Handle.byteAt (h : Handle) (b : Nat) : Place :=
  if h.cmp then .code (.ten h.part (h.base + b / 4)) h.stack h.slot (b % 4) else .at (.ten h.part (h.base + b))

/-- The bytes of an element that is not FP4B24; `out` stands for an element outside (R97). -/
def Handle.elem (h : Handle) (cs : List Int) (out : Place) : List Place :=
  let e := elemSize h.fmt
  match linOf h.dims cs with
  | none => List.replicate e out
  | some l => (List.range e).map (fun k => h.byteAt (e * l + k))

/-- The 12 element bytes and the scale byte of the FP4B24 block that begins at coordinates (R63, R97). -/
def Handle.block (h : Handle) (cs : List Int) (out : Place) : List Place × Place :=
  match linOf h.dims cs with
  | none => (List.replicate 12 out, out)
  | some l => ((List.range 12).map (fun k => h.byteAt (l / 2 + k)), .at (.ten h.part (h.soff + l / 24)))

/-! ### Dictionaries -/

def State.dict (s : State) (ctx stack slot : Nat) : Dict :=
  (s.dicts.find? (fun d => d.ctx == ctx && d.stack == stack && d.slot == slot)).getD
    { ctx := ctx, stack := stack, slot := slot, gen := 0, entries := [] }

def State.setDict (s : State) (d : Dict) : State :=
  { s with dicts := d :: s.dicts.filter (fun x => !(x.ctx == d.ctx && x.stack == d.stack && x.slot == d.slot)) }

/-- The dictionary that reads through a handle bind to, and the generation as it stands (R239). -/
def State.bindDict (s : State) (ctx : Nat) (h : Handle) : Option (Nat × Nat) × Nat :=
  if h.cmp then (some (h.stack, h.slot), (s.dict ctx h.stack h.slot).gen) else (none, 0)

/-- Whether a bound read may proceed: no load that has reached the slot with its generation, or an older one, is still to
write (R239). -/
def State.dictReady (s : State) (ctx : Nat) (d : Option (Nat × Nat)) (gen : Nat) : Bool :=
  match d with
  | none => true
  | some (k, n) => !s.dictlds.any (fun x => x.ctx == ctx && x.slot == n && x.reached.any (fun r => r.1 == k && decide (r.2 ≤ gen)))

/-- Whether some incomplete read is bound to a generation of a slot older than one (R239). -/
def State.olderReads (s : State) (ctx stack slot gen : Nat) : Bool :=
  s.copies.any (fun c => c.granted && c.ctx == ctx && c.dict == some (stack, slot) && decide (c.gen < gen))
    || s.accq.any (fun e => e.ctx == ctx && e.dict == some (stack, slot) && !e.bsrc.isEmpty && decide (e.gen < gen))

/-! ### Bytes that engines read -/

/-- A byte at a place already located, as a die sees it, and whether it is poisoned. -/
def State.placeByte (s : State) (die ctx : Nat) (p : Place) : Byte × Bool :=
  match p with
  | .at l => (((s.readLoc die l 1).head?).getD 0, (s.poisonRead die l 1).isSome)
  | .code l stack slot k =>
    let c := ((s.readLoc die l 1).head?).getD 0
    ((s.dict ctx stack slot).entries.get (4 * c.toNat + k), (s.poisonRead die l 1).isSome)
  | .byte b => (b, false)
  | _ => (0, false)

/-- The tensor offset that a place reaches. -/
def Place.tensorOff : Place → Option (Nat × Nat)
  | .at (.ten p o) => some (p, o)
  | .code (.ten p o) _ _ _ => some (p, o)
  | _ => none

/-- An engine's reads go through the last-level cache of the tensor bytes' home stacks, as rd = 2 (R77, R87). -/
def State.touchPlaces (s : State) (ctx : Nat) (l : List Place) : State :=
  (((l.filterMap Place.tensorOff).map (fun x => (x.1, x.2 / 256))).eraseDups).foldl (fun s x =>
    s.touchLlc ctx (.ten x.1 (256 * x.2)) 2 false) s

/-- The fault of a tensor byte's home: another world's granule (R249), a stack switched off (R382). -/
def State.tensorFault (s : State) (part : Nat) (secure : Bool) (off : Nat) : Option Cause :=
  match s.pkg.parts.find? (fun p => p.num == part) with
  | none => some .handleInvalid
  | some p =>
    if !secure && s.tensorWorld p off then some .worldFault
    else if s.towerOff (s.tensorAt p off).1 then some .layerOff
    else none

/-- The first fault of a list of places (R249, R382). -/
def State.placesFault (s : State) (secure : Bool) (l : List Place) : Option Cause :=
  l.findSome? (fun x => match x.tensorOff with | some (p, o) => s.tensorFault p secure o | none => none)

end Sys2Proof.Machine
end

