-- ==== Sys2Proof/Machine/Matrix.lean ====
section
/-! DEFINITION. Accumulator instructions (10 R209 to R225): MMA, MMAG, ACLR, AMOV, ALD, AST, AEPI, their queue, and the arithmetic of
a matrix instruction and of the epilogue (03 R64, R72 to R76). -/
namespace Sys2Proof.Machine

/-! ### Tiles -/

/-- Word k = 64 i + j of a tile (R211). -/
def Team.tileWord (t : Team) (n k : Nat) : Nat := ((t.tile[n]?).getD []).readN (4 * k) 4

/-- A tile from its words; zero bytes are not listed. -/
def tileMem (w : Nat → Nat) : Memory :=
  (List.range 4096).flatMap (fun k => ((toBytes 4 (w k)).mapIdx (fun j b => (4 * k + j, b))).filter (fun (c : Host.Cell) => c.2 != 0))

/-- A tile from 16,384 bytes. -/
def tileOfBytes (l : List Byte) : Memory := (l.mapIdx (fun k b => (k, b))).filter (fun (c : Host.Cell) => c.2 != 0)

/-- Whether a word of a tile is poisoned (R325). -/
def Team.tileBadAt (t : Team) (n k : Nat) : Bool := t.tileBad.contains (4096 * n + k)

/-- Word numbers of element (i, j) in an accumulator format: two for FP64 (R211). -/
def accWords (wide : Bool) (i j : Nat) : List Nat := if wide then [64 * i + 2 * j, 64 * i + 2 * j + 1] else [64 * i + j]

/-- Element (i, j) of a tile as bits of its accumulator format. -/
def Team.accElem (t : Team) (n : Nat) (wide : Bool) (i j : Nat) : Nat :=
  ofBytes ((accWords wide i j).flatMap (fun k => toBytes 4 (t.tileWord n k)))

/-! ### The arithmetic of MMA (R72 to R74) -/

/-- Element k of a row of operand bytes (R216). -/
def rowElem (bits : Nat) (row : List Byte) (k : Nat) : Nat :=
  if bits == 4 then field ((row[k / 2]?).getD 0).toNat (4 * (k % 2)) 4
  else ofBytes ((row.drop (k * bits / 8)).take (bits / 8))

/-- Scale byte of block b of an FP4B24 row (R216). -/
def rowScale (row : List Byte) (b : Nat) : Nat := ((row[48 + b]?).getD 0).toNat

/-- Rows of n bytes. -/
def rowsOf (n : Nat) : Nat → List Byte → List (List Byte)
  | 0, _ => []
  | k + 1, l => l.take n :: rowsOf n k (l.drop n)

/-- A product of several factors; with a NaN factor it is NaN and nothing is created (R71). -/
def mulAll (l : List FVal) : FVal × Nat :=
  if l.any FVal.isNan then (.nan, 0)
  else l.foldl (fun a x => let r := mulV a.1 x; (r.1, orF a.2 r.2)) (.fin false 1 0, 0)

/-- An exact sum; all addends −0 give −0 (R71). -/
def sumV (l : List FVal) : FVal := l.foldl (fun a x => (addV a x).1) (.fin true 0 0)

/-- Term b of an FP4B24 element (R73). -/
def fp4Term (ra rb : List Byte) (bandA bandB : FVal) (b : Nat) : FVal × Nat :=
  let p := sumV ((List.range 24).map (fun k =>
    (mulV (fdecode ffE2M1 (rowElem 4 ra (24 * b + k))) (fdecode ffE2M1 (rowElem 4 rb (24 * b + k)))).1))
  mulAll [p, fdecode ffE3M5 (rowScale ra b), fdecode ffE3M5 (rowScale rb b), bandA, bandB]

/-- One floating output element from a row of A, a column of B and the addend (R72, R73). -/
def mmaFloat (q : MmaFmt) (af bf : Nat) (ra rb : List Byte) (bandA bandB acc : FVal) : FRes :=
  let F := if q.bits == 64 then ffF64 else ffF32
  let ts : List (FVal × Nat) :=
    if q.bits == 4 then (List.range 4).map (fp4Term ra rb bandA bandB)
    else (List.range q.k).map (fun k => mulV (elemVal af (rowElem q.bits ra k)) (elemVal bf (rowElem q.bits rb k)))
  let r := sumTerms F (if q.bits == 64 then 110 else 40) (ts.map (·.1) ++ [acc])
  (r.1, orF r.2 (orAll (ts.map (·.2))))

/-- One INT32 output element, modulo 2^32 (R74). -/
def mmaInt (q : MmaFmt) (af bf : Nat) (ra rb : List Byte) (acc : Nat) : Nat :=
  let s : Int := ((List.range q.k).map (fun k =>
    intVal 8 (af == 8) (rowElem 8 ra k) * intVal 8 (bf == 8) (rowElem 8 rb k))).foldl (· + ·) 0
  wrap 32 ((acc : Int) + s)

/-- The fields of an MMA or MMAG. -/
def mmaFields (i : Instr) : Option (F128X × Bool) :=
  match i with
  | .mma f => some (f, false)
  | .mmag f => some (f, true)
  | _ => none

/-- What an MMA entry makes of its tile: words, flags, whether poison was met (R219, R322), with the band scales staged at issue (R57,
log 75). An INT32 element of poisoned bytes is a free value (log 3). -/
def mmaResult (s : State) (t : Team) (e : AccEntry) (f : F128X) : Memory × Nat × Option Nat :=
  let c := f.ctl.toNat
  let af := field c 0 4
  let bf := field c 4 4
  let za := bit c 9
  let q := (mmaFmt af bf).getD ⟨0, 0, 8, 0⟩
  let wide := q.bits == 64
  let n := e.dsts.head?.getD 0
  let bandA := fdecode ffBF16 (e.bandA % 65536)
  let bandB := fdecode ffBF16 (e.bandB % 65536)
  let ra := rowsOf q.rowBytes 64 e.a
  let rb := rowsOf q.rowBytes q.n e.b
  let row := fun (l : List (List Byte)) (k : Nat) => (l[k]?).getD []
  let badCol := fun (j : Nat) => e.bbad.any (fun b => b / q.rowBytes == j)
  let badAcc := fun (i j : Nat) => !za && (accWords wide i j).any (t.tileBadAt n)
  let int := q.bits == 8 && (af == 8 || af == 9)
  let out := fun (i j : Nat) =>
    let old := if za then 0 else t.accElem n wide i j
    if badCol j || badAcc i j then
      (if int then (Config.free (s.freeCtr + 64 * i + j)).toNat % 2 ^ 32 else if wide then ffF64.nan else ffF32.nan, 0)
    else if int then (mmaInt q af bf (row ra i) (row rb j) old, 0)
    else mmaFloat q af bf (row ra i) (row rb j) bandA bandB (fdecode (if wide then ffF64 else ffF32) old)
  let all := (List.range 64).map (fun i => (List.range q.n).map (out i))
  let at2 := fun (i j : Nat) => (((all[i]?).getD [])[j]?).getD (0, 0)
  let words := fun (k : Nat) => if wide then (at2 (k / 64) (k % 64 / 2)).1 / 2 ^ (32 * (k % 2)) % 2 ^ 32 else (at2 (k / 64) (k % 64)).1
  let anyAcc := !za && (List.range 4096).any (t.tileBadAt n)
  (tileMem words, orAll (all.map (fun r => orAll (r.map (·.2)))), if !e.bbad.isEmpty then some 2 else if anyAcc then some 3 else none)

/-! ### The epilogue (R224) -/

/-- One output of AEPI: encoding, flags, and |v| where it counts for the amax. -/
def aepiElem (O : FFmt) (relu : Bool) (v scale : FVal) : FRes × Option FVal :=
  let p := mulV v scale
  let x := if relu && !(ltV (.fin false 0 0) p.1) then .fin false 0 0 else p.1
  let r := fround O x
  ((r.1, orF r.2 p.2), if x.isNan then none else some (absV x))

/-- The accumulator element as a value (R211, R223). -/
def accVal (aty x : Nat) : FVal :=
  match aty with
  | 0 => fdecode ffF32 x
  | 1 => let i := signed 32 x; .fin (decide (i < 0)) i.natAbs 0
  | _ => fdecode ffF64 x

/-- The format of an R68 code 0x1 to 0x6. -/
def outFmt (o : Nat) : FFmt := (ffOf o).getD ffF32

/-- What an AEPI writes: bytes row by row, the amax, flags, whether the tile was poisoned (R224, R322). -/
def aepiResult (t : Team) (f : F128X) (scale : Nat) : List Byte × Nat × Nat × Bool :=
  let c := f.ctl.toNat
  let n := field c 0 4
  let o := field c 4 4
  let aty := field c 14 2
  let wide := aty == 2
  let N := if wide then 32 else 64
  let O := outFmt o
  let sv := fdecode ffF32 scale
  let one := fun (i j : Nat) =>
    if (accWords wide i j).any (t.tileBadAt n) then ((O.nan, 0), none)
    else aepiElem O (bit c 9) (accVal aty (t.accElem n wide i j)) sv
  let all := (List.range 64).flatMap (fun i => (List.range N).map (one i))
  let m := all.foldl (fun a x => match x.2 with | some v => maxMag a v | none => a) (.fin false 0 0)
  (all.flatMap (fun x => toBytes (fmtBits o / 8) x.1.1), (fround ffF32 m).1, orAll (all.map (fun x => x.1.2)),
    (List.range 4096).any (t.tileBadAt n))

/-! ### Issue of MMA and MMAG -/

/-- What a matrix instruction comes to at issue. -/
inductive MatRes
  | stop (x : Stop)
  /-- a fault after the operands are read, with the coordinates of lane 0 -/
  | fault (t : Trap) (coords : List Nat)
  | ok (e : AccEntry) (flags : Nat → Nat)

/-- A stop of an instruction whose lane 0 is outside a window besides: the one record has lane 0's cause (R331). -/
def Stop.after (out0 : Mask) (y : Stop) : Stop :=
  match y with
  | .trap t => if out0 == 0 || t.cause == .illegal then y else .trap { t with cause := .indexBound, sub := 0, addr := 0, lmask := t.lmask ||| out0 }
  | y => y

/-- Cut a list of (offset, bytes) out of a scratchpad. -/
def gather (t : Team) (rows : List Nat) (n : Nat) : List Byte := rows.flatMap (fun o => t.scr.bytes o n)

/-- The tensor places of B: column by column, each row bytes long (R218). -/
def tensorB (h : Handle) (q : MmaFmt) (cs : List Int) : List Place :=
  let c0 := (cs.head?).getD 0
  let c1 := (cs[1]?).getD 0
  (List.range q.n).flatMap (fun (j : Nat) =>
    let co := fun (k : Nat) => (c0 + (k : Int)) :: (c1 + (j : Int)) :: cs.drop 2
    if q.bits == 4 then
      let bs := (List.range 4).map (fun (b : Nat) => h.block (co (24 * b)) .zero)
      bs.flatMap (·.1) ++ bs.map (·.2)
    else (List.range q.k).flatMap (fun (k : Nat) => h.elem (co k) .zero))

/-- The sources of MMA and MMAG in a lane: S1 of an MMAG in every lane, the rest in lane 0 alone (R215, R217). -/
def mmaSrcs (f : F128X) (ga : Bool) (l : Nat) : List (Use × Src) :=
  (if ga then [(.w32, f.s1)] else []) ++ if l != 0 then [] else if ga then [(.w32, f.s2)] else [(.w32, f.s1), (.w32, f.s2)]

/-- What a lane of MMA or MMAG reads: its value of S1, and lane 0's of the rest. -/
def mmaRead (s : State) (c : Crew) (mask : Mask) (f : F128X) (ga : Bool) (l : Nat) : LaneRead := readLane s c mask (mmaSrcs f ga l) l
def mmaOnly (s : State) (c : Crew) (mask : Mask) (f : F128X) (ga : Bool) : List Nat := (mmaRead s c mask f ga 0).vals.drop (ofBool ga)

/-- The coordinates that lane 0 reads of a tensor of some rank, or has logged (R215, R305). -/
def mmaCoords (s : State) (c : Crew) (mask : Mask) (f : F128X) (ga : Bool) (rank : Nat) : SrcRead :=
  let logged := (mmaOnly s c mask f ga).drop (if ga then 1 else 2)
  if (c.thread 0).relog.isSome && logged.length == rank then ⟨logged, false, false, []⟩ else readRun c 0 f.s3.code.toNat rank false

/-- The issue of an MMA or MMAG by a whole crew whose guard is true: R220 in order, then the latch's data (R216 to R219). -/
def mmaPlan (s : State) (c : Crew) (iss : Issue) (i : Instr) (f : F128X) (ga : Bool) : MatRes :=
  let t := s.teamOf c
  let x := s.ctxOf t.ctx
  let ct := f.ctl.toNat
  let bt := bit ct 8
  let q := (mmaFmt (field ct 0 4) (field ct 4 4)).getD ⟨0, 0, 8, 0⟩
  let m0 : Mask := 1
  let lane0 : List (Use × Src) := if ga then [(.w32, f.s2)] else [(.w32, f.s1), (.w32, f.s2)]
  let all : List (Use × Src) := if ga then [(.w32, f.s1)] else []
  let kept := match (if bt then s.handle x (val (mmaOnly s c iss.mask f ga) (if ga then 0 else 1)) else .error .handleInvalid) with
    | .ok h => if h.rank < 2 || f.s3.code.toNat + h.rank - 1 > 127 then [] else
        let co := mmaCoords s c iss.mask f ga h.rank
        if co.regs.any (fun p => regBlocked c p || regBad c p) then [] else co.vals
    | .error _ => []
  let trap := fun (k : Cause) (m : Mask) (a : Nat) => MatRes.fault { cause := k, lmask := m, pc := iss.pc, addr := a } kept
  /- nothing has been read yet -/
  if c.gdepth ≥ 1 then .stop (.trap { cause := .gateSpace, lmask := m0, pc := iss.pc })
  else
    let out0 := boundLanes c m0 lane0 255 1
    match operandCheck s c iss.mask m0 m0 iss.pc lane0 255 1 false, operandCheck s c iss.mask allLanes allLanes iss.pc all 255 1 false with
    | some y, _ => .stop y
    | none, some y => .stop (Stop.after out0 y)
    | none, none =>
      let out := out0 ||| boundLanes c allLanes all 255 1
      if out != 0 then trap .indexBound out 0
      else
        let ra := mmaRead s c iss.mask f ga
        let r0 := mmaOnly s c iss.mask f ga
        let offA := val r0 0
        let v2 := val r0 (if ga then 0 else 1)
        let pA := 4 * field ct 10 7
        let pB := 4 * field ct 17 7
        let rowsA := if ga then (List.range 64).map (fun r => 16 * field (val (ra (r / 2)).vals 0) (16 * (r % 2)) 16)
                     else (List.range 64).map (fun r => offA + r * pA)
        let colsB := (List.range q.n).map (fun j => v2 + j * pB)
        let size := 1024 * t.scrK
        let past := fun (o : Nat) => decide (o + q.rowBytes > size)
        if !ga && offA % 16 != 0 then trap .misalign m0 offA
        else if !bt && v2 % 16 != 0 then trap .misalign m0 v2
        else if rowsA.any past then
          let ls := (List.range 64).filter (fun r => past ((rowsA[r]?).getD 0))
          trap .scratchBound (if ga then maskOf (ls.map (· / 2)).eraseDups else m0) ((rowsA[ls.head?.getD 0]?).getD 0)
        else if !bt && colsB.any past then trap .scratchBound m0 ((colsB.find? past).getD v2)
        else
          let band := fun (k : Nat) => ((c.creg[k]?).getD 0).toNat
          let entry := fun (b : List Byte) (bs : List Place) (d : Option (Nat × Nat)) (g : Nat) =>
            ({ id := s.nextId, core := c.core, ctx := t.ctx, serial := c.team, crew := c.id, lane := 0, pc := iss.pc, ins := i
               srcs := [f.h.dst.toNat - 216], dsts := [f.h.dst.toNat - 216], a := gather t rowsA q.rowBytes, b := b, bsrc := bs, bbad := []
               dict := d, gen := g, scale := 0, bandA := band (f.s4.code.toNat - 128), bandB := band (field ct 24 6), units := [], scope := 0
               entered := s.cycle, sched := c.sched, lines := [], granted := true, started := false, result := [], flags := 0
               poison := none } : AccEntry)
          let fl := fun (extra : Nat) (l : Nat) => orF (readFlags (ra l)) (if l == 0 then extra else 0)
          let met := fun (o : Nat) => (s.poisonRead (dieOf c.core) (.scr t.serial o) q.rowBytes).isSome
          let scales := q.bits == 4 && [f.s4.code.toNat - 128, field ct 24 6].any c.cbad.contains
          /- the lanes that supply what is poisoned, each with its first offset: rows of A, columns of B, band scales (R314, R325) -/
          let fs : List LaneFault := ((rowsA.mapIdx (fun r o => (r, o))).filter (fun x => met x.2)).map (fun x => (if ga then x.1 / 2 else 0, .poison, 3, x.2))
            ++ ((if bt then [] else colsB).filter met).map (fun o => (0, .poison, 3, o)) ++ (if scales then [(0, .poison, 3, 0)] else [])
          let bad := !fs.isEmpty
          let poison := MatRes.fault (trapOf iss.pc fs) kept
          if !bt then (if bad then poison else .ok (entry (gather t colsB q.rowBytes) [] none 0) (fl 0))
          else if s.handleHeld t.ctx v2 then .stop (.stall .dep)
          else
            match s.handle x v2 with
            | .error k => trap k m0 0
            | .ok h =>
              let n := f.s3.code.toNat
              if h.rank < 2 || n + h.rank - 1 > 127 then trap .handleInvalid m0 0
              else if h.fmt != field ct 4 4 then trap .handleFmt m0 0
              else
                let co := mmaCoords s c iss.mask f ga h.rank
                let cs := co.vals.map (signed 32)
                if co.regs.any (regBlocked c) then .stop (.stall .dep)
                else if co.regs.any (regBad c) then .stop (.trap { cause := .poison, sub := 3, lmask := m0, pc := iss.pc })
                else if co.zread && t.strict then .stop (.trap { cause := .zreadStrict, lmask := m0, pc := iss.pc })
                else if q.bits == 4 && ((cs.head?).getD 0) % 24 != 0 then trap .blockAlign m0 0
                else
                  let bs := tensorB h q cs
                  match (match s.tensorFault h.part x.secure h.base with | some k => some k | none => s.placesFault x.secure bs) with
                  | some k => trap k m0 0
                  | none =>
                    if bad then poison
                    else
                      let d := s.bindDict t.ctx h
                      .ok (entry [] bs d.1 d.2) (fl (if co.zread then flZREAD else 0))

/-- A fault of MMA or MMAG at issue: the lanes that take it keep what they have read (R210, R305). -/
def State.mmaFault (s : State) (c : Crew) (iss : Issue) (i : Instr) (f : F128X) (ga : Bool) (t : Trap) (coords : List Nat) : State :=
  (s.modCrew iss.crew (fun d =>
    (d.logLanes s c iss.mask t.lmask (mmaSrcs f ga) ga (fun l => if l == 0 then coords else [])).keepLog { pc := iss.pc, ins := i, slots := 0, group := s.nextId })).stopped
    iss.crew iss (.trap t)

/-- Issue MMA or MMAG: the crew stays STALLED while its operand latch fills (R219). -/
def runMma (i : Instr) (f : F128X) (ga : Bool) (s : State) : Out :=
  match s.cur with
  | none => .next s
  | some iss =>
    match s.crew? iss.crew with
    | none => .next s
    | some c =>
      let em := guardMask c iss.mask f.h
      match (match s.illegalNow c iss.mask 0 iss.pc [] (namedTiles i) with
        | some x => some x
        | none => collective c iss.mask em iss.pc false) with
      | some x => .next (s.stopped iss.crew iss x)
      | none =>
        if em == 0 then .next (s.modCrew iss.crew (fun c => c.advance iss.mask s.cycle (fun _ t => t.pc + 16)))
        else
          match mmaPlan s c iss i f ga with
          | .stop x => .next (s.stopped iss.crew iss x)
          | .fault t co => .next (s.mmaFault c iss i f ga t co)
          | .ok _ _ => .next ((s.modCrew iss.crew (fun c => { c with latch := some i })).stopped iss.crew iss (.stall .latch))

/-- MMA (R215, R219). -/
def execMma (f : F128X) (s : State) : Out := runMma (.mma f) f false s
/-- MMAG (R217, R219). -/
def execMmag (f : F128X) (s : State) : Out := runMma (.mmag f) f true s

/-- Entries in the accumulator queue of a core (R212). -/
def State.queued (s : State) (core : Nat) : Nat := (s.accq.filter (fun e => e.core == core && e.granted)).length

/-- Whether the latch of a crew can fill: its threads stand STALLED for it, their earlier accesses are performed (R122), and the
queue has room. What a TCOPY or DICTLD moves is no earlier access (log 93). -/
def State.latchReady (s : State) (c : Crew) : Bool :=
  c.latch.isSome && c.threads.all (fun t => t.st == .stalled && t.why == .latch)
    && !(s.accs.any (fun a => a.serial == c.team && a.crew == c.id && a.kind != .copy)) && decide (s.queued c.core < Config.accQueue)

/-- An entry enters the queue of its core: those of one cycle stand in the order of their schedulers (R212). -/
def enterQueue (l : List AccEntry) (e : AccEntry) : List AccEntry :=
  let late := fun (x : AccEntry) => x.core == e.core && x.granted && x.entered == e.entered && decide (e.sched < x.sched)
  l.takeWhile (fun x => !late x) ++ e :: l.dropWhile (fun x => !late x)

/-- The writes of an AST or AEPI and its amax update, from its entry into the queue: they wait for its start (R212, R225). -/
def tileAccs (e : AccEntry) : List Acc :=
  if e.units.isEmpty then []
  else [{ (default : Acc) with
    id := e.id, group := e.id, serial := e.serial, crew := e.crew, lane := e.lane, core := e.core, ctx := e.ctx, pc := e.pc, ins := e.ins
    kind := .tile, units := e.units, foot := e.foot, scope := e.scope, rd := 2, hold := .tile }]

/-- An accumulator instruction enters the queue. -/
def State.enter (s : State) (e : AccEntry) : State := { s with accq := enterQueue s.accq e, accs := s.accs ++ tileAccs e }

/-- OPERAND_LATCH_FILL: the latch is full and the instruction issues: it enters the queue, and the crew goes on (R219). -/
def execOperandLatchFill (team crew : Nat) (s : State) : Out :=
  match s.crewAt team crew with
  | none => .next s
  | some k =>
    match s.crew? k with
    | none => .next s
    | some c =>
      match c.latch.bind (fun i => (mmaFields i).map (fun p => (i, p.1, p.2))) with
      | none => .next s
      | some (i, f, ga) =>
        if !s.latchReady c then .next s
        else
          let iss : Issue := { crew := k, mask := allLanes, pc := (c.thread 0).pc }
          let s := s.modCrew k (fun c => { c with latch := none })
          match mmaPlan s c iss i f ga with
          | .stop x => .next (s.stopped k iss x)
          | .fault t co => .next (s.mmaFault c iss i f ga t co)
          | .ok e fl =>
            let srcs : List (Use × Src) := [(.w32, f.s1), (.w32, f.s2)]
            let lane0 : List (Use × Src) := if ga then [(.w32, f.s2)] else srcs
            let c1 := releaseAll allLanes 1 false lane0 { c with latch := none }
            let c2 := if ga then releaseAll allLanes allLanes false [(.w32, f.s1)] c1 else c1
            let c3 := c2.modLanes allLanes (fun l t => t.raise (fl l))
            .next { (s.modCrew k (fun _ => c3.advance allLanes s.cycle (fun _ t => t.pc + 16))).enter e with nextId := s.nextId + 1 }

/-- TENSOR_READ_COMPLETE: B arrives from the tensor store (R218, R238, R322). -/
def execTensorReadComplete (id : Nat) (s : State) : Out :=
  match s.accq.find? (fun e => e.id == id) with
  | none => .next s
  | some e =>
    if e.bsrc.isEmpty || !s.dictReady e.ctx e.dict e.gen || s.frozen e.ctx then .next s
    else
      let rs := e.bsrc.map (s.placeByte (dieOf e.core) e.ctx)
      let s := (e.bsrc.foldl (fun s p => match p with | .at l | .code l _ _ _ => s.check l 1 | _ => s) s).touchPlaces e.ctx e.bsrc
      let bad := ((rs.mapIdx (fun k r => (k, r.2))).filter (·.2)).map (·.1)
      .next { s with accq := s.accq.map (fun (x : AccEntry) => if x.id == id then { x with b := rs.map (·.1), bsrc := [], bbad := bad } else x) }

/-! ### Moves and the epilogue at issue -/

/-- What an accumulator instruction of one bundle comes to. -/
inductive AccPlan
  | stall (w : Why)
  | fault (c : Cause) (sub addr : Nat) (vas : List Nat := [])
  | page (va addr : Nat) (vas : List Nat := [])
  /-- the entry; in each case the pages that its checks looked up -/
  | ok (e : AccEntry) (vas : List Nat := [])

/-- An entry with nothing in it yet. -/
def newEntry (s : State) (c : Crew) (lane : Nat) (pc : DWord) (i : Instr) : AccEntry :=
  { id := s.nextId, core := c.core, ctx := (s.teamOf c).ctx, serial := c.team, crew := c.id, lane := lane, pc := pc, ins := i
    srcs := [], dsts := [], a := [], b := [], bsrc := [], bbad := [], dict := none, gen := 0, scale := 0, bandA := 0, bandB := 0
    units := [], scope := 0, entered := s.cycle, sched := c.sched, lines := [], granted := true, started := false, result := [], flags := 0
    poison := none }

/-- An AEPI, or a lane of a TCOPY or DICTLD, that waits for a page in the operand log, and the crew runs on (R210, R305). -/
def engineWait (s : State) (c : Crew) (i : Instr) (k : AccKind) (id group lane : Nat) (pc : DWord) (v : List Nat) (slots va : Nat)
    (foot : List (Where × Nat)) : Acc :=
  { (default : Acc) with
    id := id, group := group, serial := c.team, crew := c.id, lane := lane, core := c.core, ctx := (s.teamOf c).ctx, pc := pc
    ins := i, kind := k, addr := val v 0, foot := foot, vals := v, hold := .page va, paged := true, slots := slots, gdepth := c.gdepth }

/-- The range that n bytes at a generic address cover. -/
def State.genFoot (s : State) (c : Crew) (lane g n : Nat) : List (Where × Nat) :=
  match decodeAddr g with
  | .ok (sp, o) => s.footOf c lane sp o n
  | .error _ => []

/-- The destination rows of an AEPI from its destination on: offsets, and the bytes of one (R223). -/
def aepiRows (f : F128X) (v : List Nat) : List Nat × Nat :=
  let ct := f.ctl.toNat
  let pitch := match v.getLast? with | some p => p | none => 0
  ((List.range 64).map (fun i => val v 0 + i * pitch), (if field ct 14 2 == 2 then 32 else 64) * (fmtBits (field ct 4 4) / 8))

/-- The destination rows and the amax word of an AEPI as (generic address, bytes), rows of a scratchpad destination left out (R223, R224). -/
def aepiRanges (f : F128X) (v : List Nat) : List (Nat × Nat) :=
  let ct := f.ctl.toNat
  let r := aepiRows f v
  (if bit ct 8 then [] else r.1.map (fun o => (o % 2 ^ 64, r.2))) ++ if bit ct 10 then [(val v 2, 4)] else []

/-- The AEPI of an instruction, if it is one. -/
def aepiOf (i : Instr) : Option F128X := match i with | .aepi f => some f | _ => none

/-- The rows of a scratchpad tile: the 256 bytes of each (R222). -/
def rowFoot (serial off pitch : Nat) : List (Where × Nat) := (List.range 64).map (fun i => (.loc (.scr serial (off + 4 * pitch * i)), 256))

/-- What an AEPI writes in memory and in the scratchpad, for the order of the accesses of its lane (R112, R124). -/
def State.accFoot (s : State) (c : Crew) (i : Instr) (lane : Nat) (v : List Nat) : List (Where × Nat) :=
  match aepiOf i with
  | some f =>
    let r := aepiRows f v
    (if bit f.ctl.toNat 8 then r.1.map (fun o => (Where.loc (.scr c.team o), r.2)) else [])
      ++ (aepiRanges f v).flatMap (fun x => s.genFoot c lane x.1 x.2)
  | none => []

/-- Issue an accumulator instruction once for its bundle, from the lowest lane whose guard is true (R209, R210, R212), which alone supplies and
releases the operands (DESIGN CHOICE, log 105). At a page fault the instruction waits in the operand log, and the crew runs on (R210). An
entry with destination lines waits for them in G. -/
def runAcc (i : Instr) (h : Hdr) (srcs : List (Use × Src)) (len slots : Nat) (plan : State → Crew → Nat → DWord → List Nat → AccPlan)
    (s : State) : Out :=
  match s.cur with
  | none => .next s
  | some iss =>
    match s.crew? iss.crew with
    | none => .next s
    | some c =>
      let em := guardMask c iss.mask h
      match s.illegalNow c iss.mask em iss.pc srcs (namedTiles i), (lanesOf em).head? with
      | some x, _ => .next (s.stopped iss.crew iss x)
      | none, none => .next (s.modCrew iss.crew (fun c => c.advance iss.mask s.cycle (fun _ t => t.pc + BitVec.ofNat 64 len)))
      | none, some l =>
        let m1 : Mask := maskOf [l]
        let used := fun (s : State) (vas : List Nat) => s.engineUse c.core c.asid c.secure vas
        let trap := fun (s : State) (k : Cause) (sub a : Nat) => (s.modCrew iss.crew (fun _ =>
          (c.logLanes s c iss.mask m1 (fun _ => srcs)).keepLog { pc := iss.pc, ins := i, slots := slots, group := s.nextId })).stopped iss.crew iss
            (.trap { cause := k, sub := sub, lmask := m1, pc := iss.pc, addr := a })
        /- nothing has been read yet -/
        if c.gdepth ≥ 1 then .next (s.stopped iss.crew iss (.trap { cause := .gateSpace, lmask := m1, pc := iss.pc }))
        else
          match operandCheck s c iss.mask m1 m1 iss.pc srcs 255 1 false with
          | some x => .next (s.stopped iss.crew iss x)
          | none =>
            if boundLanes c m1 srcs 255 1 != 0 then .next (trap s .indexBound 0 0)
            else if s.queued c.core ≥ Config.accQueue || slots > 0 && s.slotsHeld c.team c.id + slots > Config.logSlots then
              .next (s.stopped iss.crew iss (.stall .struct))
            else
              let rd := readLane s c iss.mask srcs l
              match plan s c l iss.pc rd.vals with
              | .stall w => .next (s.stopped iss.crew iss (.stall w))
              | .fault k sub a vas => .next (trap (used s vas) k sub a)
              | .page va a vas =>
                let s := used s vas
                let c1 := (releaseAll iss.mask m1 false srcs c).modLanes m1 (fun _ t => t.raise (readFlags rd))
                let s1 := { s with
                  accs := s.accs ++ [engineWait s c i .epi s.nextId s.nextId l iss.pc rd.vals slots va (s.accFoot c i l rd.vals)]
                  nextId := s.nextId + 1 }
                .next ((s1.modCrew iss.crew (fun _ => c1.advance iss.mask s.cycle (fun _ t => t.pc + BitVec.ofNat 64 len))).pageRecords c
                  iss.pc [(l, va, a)])
              | .ok e vas =>
                let c1 := (releaseAll iss.mask m1 false srcs c).modLanes m1 (fun _ t => t.raise (readFlags rd))
                let s1 := { used s vas with nextId := s.nextId + 1 }
                if e.granted then
                  .next ((s1.enter e).modCrew iss.crew (fun _ => c1.advance iss.mask s.cycle (fun _ t => t.pc + BitVec.ofNat 64 len)))
                else .next ({ s1 with accq := s1.accq ++ [e] }.modCrew iss.crew (fun _ => c1.stall iss.mask .grant))

/-- ACLR (R221). -/
def execAclr (f : F64) (s : State) : Out :=
  runAcc (.aclr f) f.h [] 8 0 (fun s c l pc _ => .ok { newEntry s c l pc (.aclr f) with dsts := [f.h.dst.toNat - 216] }) s

/-- AMOV (R221). -/
def execAmov (f : F64) (s : State) : Out :=
  runAcc (.amov f) f.h [] 8 0 (fun s c l pc _ =>
    .ok { newEntry s c l pc (.amov f) with srcs := [field f.mod.toNat 0 4], dsts := [f.h.dst.toNat - 216] }) s

/-- The faults of ALD and AST at issue (R222). -/
def tileRowsFault (t : Team) (off pitch : Nat) : Option Cause :=
  if off % 16 != 0 then some .misalign
  else if off + 4 * pitch * 63 + 256 > 1024 * t.scrK then some .scratchBound
  else none

/-- ALD: its bytes are latched at issue, after the thread's earlier accesses to them (R112, R222). -/
def execAld (f : F128X) (s : State) : Out :=
  runAcc (.ald f) f.h [(.w32, f.s1)] 16 0 (fun s c l pc v =>
    let t := s.teamOf c
    let off := val v 0
    let pitch := field f.ctl.toNat 0 11
    let rows := (List.range 64).map (fun i => off + 4 * pitch * i)
    match tileRowsFault t off pitch with
    | some k => .fault k 0 off
    | none =>
      let me : Acc := { (default : Acc) with id := s.nextId, serial := c.team, crew := c.id, lane := l, kind := .load, foot := rowFoot c.team off pitch }
      let us := rows.map (fun o => ({ loc := .scr t.serial o, size := 256, data := 0, done := false } : AUnit))
      if s.accs.any (fun b => us.any (fun u => blockedBy me u b)) then .stall .dep
      else if rows.any (fun o => (s.poisonRead (dieOf c.core) (.scr t.serial o) 256).isSome) then .fault .poison 3 off
      else .ok { newEntry s c l pc (.ald f) with dsts := [f.h.dst.toNat - 216], a := gather t rows 256 }) s

/-- AST (R222). -/
def execAst (f : F128X) (s : State) : Out :=
  runAcc (.ast f) f.h [(.w32, f.s1)] 16 0 (fun s c l pc v =>
    let t := s.teamOf c
    let off := val v 0
    let pitch := field f.ctl.toNat 0 11
    match tileRowsFault t off pitch with
    | some k => .fault k 0 off
    | none => .ok { newEntry s c l pc (.ast f) with
                    srcs := [field f.ctl.toNat 11 4], foot := rowFoot c.team off pitch
                    units := (List.range 2048).map (fun u =>
                      { loc := .scr t.serial (off + 4 * pitch * (u / 32) + 8 * (u % 32)), size := 8, data := 0, done := false }) }) s

/-- The place of n bytes of a generic address for an engine of a crew's thread, with its page: bounds, translation, power, in the
order of R173; engines use the last-level TLB and the walk (R300). -/
def State.enginePiece (s : State) (c : Crew) (lane : Nat) (w : Want) (g n : Nat) : Except LaneRes (Loc × Option Leaf) :=
  match decodeAddr g with
  | .error e => .error (.fault e 0 g)
  | .ok (sp, o) =>
    let a := recGen g
    match s.whereIs c lane sp (o : Int) n with
    | .error e => .error (.fault e 0 a)
    | .ok (.loc l) =>
      match l with
      | .dscr _ d _ => if s.dieOff d then .error (.fault .layerOff 0 a) else .ok (l, none)
      | _ => .ok (l, none)
    | .ok (.va va) =>
      if s.engineHeld c.core c.asid c.secure va then .error .wait
      else match s.engineLeaf c.core c.asid c.secure va with
      | .error .pageAbsent => .error (.page (va / 65536 * 65536) a [])
      | .error e => .error (.fault e 0 a)
      | .ok l =>
        let pa := l.pa + (va - l.va)
        match s.leafFault l c.secure (s.teamOf c).level pa w with
        | some e => .error (.fault e 0 a)
        | none =>
          if sp == .global && s.fenced c lane va n || s.tableAt pa n then .error (.fault .pageProt 0 a)
          else if s.homeOff pa then .error (.fault .layerOff 0 a)
          else .ok (.phys pa, some l)

/-- Places of a list of (address, bytes). -/
def State.enginePieces (s : State) (c : Crew) (lane : Nat) (w : Want) : List (Nat × Nat) → Except LaneRes (List (Loc × Option Leaf))
  | [] => .ok []
  | (g, n) :: l =>
    match s.enginePiece c lane w g n with
    | .error r => .error r
    | .ok x => match s.enginePieces c lane w l with | .error r => .error r | .ok xs => .ok (x :: xs)

/-- The virtual addresses that an engine translates for a list of (address, bytes): one for each 64 KiB page (R300). -/
def State.engineVas (s : State) (c : Crew) (lane : Nat) (gs : List (Nat × Nat)) : List Nat :=
  ((gs.flatMap (fun x => footVas (s.genFoot c lane x.1 1) ++ footVas (s.genFoot c lane ((x.1 + x.2 - 1) % 2 ^ 64) 1))).map
    (fun v => v / 65536 * 65536)).eraseDups

/-- The pages that an engine looks up for them, in order, up to the first piece that fails. -/
def State.engineTried (s : State) (c : Crew) (lane : Nat) (w : Want) : List (Nat × Nat) → List Nat
  | [] => []
  | (g, n) :: l =>
    match s.enginePiece c lane w g n with
    | .error (.fault .privBound _ _) => []
    | .error _ => s.engineVas c lane [(g, n)]
    | .ok _ => s.engineVas c lane [(g, n)] ++ s.engineTried c lane w l

/-- Global lines of a list of locations (R117). -/
def linesOf (l : List Loc) : List Nat := (l.filterMap Loc.line).eraseDups

/-- What keeps an AEPI from looking at its destination (R224): its alignment, and the bound of a scratchpad destination. -/
def aepiBad (s : State) (c : Crew) (f : F128X) (v : List Nat) : Option LaneRes :=
  let ct := f.ctl.toNat
  let dst := val v 0
  let r := aepiRows f v
  let pitch := match v.getLast? with | some p => p | none => 0
  let dstA := if bit ct 8 then dst else recGen dst
  if dst % 16 != 0 || pitch % 16 != 0 || pitch < r.2 then some (.fault .misalign 0 dstA)
  else if bit ct 10 && val v 2 % 4 != 0 then some (.fault .misalign 0 (recGen (val v 2)))
  else if bit ct 8 && dst + 63 * pitch + r.2 > 1024 * (s.teamOf c).scrK then some (.fault .scratchBound 0 dst)
  else none

/-- The 8-byte units of the rows of an AEPI, from its destination on (R224). -/
def aepiOffs (f : F128X) (v : List Nat) : List Nat :=
  let r := aepiRows f v
  r.1.flatMap (fun o => (List.range (r.2 / 8)).map (fun u => o + 8 * u))

/-- What an AEPI writes by generic addresses, piece by piece: its rows and its amax word. -/
def aepiGens (f : F128X) (v : List Nat) : List (Nat × Nat) :=
  (if bit f.ctl.toNat 8 then [] else (aepiOffs f v).map (fun o => (o % 2 ^ 64, 8))) ++ if bit f.ctl.toNat 10 then [(val v 2, 4)] else []

/-- The pages that the checks of an AEPI look up. -/
def aepiTried (s : State) (c : Crew) (f : F128X) (lane : Nat) (v : List Nat) : List Nat :=
  if (aepiBad s c f v).isSome then [] else (s.engineTried c lane .write (aepiGens f v)).eraseDups

/-- The destination units of an AEPI and its amax word, or the first fault of R224's checks. The spec gives the orders of R173 for every
row and the amax word together: the first 8-byte unit that fails decides, the rows before the amax word (DESIGN CHOICE, log 94). -/
def aepiPlaces (s : State) (c : Crew) (f : F128X) (lane : Nat) (v : List Nat) : Except LaneRes (List AUnit) :=
  let ct := f.ctl.toNat
  let t := s.teamOf c
  let spc := bit ct 8
  let amx := bit ct 10
  let dst := val v 0
  let amaxA := if amx then val v 2 else 0
  let dstA := if spc then dst else recGen dst
  match aepiBad s c f v with
  | some r => .error r
  | none =>
    let offs := aepiOffs f v
    let rows : Except LaneRes (List (Loc × Option Leaf)) :=
      if spc then .ok (offs.map (fun o => (Loc.scr t.serial o, none)))
      else s.enginePieces c lane .write (offs.map (fun o => (o % 2 ^ 64, 8)))
    let am : Except LaneRes (List (Loc × Option Leaf)) := if amx then s.enginePieces c lane .write [(amaxA, 4)] else .ok []
    match rows, am with
    | .error r, _ => .error r
    | _, .error r => .error r
    | .ok rs, .ok as =>
      let fp4 := fun (x : Loc × Option Leaf) => (x.2.getD default).sfmt == 7
      let mk := fun (n : Nat) (x : Loc × Option Leaf) => AUnit.on x.2 { loc := x.1, size := n, data := 0, done := false }
      let us := rs.map (mk 8)
      let aus := as.map (mk 4)
      let ls := us.map (·.loc)
      if rs.any fp4 || as.any fp4 then .error (.fault .blockAlign 0 dstA)
      else
        let part := (offs.zip ls).find? (fun (x : Nat × Loc) => match x.2 with
          | .phys pa => s.sectorBad none (pa / 256) && !sectorWhole ls 256 (pa / 256)
          | _ => false)
        match part, aus.findSome? (fun u => s.poisonRead (dieOf c.core) u.loc 4) with
        | some (o, _), _ => .error (.fault .poison 1 (if spc then o else recGen (o % 2 ^ 64)))
        | none, some sub => .error (.fault .poison sub (recGen amaxA))
        | none, none => .ok (us ++ aus)

/-- The tile that an AEPI reads (R223). -/
def aepiTile (f : F128X) : Nat := field f.ctl.toNat 0 4

/-- The queue entry of an AEPI whose checks have passed. -/
def aepiEntry (s : State) (c : Crew) (f : F128X) (lane : Nat) (pc : DWord) (v : List Nat) (us : List AUnit) : AccEntry :=
  let lines := linesOf ((us.filter (fun u => u.size == 8)).map (·.loc))
  { newEntry s c lane pc (.aepi f) with
    srcs := [aepiTile f], scale := val v 1, units := us, scope := field f.ctl.toNat 11 3, lines := lines, granted := lines.isEmpty
    foot := s.accFoot c (.aepi f) lane v }

/-- AEPI (R223, R224). It takes a log slot when it checks flat memory (R305). -/
def execAepi (f : F128X) (s : State) : Out :=
  let ct := f.ctl.toNat
  let srcs : List (Use × Src) :=
    [(useW (!bit ct 8), f.s1), (.w32, f.s2)] ++ (if bit ct 10 then [(.w64, f.s3)] else []) ++ [(.w32, f.s4)]
  runAcc (.aepi f) f.h srcs 16 (ofBool (!bit ct 8 || bit ct 10)) (fun s c l pc v =>
    match aepiPlaces s c f l v with
    | .error (.fault k sub a) => .fault k sub a (aepiTried s c f l v)
    | .error (.page va a _) => .page va a (aepiTried s c f l v)
    | .error _ => .stall .xlate
    | .ok us => .ok (aepiEntry s c f l pc v us) (aepiTried s c f l v)) s

/-! ### Replays of AEPI (R306) -/

/-- Place a replayed AEPI among the entries: before those of its team that were issued after it and name its tile (R124, R212). -/
def placeEntry (l : List AccEntry) (e : AccEntry) : List AccEntry :=
  let late := fun (x : AccEntry) => x.serial == e.serial && decide (e.id < x.id) && (x.srcs ++ x.dsts).any (e.srcs ++ e.dsts).contains
  l.takeWhile (fun x => !late x) ++ e :: l.dropWhile (fun x => !late x)

/-- An AEPI that is replayed, as it would enter the queue: its lines can be held in G, and the queue has room; none where it cannot yet. -/
def State.epiEntry (s : State) (c : Crew) (a : Acc) (f : F128X) (us : List AUnit) : Option AccEntry :=
  let e := { aepiEntry s c f a.lane a.pc a.vals us with id := a.id, granted := true }
  if s.linesFree a.id a.serial a.crew a.lane e.lines && decide (s.queued c.core < Config.accQueue) then some e else none

/-- Replay an AEPI that waited for a page: it is checked again, and enters the queue (R210, R224, R306). -/
def State.replayEpi (s : State) (k : Nat) (c : Crew) (a : Acc) : State :=
  match aepiOf a.ins with
  | none => s
  | some f =>
    let used := s.engineUse c.core c.asid c.secure (aepiTried s c f a.lane a.vals)
    match aepiPlaces s c f a.lane a.vals with
    | .error (.page va x _) => replayLanes used k c a.pc [(a, .page va x a.foot)]
    | .error .wait => s
    | .error r => replayLanes used k c a.pc [(a, r)]
    | .ok us =>
      match s.epiEntry c a f us with
      | none => s
      | some e =>
        let s := used
        { s with accs := s.accs.filter (fun x => x.id != a.id) ++ tileAccs e, accq := placeEntry s.accq e }

/-! ### The queue (R212) -/

/-- Tiles that an entry names. -/
def AccEntry.tiles (e : AccEntry) : List Nat := e.srcs ++ e.dsts

def AccEntry.isMma (e : AccEntry) : Bool := (mmaFields e.ins).isSome

/-- Whether an entry may start: no earlier entry of its team that names one of its tiles is left, its data are present, and the
array is free for a matrix instruction (R212, R213). The entries of one cycle are in order before one of them starts. -/
def State.mayStart (s : State) (e : AccEntry) : Bool :=
  e.granted && !e.started && e.bsrc.isEmpty && decide (e.entered < s.cycle)
    && !((s.accq.takeWhile (fun x => x.id != e.id)).any (fun x => x.granted && x.serial == e.serial && x.tiles.any e.tiles.contains))
    && !s.accs.any (fun a => a.kind == .epi && a.serial == e.serial && decide (a.id < e.id)
          && match aepiOf a.ins with | some f => e.tiles.contains (aepiTile f) | none => false)
    && !(e.isMma && s.accq.any (fun x => x.core == e.core && x.started && x.isMma))

/-- The values of a list of bytes, 8 at a time. -/
def wordData : Nat → List Byte → List Nat
  | 0, _ => []
  | n + 1, b => ofBytes (b.take 8) :: wordData n (b.drop 8)

/-- The values of the units that an AST or AEPI writes (R222, R224). A poisoned word of an AST is the canonical NaN of FP32 (R322, log 95). -/
def entryData (t : Team) (e : AccEntry) : List Nat :=
  let src := e.srcs.head?.getD 0
  match e.ins with
  | .ast _ => (List.range 2048).map (fun u =>
      let w := fun (k : Nat) => if t.tileBadAt src k then ffF32.nan else t.tileWord src k
      w (2 * u) + 2 ^ 32 * w (2 * u + 1))
  | .aepi f =>
    let r := aepiResult t f e.scale
    wordData (r.1.length / 8) r.1 ++ [r.2.1]
  | _ => []

/-- What an entry will write to tiles, its flags, the poison it met (R219 to R224). -/
def State.entryResult (s : State) (e : AccEntry) : AccEntry :=
  match s.findTeam e.serial with
  | none => { e with started := true }
  | some t =>
    let d := e.dsts.head?.getD 0
    let src := e.srcs.head?.getD 0
    let bad := (List.range 4096).any (t.tileBadAt src)
    let e := { e with started := true }
    match e.ins with
    | .mma f | .mmag f =>
      let r := mmaResult s t e f
      { e with result := [(d, r.1)], flags := r.2.1, poison := r.2.2 }
    | .aclr _ => { e with result := [(d, [])] }
    | .amov f =>
      let w := fun (k : Nat) => if bit f.mod.toNat 4 then t.tileWord src (64 * (k % 64) + k / 64) else t.tileWord src k
      { e with result := [(d, tileMem w)], poison := if bad then some 3 else none }
    | .ald _ => { e with result := [(d, tileOfBytes e.a)] }
    | .ast _ => { e with poison := if bad then some 2 else none }
    | .aepi f =>
      let r := aepiResult t f e.scale
      { e with flags := r.2.2.1, poison := if r.2.2.2 then some 2 else none }
    | _ => e

/-- The writes of an entry that has started have their values and may be performed (R225). -/
def State.releaseTile (s : State) (e : AccEntry) : State :=
  let data := match s.findTeam e.serial with | some t => entryData t e | none => []
  s.modAcc e.id (fun a => { a with hold := .none, units := a.units.mapIdx (fun k u => { u with data := val data k }) })

/-- ACC_ENTRY_START: the oldest entry of the core that may start begins (R212). -/
def execAccEntryStart (core : Nat) (s : State) : Out :=
  match s.accq.find? (fun e => e.core == core && s.mayStart e) with
  | none => .next s
  | some e =>
    let r := s.entryResult e
    .next { s.releaseTile e with accq := s.accq.map (fun x => if x.id == e.id then r else x), freeCtr := s.freeCtr + 4096 }

/-- Whether every write of an entry has been performed (R212). -/
def State.entryWritten (s : State) (id : Nat) : Bool := !s.accs.any (fun a => a.id == id && a.kind == .tile)

/-- The tile words of an entry that completes: new values, and the poison that AMOV moves (R221, R325). -/
def State.entryTiles (s : State) (e : AccEntry) : State :=
  e.result.foldl (fun (s : State) r => s.modTeam e.serial (fun t =>
    { t with tile := t.tile.set r.1 r.2
             tileBad := t.tileBad.filter (fun w => w / 4096 != r.1)
               ++ (match e.ins with
                 | .amov f => let src := e.srcs.head?.getD 0
                              ((List.range 4096).filter (fun k =>
                                t.tileBadAt src (if bit f.mod.toNat 4 then 64 * (k % 64) + k / 64 else k))).map (4096 * r.1 + ·)
                 | _ => []) })) s

/-- A team that has ended keeps its tiles until its last entry has completed (R159, R212). -/
def State.freeTiles (s : State) (serial : Nat) : State :=
  if s.accq.any (fun e => e.serial == serial) then s else s.modTeam serial (fun t => if t.ended then { t with tile := [] } else t)

/-- ACC_ENTRY_COMPLETE: tile, memory and amax writes are done, the flags go to every thread of the crew, and poison met parks the
crew (R212, R224, R322, R76). -/
def execAccEntryComplete (id : Nat) (s : State) : Out :=
  match s.accq.find? (fun e => e.id == id) with
  | none => .next s
  | some e =>
    if !e.started || !s.entryWritten id then .next s
    else
      let s1 := s.entryTiles e
      let s2 := { s1 with accq := s1.accq.filter (fun x => x.id != id) }.freeTiles e.serial
      match s2.crewAt e.serial e.crew with
      | none => .next s2
      | some k =>
        let s3 := s2.modCrew k (fun c => c.raiseAll e.flags)
        match e.poison with
        | none => .next s3
        | some sub =>
          if (match s3.crew? k with | some c => c.live == 0 | none => true) then .next s3
          else .next (s3.takeFault k { cause := .poison, sub := sub, lmask := if e.isMma then allLanes else maskOf [e.lane], pc := e.pc })

end Sys2Proof.Machine
end

