-- ==== Sys2Proof/Machine/Copy.lean ====
section
/-! DEFINITION. Asynchronous copies, batches and dictionary loads (10 R226 to R239; 05 R117 to R120): TCOPY, SEAL, WAITB,
DICTLD and the events of their engines. -/
namespace Sys2Proof.Machine

/-! ### Layout records -/

/-- A dense layout record (R228): extents at or above RANK are 1. -/
structure Dense where
  rank : Nat
  esz : Nat
  base : Nat
  box : List Nat
  strides : List Int
deriving DecidableEq, Repr

/-- The record of two 32-byte elements, none when it is invalid (R228). -/
def denseOf (a b : Nat) : Option Dense :=
  let rank := field a 2 3
  let ext := (List.range 5).map (fun k => field a (128 + 16 * k) 16)
  if field a 0 2 != 1 || rank == 0 || rank > 5 || (ext.take rank).any (· == 0) then none
  else some { rank := rank, esz := 2 ^ field a 5 2, base := field a 64 64
              box := ext.mapIdx (fun k x => if k < rank then x else 1)
              strides := (List.range 4).map (fun k => signed 64 (field b (64 * k) 64)) }

/-- Index of box element k in packed order, b0 fastest (R228). -/
def boxIndex : List Nat → Nat → List Nat
  | [], _ => []
  | x :: l, k => k % x :: boxIndex l (k / x)

def prod (l : List Nat) : Nat := l.foldl (· * ·) 1

/-- Flat address of a box element (R228). -/
def Dense.addr (d : Dense) (e : Nat) (ix : List Nat) : Nat :=
  let tail := ((ix.drop 1).zip d.strides).map (fun p => (p.1 : Int) * p.2)
  wrap 64 ((d.base : Int) + e * val ix 0 + tail.foldl (· + ·) 0)

/-- Flat address of the first box element that is not aligned to its size e. -/
def Dense.odd (d : Dense) (e : Nat) : Option Nat :=
  ((List.range (prod d.box)).map (fun k => d.addr e (boxIndex d.box k))).find? (fun a => a % e != 0)

/-- Bytes of a packed FP4B24 row (R230). -/
def fp4Row (b0 : Nat) : Nat := (b0 / 2 + b0 / 24 + 3) / 4 * 4

/-- Bytes that a dense record moves (R230). -/
def Dense.bytes (d : Dense) (e : Nat) (fp4 : Bool) : Nat :=
  if fp4 then prod (d.box.drop 1) * fp4Row (val d.box 0) else prod d.box * e

/-- The flat side in packed order. -/
def Dense.flat (d : Dense) (e : Nat) : List Place :=
  (List.range (prod d.box)).flatMap (fun k => let a := d.addr e (boxIndex d.box k); (List.range e).map (fun j => .va ((a + j) % 2 ^ 64)))

/-- The tensor side in packed order; `out` stands for elements outside, `pad` for pad bytes (R230, R231). -/
def Dense.tensor (d : Dense) (h : Handle) (cs : List Int) (out pad : Place) : List Place :=
  let at2 := fun (ix : List Nat) => cs.mapIdx (fun k (c : Int) => c + (val ix k : Int))
  if h.fmt == 7 then
    let b0 := val d.box 0
    (List.range (prod (d.box.drop 1))).flatMap (fun r =>
      let ix := boxIndex (d.box.drop 1) r
      let bs := (List.range (b0 / 24)).map (fun q => h.block (at2 (24 * q :: ix)) out)
      bs.flatMap (·.1) ++ bs.map (·.2) ++ List.replicate (fp4Row b0 - b0 / 2 - b0 / 24) pad)
  else (List.range (prod d.box)).flatMap (fun k => h.elem (at2 (boxIndex d.box k)) out)

/-- Whether a record fits a handle (R231). -/
def Dense.fits (d : Dense) (h : Handle) (flat : Bool) : Bool :=
  d.rank ≤ h.rank && (h.fmt != 7 || val d.box 0 % 24 == 0 && !flat)

/-! ### Moves -/

/-- The aligned 8-byte unit that a destination byte lies in. -/
def Place.unit : Place → Option Loc
  | .at (.phys a) => some (.phys (a / 8))
  | .at (.scr t o) => some (.scr t (o / 8))
  | .at (.dscr c d o) => some (.dscr c d (o / 8))
  | .at (.ten p o) => some (.ten p (o / 8))
  | .va g => some (.phys (g / 8))
  | _ => none

/-- The FP4B24 block that a byte of a tensor's planes belongs to, element byte or scale (R63, R120). -/
def blockOf (plane : Nat × Nat × Nat) (y : Place) : Option Nat :=
  match y with
  | .at (.ten p o) => if p != plane.1 then none else if plane.2.1 ≤ o && (o < plane.2.2 || plane.2.2 < plane.2.1) then some ((o - plane.2.1) / 12) else some (o - plane.2.2)
  | .code (.ten p o) _ _ k => if p != plane.1 then none else some ((4 * (o - plane.2.1) + k) / 12)
  | _ => none

/-- What a destination byte is written with in one event: its aligned 8-byte unit (R108), or its FP4B24 block and scale (R120). -/
def Place.event (plane : Option (Nat × Nat × Nat)) (y : Place) : Option Loc :=
  match y, plane with
  | .at (.ten p _), some q => (blockOf q y).map (fun b => .ten p b)
  | _, _ => y.unit

/-- Put a byte into the move of its event; a place that the move writes already begins another. -/
def joinMove (plane : Option (Nat × Nat × Nat)) (x y : Place) : List Move → Option (List Move)
  | [] => none
  | m :: ms =>
    if y.event plane == (m.dsts.head?.getD .drop).event plane && !m.dsts.contains y then
      some ({ m with srcs := x :: m.srcs, dsts := y :: m.dsts } :: ms)
    else (joinMove plane x y ms).map (fun l => m :: l)

/-- Bytes of one receiver gathered into the events of the destination; bytes that nothing receives are left out (R108, R233). -/
def mkMoves (recv : Nat) (plane : Option (Nat × Nat × Nat)) : List (Place × Place) → List Move
  | [] => []
  | (x, y) :: l =>
    let r := mkMoves recv plane l
    match y with
    | .drop => r
    | _ => (joinMove plane x y r).getD ({ srcs := [x], dsts := [y], recv := recv, addr := 0, done := false } :: r)

/-- The fields of a TCOPY (R226). -/
structure TcFields where
  sk : Nat
  dk : Nat
  scope : Nat
  cr : Nat
  nr : Bool
  nb : Bool

def tcFields (f : F128X) : TcFields :=
  let c := f.ctl.toNat
  { sk := field c 0 3, dk := field c 3 3, scope := field c 6 3, cr := field c 9 7, nr := bit c 16, nb := bit c 17 }

/-- Sources of a TCOPY in order, and the place of each operand among its values. -/
def tcSrcs (f : F128X) : List (Use × Src) :=
  let q := tcFields f
  (if q.nr then .w32 else .w64, f.s1) :: (if q.sk != 0 then [(.w32, f.s2)] else []) ++ (if q.dk != 0 then [(.w32, f.s3)] else [])
    ++ (if q.nb && q.dk != 4 then [] else [(.w32, f.s4)])

def Copy.fields (c : Copy) : TcFields := match c.ins with | .tcopy f => tcFields f | _ => tcFields default

/-- The thread that a copy or a dictionary load acts for, as a crew (R104, R293). -/
def Copy.asCrew (s : State) (c : Copy) : Crew :=
  let t := (s.findTeam c.serial).getD default
  { (default : Crew) with
    team := c.serial, id := c.crew, core := c.core, asid := c.asid, secure := c.secure, privBase := t.privB, privSize := 4096 * t.privP }

/-- Packed bytes from position p of a side: scratchpads of the targets, or die scratch (R230). -/
def packedAt (kind ctx die serial off n : Nat) : List Place :=
  (List.range n).map (fun j => .at (if kind == 3 then .dscr ctx die (off + j) else .scr serial (off + j)))

/-- Bounds of a packed side, with the offset that a record names (R79, R234, R314). -/
def State.packedFault (s : State) (kind ctx die serial off n : Nat) : Option (Cause × Nat) :=
  if kind == 3 then (if off + n > (s.ctxOf ctx).ways die * 2 ^ 25 then some (.dscratchBound, off) else none)
  else
    match s.findTeam serial with
    | some t => if off + n > 1024 * t.scrK then some (.scratchBound, off) else none
    | none => some (.scratchBound, off)

/-- The address that a record gives for a byte of a copy: generic for flat memory, the offset for scratch, else 0 (R314). -/
def Place.addr : Place → Nat
  | .va g => g
  | .at (.scr _ o) => o
  | .at (.dscr _ _ o) => o
  | _ => 0

/-- The fault of the packed sides of n bytes from position `run`: source first, then each receiver. -/
def Copy.bound (s : State) (c : Copy) (n : Nat) : Option (Cause × Nat) :=
  let q := c.fields
  let die := dieOf c.core
  let ts := if q.dk == 3 then [c.serial] else c.targets
  ((if q.sk ≥ 2 then [s.packedFault q.sk c.ctx die c.serial (c.s2 + c.run) n] else [])
    ++ (if q.dk ≥ 2 then ts.map (fun t => s.packedFault q.dk c.ctx die t (c.s3 + c.run) n) else [])).findSome? (fun (x : Option (Cause × Nat)) => x)

/-- The moves of packed bytes from position `run`, whose other side is given: to each target, or from the source. Where a packed side ends
too soon, its fault, and no move (R234). -/
def Copy.lay (s : State) (c : Copy) (other : List Place) : List Move × Option (Cause × Nat) :=
  let q := c.fields
  let n := other.length
  let die := dieOf c.core
  match c.bound s n with
  | some k => ([], some k)
  | none =>
    let ts := if q.dk == 3 then [c.serial] else c.targets
    let src := if q.sk ≥ 2 then packedAt q.sk c.ctx die c.serial (c.s2 + c.run) n else other
    (if q.dk ≥ 2 then (ts.mapIdx (fun k t => mkMoves k none (src.zip (packedAt q.dk c.ctx die t (c.s3 + c.run) n)))).flatten
      else mkMoves 0 c.plane (src.zip other), none)

/-- The handle of a copy's tensor side. -/
def Copy.handle (s : State) (c : Copy) : Except Cause Handle :=
  s.handle (s.ctxOf c.ctx) (if c.fields.sk == 1 then c.s2 else c.s3)

/-- A dense record laid out: the bytes of the copy, its moves, the fault of a packed side that ends too soon. -/
structure Laid where
  n : Nat
  moves : List Move
  fault : Option (Cause × Nat)
  /-- the first element of a FLAT destination that is not aligned to its size -/
  odd : Option Nat := none

/-- Lay out the dense record at `rec`: element size, bytes, the two sides (R228, R230, R231); or what makes the record invalid. -/
def Copy.dense (s : State) (c : Copy) (d : Dense) (rec : Nat) : Except (Cause × Nat) Laid :=
  let q := c.fields
  let tens := q.sk == 1 || q.dk == 1
  let h := if tens then c.handle s else .error .handleInvalid
  let flat := q.sk == 0 || q.dk == 0
  let one := fun (n : Nat) (odd : Option Nat) (l : List (Place × Place)) => ({ n := n, moves := mkMoves 0 c.plane l, fault := none, odd := odd } : Laid)
  match h with
  | .ok h =>
    if !d.fits h flat then .error (.layoutInvalid, rec)
    else
      let e := elemSize h.fmt
      let n := d.bytes e (h.fmt == 7)
      let odd := if flat then d.odd e else none
      if odd.isSome && q.dk != 0 then .error (.misalign, odd.getD 0)
      else if q.sk == 1 && q.dk == 0 then .ok (one n odd ((d.tensor h c.coords .zero .zero).zip (d.flat e)))
      else if q.sk == 0 && q.dk == 1 then .ok (one n none ((d.flat e).zip (d.tensor h c.coords .drop .drop)))
      else
        let r := c.lay s (d.tensor h c.coords (if q.sk == 1 then .zero else .drop) (if q.sk == 1 then .zero else .drop))
        .ok { n := n, moves := r.1, fault := r.2 }
  | .error k =>
    if tens then .error (k, 0)
    else
      let e := d.esz
      if (d.odd e).isSome && q.dk != 0 then .error (.misalign, (d.odd e).getD 0)
      else
        let n := d.bytes e false
        if q.dk == 0 then
          /- the destination is flat: it is checked before the packed source, which the engine meets after issue (R232, R234) -/
          .ok { n := n, moves := mkMoves 0 none ((packedAt q.sk c.ctx (dieOf c.core) c.serial (c.s2 + c.run) n).zip (d.flat e))
                fault := c.bound s n, odd := d.odd e }
        else let r := c.lay s (d.flat e); .ok { n := n, moves := r.1, fault := r.2 }

/-! ### Issue of TCOPY -/

/-- What a lane of TCOPY or DICTLD comes to; an operation comes with the pages that its checks looked up. -/
inductive CopyRes
  | stall (w : Why)
  /-- the pages that the checks looked up stand last in each -/
  | fault (c : Cause) (sub addr : Nat) (vas : List Nat := [])
  | page (va addr : Nat) (vals : List Nat) (flags : Nat) (vas : List Nat := [])
  | copy (c : Copy) (flags : Nat) (vas : List Nat)
  | load (d : DictLoad) (flags : Nat) (vas : List Nat)

/-- The pages that the checks of a lane looked up (R300). -/
def CopyRes.vas : CopyRes → List Nat
  | .stall _ => []
  | .fault _ _ _ l | .page _ _ _ _ l | .copy _ _ l | .load _ _ l => l

/-- The location of a byte j bytes after another. -/
def Loc.plus (l : Loc) (j : Nat) : Loc :=
  match l with
  | .phys a => .phys (a + j)
  | .scr t o => .scr t (o + j)
  | .dscr x d o => .dscr x d (o + j)
  | .ten p o => .ten p (o + j)

/-- First byte and length of the generic addresses that a move writes: they lie in one aligned 8-byte unit. -/
def Move.range (m : Move) : Nat × Nat :=
  let gs := m.dsts.filterMap (fun d => match d with | .va g => some g | _ => none)
  match gs with
  | [] => (0, 1)
  | g :: l => let lo := l.foldl Nat.min g; (lo, l.foldl Nat.max g - lo + 1)

/-- What decoding finds wrong with the generic addresses that a move writes (R78). -/
def Move.rangeFault (m : Move) : Option (Cause × Nat) := match decodeAddr m.range.1 with | .error e => some (e, m.range.1) | .ok _ => none

/-- Destination bytes of a FLAT copy placed, with the checks of R173 orders 2 to 9 but for BLOCK_ALIGN (R232): orders 5 to 7 unit by unit (DESIGN
CHOICE, log 127). -/
def Copy.placeFlat (s : State) (c : Copy) (k : Crew) : Except LaneRes Copy :=
  let gs := c.moves.map Move.range
  match s.enginePieces k c.lane .write gs with
  | .error r => .error r
  | .ok ls =>
    let ms : List Move := ((c.moves.zip gs).zip ls).map (fun (p : (Move × Nat × Nat) × Loc × Option Leaf) =>
      let lf := p.2.2.getD default
      { p.1.1 with
        dsts := p.1.1.dsts.map (fun d => match d with | .va g => .at (p.2.1.plus (g - p.1.2.1)) | d => d)
        addr := recGen p.1.2.1, cls := lf.cls, shr := lf.shr })
    let c : Copy := { c with moves := ms, lines := linesOf (ls.map (·.1)) }
    let bytes := ms.flatMap (·.dsts)
    let part := (gs.zip ls).find? (fun (l : (Nat × Nat) × Loc × Option Leaf) => match l.2.1 with
      | .phys pa => s.sectorBad none (pa / 256)
          && !((List.range 256).all (fun j => bytes.contains (.at (.phys (pa / 256 * 256 + j)))))
      | _ => false)
    match part with
    | some x => .error (.fault .poison 1 (recGen x.1.1))
    | none => .ok c

/-- The receivers of a copy: the team, or the members of a mask (R226, R232 order 3). -/
def State.copyTargets (s : State) (t : Team) (core dk mask : Nat) : Except Cause (List Team) :=
  if dk != 4 then .ok [t]
  else if mask == 0 then .error .peerAbsent
  else ((List.range 16).filter (bit mask)).foldl (fun (r : Except Cause (List Team)) m =>
    match r, s.peerTeam t core m with
    | .error e, _ => .error e
    | _, .error e => .error e
    | .ok l, .ok u => .ok (l ++ [u])) (.ok [])

/-- The operands of a lane of TCOPY: the values of its sources with their flags; and its coordinates for a rank, with theirs, or why they cannot
be read. -/
structure TcArgs where
  vals : List Nat
  flags : Nat
  coords : Nat → Except CopyRes (List Nat × Nat)

/-- Whether a lane of TCOPY has logged the coordinates of a tensor of some rank after the values of its sources (R305). -/
def tcLogged (c : Crew) (f : F128X) (lane rank : Nat) : Bool :=
  match (c.thread lane).relog with
  | some vs => vs.length == (butSrcs (c.thread lane).gaps (tcSrcs f)).length + rank
  | none => false

/-- The operands at issue (R57, R231); those of a lane that executes again are in its log (R305). -/
def tcopyArgs (s : State) (c : Crew) (mask : Mask) (f : F128X) (lane : Nat) : TcArgs :=
  let srcs := tcSrcs f
  let rd := readLane s c mask srcs lane
  { vals := rd.vals.take srcs.length, flags := readFlags rd
    coords := fun rank =>
      if tcLogged c f lane rank then .ok (rd.vals.drop srcs.length, 0)
      else
        let co := readRun c lane (tcFields f).cr rank false
        if co.regs.any (regBlocked c) then .error (.stall .dep)
        else if co.regs.any (regBad c) then .error (.fault .poison 3 0)
        else if co.zread && (s.teamOf c).strict then .error (.fault .zreadStrict 0 0)
        else .ok (co.vals, if co.zread then flZREAD else 0) }

/-- The coordinates that a lane has read when it takes a fault, where the handle gives their number (R305). -/
def tcopyKept (s : State) (c : Crew) (mask : Mask) (f : F128X) (lane : Nat) : List Nat :=
  let q := tcFields f
  let a := tcopyArgs s c mask f lane
  if q.sk != 1 && q.dk != 1 || !((c.thread lane).outSrcs (tcSrcs f)).isEmpty then []
  else match s.handle (s.ctxOf (s.teamOf c).ctx) (if q.sk == 1 then val a.vals 1 else val a.vals (1 + ofBool (q.sk != 0))) with
    | .ok h => if h.rank != 0 && q.cr + h.rank - 1 > 127 then [] else match a.coords h.rank with | .ok v => v.1 | .error _ => []
    | .error _ => []

/-- The operands that a lane waiting for its page has in the operand log (R305, R306). -/
def loggedArgs (f : F128X) (vals : List Nat) : TcArgs :=
  let n := (tcSrcs f).length
  { vals := vals.take n, flags := 0, coords := fun _ => .ok (vals.drop n, 0) }

/-- The element and scale planes of a handle, where its blocks are elements. -/
def Handle.plane (h : Handle) : Option (Nat × Nat × Nat) := if h.fmt == 7 then some (h.part, h.base, h.soff) else none

/-- What the caches and the last-level TLB keep of an engine's reads of generic addresses, by sectors (R87, R300). -/
def State.engineTouch (s : State) (c : Copy) (gs : List Nat) : State :=
  let w := c.asCrew s
  let ks := ((gs.map (fun g => g / 256)).eraseDups).map (fun k => 256 * k)
  let s := s.engineUse c.core c.asid c.secure (s.engineVas w c.lane (ks.map (fun g => (g, 1))))
  ks.foldl (fun s g => match s.enginePiece w c.lane .read g 1 with
    | .ok (.phys pa, some l) => s.cacheRead { core := c.core, ctx := c.ctx, cls := l.cls, shr := l.shr, rd := 2 } 1 pa
    | _ => s) s

/-- The n bytes at a generic address. -/
def genPlaces (g n : Nat) : List Place := (List.range n).map (fun j => .va ((g + j) % 2 ^ 64))

/-- What the last-level TLB keeps of an engine's look at generic addresses that it does not read for want of a page or at a fault. -/
def State.engineSeen (s : State) (c : Copy) (gs : List Nat) : State :=
  let w := c.asCrew s
  s.engineUse c.core c.asid c.secure (s.engineTried w c.lane .read (((gs.map (fun g => g / 65536)).eraseDups).map (fun k => (65536 * k, 1)))).eraseDups

/-- The recorded units that places of a copy lie in (R358). -/
def State.copyUnits (s : State) (c : Copy) (ps : List Place) : List Loc :=
  (ps.filterMap (fun p => match p with
    | .at l | .code l _ _ _ => recUnit c.serial l
    | .va g => (match s.enginePiece (c.asCrew s) c.lane .read g 1 with | .ok x => recUnit c.serial x.1 | .error _ => none)
    | _ => none)).eraseDups

/-- Whether a copy's accesses to some units may be performed now as far as record and replay go: they are its issuing thread's (R358). -/
def State.copyRec (s : State) (c : Copy) (us : List Loc) : Bool :=
  match s.findTeam c.serial with
  | some t => s.recRoom t c.crew c.lane us
  | none => true

/-- A copy's accesses to some units, noted (R358). -/
def State.copyNote (s : State) (c : Copy) (us : List Loc) : State :=
  match s.findTeam c.serial with
  | some t => us.foldl (fun s u => s.recNote t c.crew c.lane u) s
  | none => s

/-- The check of the codewords that a copy reads (R324). -/
def State.checkReads (s : State) (c : Copy) (ps : List Place) : State :=
  if s.store.upsets.isEmpty then s
  else ps.foldl (fun s p => match p with
    | .va g => (match s.enginePiece (c.asCrew s) c.lane .read g 1 with | .ok x => s.check x.1 1 | .error _ => s)
    | .at l | .code l _ _ _ => s.check l 1
    | _ => s) s

/-- What an engine's read of n bytes at a generic address leaves: its codewords checked, caches and TLB, the clock (R87, R300, R324, R358). -/
def State.engineDone (s : State) (c : Copy) (g n : Nat) : State :=
  ((s.checkReads c (genPlaces g n)).engineTouch c [g, (g + n - 1) % 2 ^ 64]).copyNote c (s.copyUnits c (genPlaces g n))

/-- What the read of the dense record of a copy with a FLAT destination leaves, at its issue (R232, R233, R358). -/
def State.recordUsed (s : State) (c : Copy) : State :=
  if c.fields.dk == 0 && !c.fields.nr then s.engineDone c c.s1 64 else s

/-- Check the codewords of the records that a TCOPY is about to read at its issue (R324). -/
def State.recordCheck (s : State) (c : Crew) (lane s1 : Nat) : State :=
  if s.store.upsets.isEmpty then s
  else match s.enginePieces c lane .read [(s1, 32), ((s1 + 32) % 2 ^ 64, 32)] with
    | .ok ls => ls.foldl (fun s l => s.check l.1 32) s
    | .error _ => s

/-- A copy with a FLAT destination reads its record now, once, and checks its destination (R232 order 8, R233). A poisoned record ends it
(R321), as does a packed source that ends too soon (R234). -/
def tcopyFlat (s : State) (c : Crew) (cp : Copy) (secure : Bool) (vals : List Nat) (fl : Nat) : CopyRes :=
  let s1 := cp.s1
  let rec2 := [(s1, 32), ((s1 + 32) % 2 ^ 64, 32)]
  let rvas := (s.engineTried c cp.lane .read rec2).eraseDups
  match s.enginePieces c cp.lane .read rec2 with
  | .error (.page va a _) => .page va a vals fl rvas
  | .error (.fault k sub a) => .fault k sub a rvas
  | .error _ => .stall .xlate
  | .ok ls =>
    let img := ls.map (fun l => ofBytes (s.readLoc (dieOf c.core) l.1 32))
    if ls.any (fun l => match l.1.line with | some n => s.gLines.contains n | none => false)
      || ls.any (fun l => match l.1 with | .phys pa => s.fabricHolds (some (dieOf c.core)) pa | _ => false)
      || !s.copyRec cp (s.copyUnits cp (genPlaces s1 64)) then .stall .dep
    else if ls.any (fun l => (s.poisonRead (dieOf c.core) l.1 32).isSome) then
      .copy { cp with elem := none, failed := some (.poison, recGen s1) } fl rvas
    else
      match denseOf (val img 0) (val img 1) with
      | none => .fault .layoutInvalid 0 (recGen s1) rvas
      | some dn =>
        match cp.dense s dn s1 with
        | .error e => .fault e.1 0 (recGen e.2) rvas
        | .ok r =>
          /- the tensor side (order 7); then R173: addresses (order 2), alignment (order 4), the rest (R232, order 8) -/
          match s.placesFault secure (r.moves.flatMap (·.srcs)), r.moves.findSome? Move.rangeFault, r.odd with
          | some e, _, _ => .fault e 0 0 rvas
          | none, some x, _ => .fault x.1 0 (recGen x.2) rvas
          | none, none, some g => .fault .misalign 0 (recGen g) rvas
          | none, none, none =>
            let vas := (rvas ++ s.engineTried c cp.lane .write (r.moves.map Move.range)).eraseDups
            match ({ cp with moves := r.moves, run := r.n, elem := none } : Copy).placeFlat s c with
            | .error (.page va a _) => .page va a vals fl vas
            | .error (.fault k sub a) => .fault k sub a vas
            | .error _ => .stall .xlate
            | .ok d =>
              .copy { d with granted := d.lines.isEmpty, failed := r.fault, moves := if r.fault.isSome then [] else d.moves } fl vas

/-- The checks of a TCOPY in one lane, in the order of R232, and the copy. -/
def tcopyPlan (s : State) (c : Crew) (i : Instr) (f : F128X) (lane : Nat) (pc : DWord) (a : TcArgs) : CopyRes :=
  let q := tcFields f
  let t := s.teamOf c
  let x := s.ctxOf t.ctx
  let s1 := val a.vals 0
  let n2 := 1 + ofBool (q.sk != 0)
  let n3 := n2 + ofBool (q.dk != 0)
  let s2 := if q.sk != 0 then val a.vals 1 else 0
  let s3 := if q.dk != 0 then val a.vals n2 else 0
  let s4 := if q.nb && q.dk != 4 then 0 else val a.vals n3
  let off := 16 * (s4 % 65536)
  let recFault : Option Cause :=
    if q.nr then none
    else match decodeAddr s1 with
      | .error e => some e
      | .ok _ => if s1 % 32 != 0 then some .misalign else none
  if recFault.isSome then .fault (recFault.getD .addrRange) 0 (recGen s1)
  else if q.sk ≥ 2 && s2 % 16 != 0 then .fault .misalign 0 s2
  else if q.dk ≥ 2 && s3 % 16 != 0 then .fault .misalign 0 s3
  else if q.nr && (s1 % 16 != 0 || s1 < 16 || s1 > 2 ^ 24) then .fault .layoutInvalid 0 0
  else
    match s.copyTargets t c.core q.dk (field s4 16 16) with
    | .error e => .fault e 0 0
    | .ok ts =>
      if !q.nb && ts.any (fun u => off + 16 > 1024 * u.scrK) then .fault .scratchBound 0 off
      else
        let tens := q.sk == 1 || q.dk == 1
        let hn := if q.sk == 1 then s2 else s3
        if tens && s.handleHeld t.ctx hn then .stall .dep
        else
          match (if tens then (s.handle x hn).map some else .ok none : Except Cause (Option Handle)) with
          | .error e => .fault e 0 0
          | .ok h? =>
            let rank := match h? with | some h => h.rank | none => 0
            if (match h? with | some h => q.dk == 1 && h.ro | none => false) then .fault .handleRo 0 0
            else if rank != 0 && q.cr + rank - 1 > 127 then .fault .handleInvalid 0 0
            else
              match a.coords rank with
              | .error r => r
              | .ok (cv, cfl) =>
                let cs := cv.map (signed 32)
                if (match h? with | some h => h.fmt == 7 && ((cs.head?).getD 0) % 24 != 0 | none => false) then .fault .blockAlign 0 0
                else
                  let off1 := match h? with | some h => s.tensorFault h.part x.secure h.base | none => none
                  if off1.isSome then .fault (off1.getD .layerOff) 0 0
                  else if (q.sk == 3 || q.dk == 3) && s.dieOff (dieOf c.core) then .fault .layerOff 0 0
                  else
                    let d := match h? with | some h => s.bindDict t.ctx h | none => (none, 0)
                    let cp : Copy :=
                      { id := 0, serial := c.team, crew := c.id, lane := lane, core := c.core, ctx := t.ctx, asid := c.asid
                        secure := c.secure, level := t.level, pc := pc, ins := i, s1 := s1, s2 := s2, s3 := s3, coords := cs
                        targets := if q.dk == 2 || q.dk == 4 then ts.map (·.serial) else []
                        elem := if q.nr then none else some s1, first := none, elems := 0, held := none, plane := h?.bind Handle.plane, run := 0
                        moves := [], recvs := if q.nb then [] else ts.map (fun u => { serial := u.serial, off := off, arrived := false })
                        written := 0, dict := d.1, gen := d.2, lines := [], granted := true, fenced := false, page := none, failed := none }
                    let fl := orF a.flags cfl
                    if q.nr then
                      let r := cp.lay s (List.replicate s1 .zero)
                      .copy { cp with moves := r.1, run := s1, failed := r.2 } fl []
                    else if q.dk != 0 then .copy cp fl []
                    else tcopyFlat s c cp x.secure (a.vals ++ cv) fl

/-- The checks of a TCOPY in one lane at its issue. -/
def tcopyLane (s : State) (c : Crew) (iss : Issue) (i : Instr) (f : F128X) (lane : Nat) : CopyRes :=
  tcopyPlan s c i f lane iss.pc (tcopyArgs s c iss.mask f lane)

/-- Incomplete copies and dictionary loads of a thread, those that wait for a page among them (R233). -/
def State.openCopies (s : State) (serial crew lane : Nat) : Nat :=
  (s.copies.filter (fun c => c.serial == serial && c.crew == crew && c.lane == lane)).length
    + (s.dictlds.filter (fun c => c.serial == serial && c.crew == crew && c.lane == lane)).length
    + (s.accs.filter (fun a => a.serial == serial && a.crew == crew && a.lane == lane && a.kind == .copy)).length

/-- The issue of a TCOPY or DICTLD at `.stk` or wider pushes the W sectors of its die (R109). -/
def State.issuePush (s : State) (scope core : Nat) : State := if scope ≥ 3 then s.pushDie (dieOf core) else s

/-- Whether the fabric holds such a push (R342, R343). -/
def State.pushWaits (s : State) (scope core : Nat) : Bool := decide (scope ≥ 3) && s.pushHeld (dieOf core) (fun _ => true)

/-- The operations of a copy instruction by lane. -/
def copyId (base lane : Nat) : Nat := base + lane

/-- Issue a copy instruction lane by lane: a fault in any lane leaves the instruction without effect (R210); a lane whose page is absent
waits in the operand log, and its thread runs on; copies whose lines are not held yet keep their lanes STALLED (R232). -/
def runCopy (i : Instr) (h : Hdr) (srcs : List (Use × Src)) (scope slots : Nat) (lane : State → Crew → Issue → Nat → CopyRes)
    (kept : State → Crew → Issue → Nat → List Nat) (reads : State → Crew → Issue → Nat → State) (s : State) : Out :=
  match s.cur with
  | none => .next s
  | some iss =>
    match s.crew? iss.crew with
    | none => .next s
    | some c =>
      let em := guardMask c iss.mask h
      if em == 0 then
        .next (s.modCrew iss.crew (fun c => (releaseAll iss.mask 0 false srcs c).advance iss.mask s.cycle (fun _ t => t.pc + 16)))
      else if c.gdepth ≥ 1 && !oddAt c em srcs 255 1 false then
        .next (s.stopped iss.crew iss (.trap (trapOf iss.pc (faultsOf (boundLanes c em srcs 255 1) .indexBound 0 ++ faultsOf em .gateSpace 0))))
      else
        match operandCheck s c iss.mask em em iss.pc srcs 255 1 false with
        | some x => .next (s.stopped iss.crew iss x)
        | none =>
          let out := boundLanes c em srcs 255 1
          let ls := lanesOf (em &&& ~~~out)
          if s.pushWaits scope c.core then .next (s.stopped iss.crew iss (.stall .dep))
          else if ls.any (fun l => s.openCopies c.team c.id l ≥ Config.threadCopies)
            || slots > 0 && s.slotsHeld c.team c.id + slots > Config.logSlots then .next (s.stopped iss.crew iss (.stall .struct))
          else
            /- the codewords that the lanes read now are checked first -/
            let s := ls.foldl (fun s l => reads s c iss l) s
            let rs := ls.map (fun l => (l, lane s c iss l))
            match rs.findSome? (fun r => match r.2 with | .stall w => some w | _ => none) with
            | some w => .next (s.stopped iss.crew iss (.stall w))
            | none =>
              let vas := (rs.flatMap (fun r => r.2.vas)).eraseDups
              let bad : List LaneFault := faultsOf out .indexBound 0
                ++ rs.filterMap (fun r => match r.2 with | .fault k sub a _ => some (r.1, k, sub, a) | _ => none)
              if !bad.isEmpty then
                .next (((s.engineUse c.core c.asid c.secure vas).modCrew iss.crew (fun _ =>
                  (c.logLanes s c iss.mask (maskOf (bad.map (·.1))) (fun _ => srcs) true (kept s c iss)).keepLog
                    { pc := iss.pc, ins := i, slots := slots, group := s.nextId })).stopped iss.crew iss (.trap (trapOf iss.pc bad)))
              else
                let base := s.nextId
                let pages : List (Nat × Nat × Nat × List Nat) := rs.filterMap (fun r => match r.2 with | .page va a v _ _ => some (r.1, va, a, v) | _ => none)
                let cps := rs.filterMap (fun r => match r.2 with | .copy cp _ _ => some { cp with id := copyId base r.1 } | _ => none)
                let dls := rs.filterMap (fun r => match r.2 with | .load d _ _ => some { d with id := copyId base r.1 } | _ => none)
                let wait := maskOf ((cps.filter (fun cp => !cp.granted)).map (·.lane))
                let fl := fun l => match rs.find? (fun r => r.1 == l) with
                  | some (_, .copy _ g _) => g
                  | some (_, .load _ g _) => g
                  | some (_, .page _ _ _ g _) => g
                  | _ => 0
                let c1 := (releaseAll iss.mask em false srcs c).modLanes em (fun l t => t.raise (fl l))
                let c2 := c1.modLanes (em &&& ~~~wait) (fun l t => { t with openOps := t.openOps ++ [copyId base l] })
                let c3 := (c2.stall wait .grant).advance (iss.mask &&& ~~~wait) s.cycle (fun _ t => t.pc + 16)
                let s1 := cps.foldl State.recordUsed ((s.engineUse c.core c.asid c.secure vas).issuePush scope c.core)
                let s2 := { (s1.modCrew iss.crew (fun _ => c3)) with
                  copies := s1.copies ++ cps, dictlds := s1.dictlds ++ dls, nextId := base + 33
                  accs := s1.accs ++ pages.map (fun (p : Nat × Nat × Nat × List Nat) =>
                    engineWait s c i .copy (copyId base p.1) (base + 32) p.1 iss.pc p.2.2.2 slots p.2.1 []) }
                .next (s2.pageRecords c iss.pc (pages.map (fun p => (p.1, p.2.1, p.2.2.1))))

/-- TCOPY (R226 to R233). -/
def execTcopy (f : F128X) (s : State) : Out :=
  let q := tcFields f
  runCopy (.tcopy f) f.h (tcSrcs f) q.scope (ofBool (q.sk == 0 || q.dk == 0)) (fun s c iss l => tcopyLane s c iss (.tcopy f) f l)
    (fun s c iss l => tcopyKept s c iss.mask f l)
    (fun s c iss l => if q.nr || q.dk != 0 then s else s.recordCheck c l (val (tcopyArgs s c iss.mask f l).vals 0)) s

/-- DICTLD of an image (R239): MISALIGN, then R173 orders 2 to 7 over the image. -/
def dictldPlan (s : State) (c : Crew) (f : F128X) (lane : Nat) (pc : DWord) (a fl : Nat) : CopyRes :=
  let ct := f.ctl.toNat
  if a % 1024 != 0 then .fault .misalign 0 (recGen a)
  else
    let gs := (List.range 128).map (fun k => ((a + 8 * k) % 2 ^ 64, 8))
    let vas := (s.engineTried c lane .read gs).eraseDups
    match s.enginePieces c lane .read gs with
    | .error (.page va x _) => .page va x [a] fl vas
    | .error (.fault k sub x) => .fault k sub x vas
    | .error _ => .stall .xlate
    | .ok ls =>
      let lf := ((ls.head?.map (·.2)).getD none).getD default
      .load
        { id := 0, serial := c.team, crew := c.id, lane := lane, core := c.core, ctx := (s.teamOf c).ctx, pc := pc
          scope := field ct 11 3, slot := field ct 0 3, addr := a, image := ls.map (·.1), cls := lf.cls, shr := lf.shr
          todo := (List.range 8).filter (bit (field ct 3 8)), reached := [], written := 0, fenced := false, failed := none }
        fl vas

/-- DICTLD in one lane at its issue. -/
def dictldLane (s : State) (c : Crew) (iss : Issue) (f : F128X) (lane : Nat) : CopyRes :=
  let rd := readLane s c iss.mask [(.w64, f.s1)] lane
  dictldPlan s c f lane iss.pc (val rd.vals 0) (readFlags rd)

/-- DICTLD (R239). -/
def execDictld (f : F128X) (s : State) : Out :=
  runCopy (.dictld f) f.h [(.w64, f.s1)] (field f.ctl.toNat 11 3) 1 (fun s c iss l => dictldLane s c iss f l)
    (fun _ _ _ _ => []) (fun s _ _ _ => s) s

/-! ### Batches -/

/-- SEAL as a lane instruction: the result is the thread's batch counter (R235). -/
def sealOp (f : F64) (no : Nat → Nat) : LaneOp :=
  { h := f.h, srcs := [], k := 1, len := 8, f := fun _ l => (no l, 0)
    post := fun _ t => { t with batchNo := t.batchNo + 1, batches := t.batches ++ [t.openOps], openOps := [] } }

/-- SEAL (R235): STALLED while 8 sealed batches of a lane are unfinished. -/
def execSeal (f : F64) (s : State) : Out :=
  match s.cur with
  | none => .next s
  | some iss =>
    match s.crew? iss.crew with
    | none => .next s
    | some c =>
      let em := guardMask c iss.mask f.h
      if em != 0 && c.gdepth ≥ 1 then .next (s.takeFault iss.crew { cause := .gateSpace, lmask := em, pc := iss.pc })
      else if (lanesOf em).any (fun l => (c.thread l).batches.length ≥ Config.threadBatches) then
        .next (s.stopped iss.crew iss (.stall .struct))
      else runLane (sealOp f (fun l => (c.thread l).batchNo.toNat)) s

/-- WAITB: as `wait _, batch(n)` with no time-out and no result (R236). -/
def execWaitb (f : F64) (s : State) : Out :=
  match s.cur with
  | none => .next s
  | some iss =>
    match s.crew? iss.crew with
    | none => .next s
    | some c =>
      let em := guardMask c iss.mask f.h
      let srcs : List (Use × Src) := [(.w32, f.s1)]
      if em != 0 && c.gdepth ≥ 1 then
        .next (s.takeFault iss.crew (trapOf iss.pc (faultsOf (boundLanes c em srcs 255 1) .indexBound 0 ++ faultsOf em .gateSpace 0)))
      else
        match operandCheck s c iss.mask em em iss.pc srcs 255 1 false with
        | some x => .next (s.stopped iss.crew iss x)
        | none =>
          let out := boundLanes c em srcs 255 1
          let go := em &&& ~~~out
          let rd := fun l => readLane s c iss.mask srcs l
          let p := fun l => ({ conds := [.batch (Nat.min (val (rd l).vals 0) 7)], all := false, msz := 4, mrel := 0, dst := 255
                               creg := none, len := 8, elapsed := 0, polled := 0, vals := [], addr := 0 } : Pending)
          let c1 := (releaseAll (iss.mask &&& ~~~out) go false srcs c).modLanes go (fun l t => t.raise (readFlags (rd l)))
          let c2 := (c1.leave go).modLanes go (fun l t =>
            { t with st := .waiting, why := .none, lastIssue := s.cycle, relog := none, wait := some (p l) })
          let c3 := (c2.advance (iss.mask &&& ~~~em) s.cycle (fun _ t => t.pc + 8)).logLanes s c iss.mask out (fun _ => srcs)
          let s1 := (s.modCrew iss.crew (fun _ => c3)).wakePolls iss.crew (fun _ => false)
          if out == 0 then .next s1 else .next (s1.stopped iss.crew iss (.trap (trapOf iss.pc (faultsOf out .indexBound 0))))

/-- BATCH_FINISH: the oldest sealed batch of a thread has no incomplete operation left (R237). -/
def execBatchFinish (team crew lane : Nat) (s : State) : Out :=
  match s.crewAt team crew with
  | none => .next s
  | some k =>
    match s.crew? k with
    | none => .next s
    | some c =>
      match (c.thread lane).batches with
      | [] :: l => .next ((s.modThread k lane (fun t => { t with batches := l })).wakeWaits k (fun _ => false))
      | _ => .next s

/-- An operation of a thread is complete for its batch (R237). -/
def State.opDone (s : State) (serial crew lane id : Nat) : State :=
  match s.crewAt serial crew with
  | none => s
  | some k => s.modThread k lane (fun t =>
      { t with openOps := t.openOps.filter (· != id), batches := t.batches.map (fun b => b.filter (· != id)) })

/-! ### The engines -/

/-- Whether every earlier access of the thread has been performed (R117). What another copy or dictionary load moves is no access of
it (log 93). -/
def State.engineReady (s : State) (serial crew lane id : Nat) : Bool :=
  !s.accs.any (fun a => a.serial == serial && a.crew == crew && a.lane == lane && decide (a.id < id) && a.kind != .copy)

def State.modCopy (s : State) (id : Nat) (f : Copy → Copy) : State :=
  { s with copies := s.copies.map (fun c => if c.id == id then f c else c) }

/-- The release of R117 before the first read of a copy. -/
def State.copyFence (s : State) (c : Copy) : State :=
  if c.fenced then s else (s.issuePush c.fields.scope c.core).modCopy c.id (fun c => { c with fenced := true })

/-- A crew as it stands outside its gate calls: under whose ASID, world and private window its copies look up (R104, R168). -/
def Crew.outside (c : Crew) : Crew :=
  match c.frames.getLast? with
  | some f => { c with frames := [], asid := f.asid, secure := f.secure, fdom := f.fdom, privBase := f.privBase, privSize := f.privSize }
  | none => c

/-- A crew as a copy's faults find it: they go to the domain in force, with the gate depth (R168, R310), for a page of the ASID that the copy
looks up. -/
def Crew.under (c : Crew) : Crew := { c with asid := c.outside.asid, secure := c.outside.secure }

/-- A copy meets an absent page: it waits, with a record in the issuing crew's domain (R234, R304). -/
def State.copyPage (s : State) (c : Copy) (va addr : Nat) : State :=
  let s := s.modCopy c.id (fun c => { c with page := some va })
  match s.crewAt c.serial c.crew with
  | none => s
  | some k => match s.crew? k with | some w => s.pageRecords w.under c.pc [(c.lane, va, addr)] | none => s

/-- A copy meets a fault at an address: no further element is read. The units of the elements that it has read are still written
(R234, and R364: the segments before the faulting one are in place). -/
def State.copyFail (s : State) (id : Nat) (k : Cause) (a : Nat) : State :=
  s.modCopy id (fun c => { c with failed := some (c.failed.getD (k, a)), elem := none, held := none, page := none })

/-- A fault met at a unit of data ends the copy there: no further unit is written (R234). -/
def State.copyStop (s : State) (id : Nat) (k : Cause) (a : Nat) : State :=
  (s.copyFail id k a).modCopy id (fun c => { c with moves := c.moves.filter (·.done) })

/-- Whether a copy's engine may act: no SEEDSET of its context is in progress (R103), and the fabric does not hold the pushes that it makes
first (R117, R342). -/
def State.copyLive (s : State) (c : Copy) : Bool :=
  c.granted && c.page.isNone && !s.frozen c.ctx && s.engineReady c.serial c.crew c.lane c.id && (c.fenced || !s.pushWaits c.fields.scope c.core)

/-- The outcome of an engine's read: a line in G to wait for, a page to wait for, a fault, the bytes. -/
inductive EngRead
  | wait
  | page (va addr : Nat)
  | fault (c : Cause) (addr : Nat)
  | ok (l : List Byte)

/-- Whether a location lies in a line that another engine holds in G (R117). -/
def State.locInG (s : State) (id : Nat) (l : Loc) : Bool :=
  match l.line with | some n => (s.gBut id).contains n | none => false

/-- Whether the fabric holds a copy's request for a place (R342, R343). -/
def State.fabricKeeps (s : State) (c : Copy) (p : Place) : Bool :=
  match p with | .at (.phys pa) => s.fabricHolds (some (dieOf c.core)) pa | _ => false

/-- Read n bytes of a generic address for a copy (R104, R117, R234). -/
def State.engineRead (s : State) (c : Copy) (g n : Nat) : EngRead :=
  match s.enginePiece (c.asCrew s) c.lane .read g n with
  | .error (.page va a _) => .page va a
  | .error (.fault k _ a) => .fault k a
  | .error .wait => .wait
  | .error _ => .fault .ptInvalid (recGen g)
  | .ok (l, _) =>
    if s.locInG c.id l || s.fabricKeeps c (.at l) then .wait
    else if (s.poisonRead (dieOf c.core) l n).isSome then .fault .poison (recGen g)
    else .ok (s.readLoc (dieOf c.core) l n)

/-- A chain element that breaks R229. -/
def chainBad (v : Nat) : Bool :=
  let len := field v 8 24
  field v 0 2 != 2 || len % 16 != 0 || len < 16 || field v 64 64 % 16 != 0 || bit v 2 && field v 128 64 % 4 != 0
    || !bit v 3 && field v 192 64 % 32 != 0

/-- An engine's read of n bytes at a generic address, which record and replay may keep (R358, R359). -/
def State.recRead (s : State) (c : Copy) (g n : Nat) : EngRead :=
  if s.copyRec c (s.copyUnits c (genPlaces g n)) then s.engineRead c g n else .wait

/-- The predicate word of a chain element that is tested for skipping (R229). -/
def State.predicate (s : State) (c : Copy) (v : Nat) : EngRead := if bit v 2 then s.recRead c (field v 128 64) 4 else .ok []

/-- Take the chain element v at a (R229). Where its predicate word cannot be read yet, the element, which is read once, is kept (R233). -/
def State.chainElem (s : State) (c : Copy) (a v : Nat) : State :=
  if chainBad v || c.elems ≥ 65536 then s.copyFail c.id .layoutInvalid (recGen a)
  else
    let len := field v 8 24
    let next := fun (m : List Move) (s : State) => s.modCopy c.id (fun c => { c with
      elem := if bit v 3 then none else some (field v 192 64)
      elems := c.elems + 1
      held := none
      run := c.run + len
      moves := c.moves ++ m })
    let keep := s.modCopy c.id (fun c => { c with held := some v })
    match s.predicate c v with
    | .wait => keep
    | .page va x => (keep.engineSeen c [field v 128 64]).copyPage c va x
    | .fault k x => ((s.checkReads c (genPlaces (field v 128 64) 4)).engineSeen c [field v 128 64]).copyFail c.id k x
    | .ok w =>
      let s := if bit v 2 then s.engineDone c (field v 128 64) 4 else s
      if bit v 2 && andNat (ofBytes w) (field v 32 32) == 0 then next [] s
      else
        match c.lay s ((List.range len).map (fun j => .va ((field v 64 64 + j) % 2 ^ 64))) with
        | (_, some k) => s.copyFail c.id k.1 k.2
        | (m, none) => next m s

/-- Take the record or chain element v that has been read at a (R228, R229, R231). -/
def State.takeElem (s : State) (c : Copy) (a v : Nat) : State :=
  let q := c.fields
  match c.first with
  | some v0 =>
    match denseOf v0 v with
    | none => s.copyFail c.id .layoutInvalid (recGen a)
    | some d =>
      match c.dense s d ((a + 2 ^ 64 - 32) % 2 ^ 64) with
      | .error k => s.copyFail c.id k.1 (recGen k.2)
      | .ok r =>
        match r.fault with
        | some k => s.copyFail c.id k.1 k.2
        | none => s.modCopy c.id (fun c => { c with elem := none, elems := 2, run := r.n, moves := r.moves })
  | none =>
    if c.elems == 0 && field v 0 2 == 1 then
      s.modCopy c.id (fun c => { c with first := some v, elem := some ((a + 32) % 2 ^ 64), elems := 1 })
    else if q.sk == 0 && q.dk ≥ 2 then s.chainElem c a v
    else s.copyFail c.id .layoutInvalid (recGen a)

/-- COPY_ELEMENT_READ: the engine reads a record or chain element, once (R228, R229, R233). -/
def execCopyElementRead (id : Nat) (s : State) : Out :=
  match s.copies.find? (fun c => c.id == id) with
  | none => .next s
  | some c =>
    match c.elem with
    | none => .next s
    | some a =>
      if !s.copyLive c then .next s
      else
        let s := s.copyFence c
        match c.held with
        | some v => .next (s.chainElem c a v)
        | none =>
          match s.recRead c a 32 with
          | .wait => .next s
          | .page va x => .next ((s.engineSeen c [a]).copyPage c va x)
          | .fault k x => .next (((s.checkReads c (genPlaces a 32)).engineSeen c [a]).copyFail id k x)
          | .ok l => .next ((s.engineDone c a 32).takeElem c a (ofBytes l))

/-- Whether the read of a copy's next element, or of its predicate word, waits. -/
def State.elemWaits (s : State) (c : Copy) : Bool :=
  match c.elem, c.held with
  | some _, some v => (match s.predicate c v with | .wait => true | _ => false)
  | some a, none => (match s.recRead c a 32 with | .wait => true | _ => false)
  | none, _ => false

/-- One source byte. -/
def State.placeRead (s : State) (c : Copy) (p : Place) : EngRead :=
  match p with
  | .va g => s.engineRead c g 1
  | p => match s.placesFault c.secure [p] with
    | some k => .fault k p.addr
    | none => let r := s.placeByte (dieOf c.core) c.ctx p; if r.2 then .fault .poison p.addr else .ok [r.1]

/-- Source bytes of a move. -/
def State.moveBytes (s : State) (c : Copy) : List Place → EngRead
  | [] => .ok []
  | p :: l =>
    match s.placeRead c p with
    | .ok b => (match s.moveBytes c l with | .ok bs => .ok (b ++ bs) | r => r)
    | r => r

/-- The source bytes that are read with those of a move: the whole of each FP4B24 block that it takes from (R120). -/
def Copy.mates (c : Copy) (m : Move) : List Place :=
  match c.plane with
  | none => []
  | some q =>
    let bs := (m.srcs.filterMap (blockOf q)).eraseDups
    (c.moves.flatMap (·.srcs)).filter (fun p => match blockOf q p with | some b => bs.contains b && !m.srcs.contains p | none => false)

/-- Moves whose source bytes, where they have been read, are those bytes (R120). -/
def latchBytes (l : List (Place × Byte)) (ms : List Move) : List Move :=
  if l.isEmpty then ms
  else ms.map (fun m => { m with srcs := m.srcs.map (fun p => match l.find? (fun x => x.1 == p) with | some x => .byte x.2 | none => p) })

/-- Poisoned sector that a location lies in, as a write at the home finds it. -/
def State.badSector (s : State) (l : Loc) : Option (List Loc) :=
  match l with
  | .phys pa => if s.sectorBad none (pa / 256) then some ((List.range 256).map (fun j => .phys (pa / 256 * 256 + j))) else none
  | .ten p o => if s.store.tpoison.contains (p, o / 256) then some ((List.range 256).map (fun j => .ten p (o / 256 * 256 + j))) else none
  | _ => none

/-- Whether a move writes part of a poisoned sector that the copy does not cover whole (R321). -/
def State.movePoison (s : State) (c : Copy) (m : Move) : Bool :=
  m.dsts.any (fun d => match d with
    | .at l => (match s.badSector l with
      | some bs => !(bs.all (fun b => c.moves.any (fun n => n.dsts.contains (.at b))))
      | none => false)
    | _ => false)

/-- Whether a copy has written n locations from one up. -/
def Copy.wrote (c : Copy) (n : Nat) (l : Nat → Loc) : Bool := (List.range n).all (fun j => c.moves.any (fun m => m.done && m.dsts.contains (.at (l j))))

/-- The poisoned sector or word of a location that a copy has now written whole is clean, a codeword of it has new check bits (R125, R321,
R324). -/
def State.placeClean (s : State) (c : Copy) (m : Move) (l : Loc) : State :=
  let block := fun (n a : Nat) (f : Nat → Loc) => c.wrote n (fun j => f (a / n * n + j))
  match l with
  | .phys pa =>
    let s := if s.store.poison.contains (pa / 256) && block 256 pa .phys then s.clearPoison (pa / 256) else s
    if !s.store.upsets.isEmpty && block 64 pa .phys then s.recode none (· == pa / 64) else s
  | .ten p o =>
    let s := if s.store.tpoison.contains (p, o / 256) && block 256 o (.ten p) then s.clearTensor p (o / 256) else s
    if !s.store.upsets.isEmpty && block 64 o (.ten p) then s.recode (some p) (· == o / 64) else s
  | l => if m.dsts.length == 8 then s.clearWord l 8 else s

/-- Poison that the write of a move ends. -/
def State.moveClean (s : State) (c : Copy) (m : Move) : State :=
  match m.dsts with
  | .at (.ten p o) :: l => (Place.at (.ten p o) :: l).foldl (fun s d => match d with | .at l => s.placeClean c m l | _ => s) s
  | .at l :: r =>
    let lo := r.foldl (fun (x : Loc) d => match x, d with
      | .scr t o, .at (.scr _ u) => .scr t (Nat.min o u)
      | .dscr y d o, .at (.dscr _ _ u) => .dscr y d (Nat.min o u)
      | x, _ => x) l
    s.placeClean c m lo
  | _ => s

/-- Write the bytes of a move at their places; a global line is held in G, and the write is package-visible (R109). -/
def State.writeMove (s : State) (c : Copy) (m : Move) (bs : List Byte) : State :=
  let w : Writer := { core := c.core, ctx := c.ctx, scope := 5, cls := m.cls, shr := m.shr, rd := 2 }
  (m.dsts.zip bs).foldl (fun (s : State) (p : Place × Byte) => match p.1 with | .at l => s.writeLoc w l [p.2] | _ => s) s

/-- COPY_DATA_WRITE: one aligned unit of the destination, or one FP4B24 block of a tensor, is written from its source (R117, R120, R230,
R233). -/
def execCopyDataWrite (id unit : Nat) (s : State) : Out :=
  match s.copies.find? (fun c => c.id == id) with
  | none => .next s
  | some c =>
    match c.moves[unit]? with
    | none => .next s
    | some m =>
      if m.done || !s.copyLive c || !s.dictReady c.ctx c.dict c.gen then .next s
      else
        let s := s.copyFence c
        let more := c.mates m
        let us := s.copyUnits c (m.srcs ++ m.dsts)
        let gs := m.srcs.filterMap (fun p => match p with | .va g => some g | _ => none)
        match s.moveBytes c (m.srcs ++ more) with
        | .wait => .next s
        | .page va a => .next ((s.engineSeen c gs).copyPage c va a)
        | .fault k a => .next (((s.checkReads c (m.srcs ++ more)).engineSeen c gs).copyStop id k a)
        | .ok bs =>
          let a := if c.fields.dk == 0 then m.addr else (m.dsts.head?.getD .drop).addr
          match s.placesFault c.secure m.dsts with
          | some k => .next (s.copyStop id k a)
          | none =>
            if s.movePoison c m then .next (s.copyStop id .poison a)
            else if m.dsts.any (s.fabricKeeps c) || !s.copyRec c us then .next s
            else
              let s0 := ((s.checkReads c (m.srcs ++ more)).engineTouch c gs).touchPlaces c.ctx (m.srcs ++ more)
              let s1 := (s0.copyNote c us).writeMove c m bs
              let s2 := s1.modCopy id (fun c => { c with
                moves := latchBytes (more.zip (bs.drop m.srcs.length)) (c.moves.modify unit (fun m => { m with done := true }))
                written := c.written + m.dsts.length })
              .next (match s2.copies.find? (fun c => c.id == id) with | some c => s2.moveClean c m | none => s2)

/-- Whether a move waits: a source byte, or one read with it, lies in a line that another engine holds in G, the fabric holds a line that it
writes (R342, R343), or record and replay keep it (R358, R359). -/
def State.moveWaits (s : State) (c : Copy) (m : Move) : Bool :=
  (match s.moveBytes c (m.srcs ++ c.mates m) with | .wait => true | _ => false)
    || m.dsts.any (s.fabricKeeps c)
    || !s.copyRec c (s.copyUnits c (m.srcs ++ m.dsts))

/-- The barrier objects that a TCOPY still waiting for its page names, by its logged operands (R189, R231, R232). -/
def State.waitNames (s : State) (a : Acc) : List Loc :=
  match a.kind, a.ins, s.findTeam a.serial with
  | .copy, .tcopy f, some t =>
    let q := tcFields f
    let s4 := val a.vals (1 + ofBool (q.sk != 0) + ofBool (q.dk != 0))
    if q.nb then []
    else match s.copyTargets t a.core q.dk (field s4 16 16) with
      | .ok ts => ts.map (fun u => .scr u.serial (16 * (s4 % 65536)))
      | .error _ => []
  | _, _, _ => []

/-- Whether an incomplete copy names a barrier object for one of its arrivals (R189). -/
def State.namedByCopy (s : State) (l : Loc) : Bool :=
  s.copies.any (fun c => c.recvs.any (fun r => l == .scr r.serial r.off)) || s.accs.any (fun a => (s.waitNames a).contains l)

/-- BINV_CLEAR: the object becomes zero once no incomplete copy names it (R189). -/
def execBinvClear (id : Nat) (s : State) : Out :=
  .next (s.tryPerform id 0 (fun a u => a.kind == .binv && !s.namedByCopy u.loc))

/-- COPY_ARRIVAL: all bytes of a receiver are written or skipped (R118, R188, R233). An object that reads as poisoned ends the copy (R321). -/
def execCopyArrival (id receiver : Nat) (s : State) : Out :=
  match s.copies.find? (fun c => c.id == id) with
  | none => .next s
  | some c =>
    match c.recvs[receiver]? with
    | none => .next s
    | some r =>
      let mine := fun (m : Move) => c.targets.length ≤ 1 || m.recv == receiver
      if r.arrived || c.elem.isSome || c.failed.isSome || !c.granted || s.frozen c.ctx || c.moves.any (fun m => mine m && !m.done)
          || s.pushWaits c.fields.scope c.core then .next s
      else
        let loc := Loc.scr r.serial r.off
        if (s.poisonRead (dieOf c.core) loc 16).isSome then .next ((s.check loc 16).copyStop id .poison r.off) else
        let s := (s.check loc 16).issuePush c.fields.scope c.core
        let o := BarObj.ofNat (ofBytes (s.readLoc (dieOf c.core) loc 16))
        let s := match barUpdate o 0 (-(c.run : Int)) true with
          | some o => s.writeLoc { core := c.core, ctx := c.ctx, scope := 5 } loc (toBytes 16 o.toNat)
          | none => s
        .next (s.modCopy id (fun c => { c with recvs := c.recvs.modify receiver (fun r => { r with arrived := true }) }))

/-- Whether a copy has nothing left to do. -/
def Copy.finished (c : Copy) : Bool :=
  c.granted && c.elem.isNone && c.failed.isNone && c.moves.all (·.done) && c.recvs.all (·.arrived)

/-- COPY_COMPLETE: the copy is complete and its G lines are released (R233). -/
def execCopyComplete (id : Nat) (s : State) : Out :=
  match s.copies.find? (fun c => c.id == id) with
  | none => .next s
  | some c =>
    if c.finished then .next ({ s with copies := s.copies.filter (fun c => c.id != id) }.opDone c.serial c.crew c.lane id) else .next s

/-- Park the issuing crew of an operation that has failed, where it stands (R234). A team whose crew is gone by then has ended by it,
for bit 0 of FINISH (R274). -/
def State.copyFault (s : State) (serial crew lane : Nat) (pc : DWord) (k : Cause) (addr written : Nat) : State :=
  let gone := s.modTeam serial (fun t => { t with killed := true })
  match s.crewAt serial crew with
  | none => gone
  | some n =>
    match s.crew? n with
    | none => gone
    | some c =>
      if c.live == 0 then gone
      else s.takeFault n { cause := .copyFault, sub := k.code, lmask := maskOf [lane], pc := pc, addr := addr, info := written % 2 ^ 32, ilane := lane }

/-- COPY_FAULT: a copy or dictionary load that met a fault ends (R234, R239). -/
def execCopyFault (id : Nat) (s : State) : Out :=
  match s.copies.find? (fun c => c.id == id) with
  | some c =>
    (match c.failed with
    | none => .next s
    | some k =>
      if !c.granted || c.moves.any (fun m => !m.done) then .next s
      else .next (({ s with copies := s.copies.filter (fun c => c.id != id) }.opDone c.serial c.crew c.lane id).copyFault
        c.serial c.crew c.lane c.pc k.1 k.2 c.written))
  | none =>
    match s.dictlds.find? (fun d => d.id == id) with
    | none => .next s
    | some d =>
      match d.failed with
      | none => .next s
      | some k =>
        .next (({ s with dictlds := s.dictlds.filter (fun d => d.id != id) }.opDone d.serial d.crew d.lane id).copyFault
          d.serial d.crew d.lane d.pc k (recGen d.addr) d.written)

/-! ### Dictionary loads -/

def State.modLoad (s : State) (id : Nat) (f : DictLoad → DictLoad) : State :=
  { s with dictlds := s.dictlds.map (fun d => if d.id == id then f d else d) }

/-- DICTLD_SLOT_REQUEST: the request reaches a stack's slot unit and the generation rises (R239). -/
def execDictldSlotRequest (id stack : Nat) (s : State) : Out :=
  match s.dictlds.find? (fun d => d.id == id) with
  | none => .next s
  | some d =>
    if !d.todo.contains stack || d.failed.isSome || s.frozen d.ctx || !s.engineReady d.serial d.crew d.lane id
        || !d.fenced && s.pushWaits d.scope d.core then .next s
    else
      let s := if d.fenced then s else s.issuePush d.scope d.core
      let x := s.dict d.ctx stack d.slot
      .next ((s.setDict { x with gen := x.gen + 1 }).modLoad id (fun d => { d with
        fenced := true, todo := d.todo.filter (· != stack), reached := d.reached ++ [(stack, x.gen + 1)] }))

/-- Whether a slot may be written from the image: every read bound to an older generation has finished, every older load of the slot has
written (R239), no other engine holds a line of the image in G (R117), nor the fabric one (R342, R343), no SEEDSET of the context is in progress
(R103). -/
def State.slotReady (s : State) (d : DictLoad) (stack g : Nat) : Bool :=
  d.failed.isNone && !s.olderReads d.ctx stack d.slot g && s.dictReady d.ctx (some (stack, d.slot)) (g - 1)
    && !s.frozen d.ctx && !d.image.any (fun l => s.locInG d.id l || match l with | .phys pa => s.fabricHolds (some (dieOf d.core)) pa | _ => false)

/-- The check of the codewords of an image (R324). -/
def State.imageCheck (s : State) (d : DictLoad) : State := d.image.foldl (fun s l => s.check l 8) s

/-- What the caches keep of an image that is read (R87). -/
def State.imageTouch (s : State) (d : DictLoad) : State :=
  (((d.image.filterMap (fun l => match l with | .phys pa => some (pa / 256) | _ => none)).eraseDups)).foldl (fun s k =>
    s.cacheRead { core := d.core, ctx := d.ctx, cls := d.cls, shr := d.shr, rd := 2 } 1 (256 * k)) s

/-- DICTLD_SLOT_WRITE: when every read bound to an older generation has finished, and every older load of the slot has written, the
entries are written from the image (R239). -/
def execDictldSlotWrite (id stack : Nat) (s : State) : Out :=
  match s.dictlds.find? (fun d => d.id == id) with
  | none => .next s
  | some d =>
    match d.reached.find? (fun r => r.1 == stack) with
    | none => .next s
    | some (_, g) =>
      if !s.slotReady d stack g then .next s
      else if d.image.any (fun l => (s.poisonRead (dieOf d.core) l 8).isSome) then .next ((s.imageCheck d).modLoad id (fun d => { d with failed := some .poison }))
      else
        let s := (s.imageCheck d).imageTouch d
        let bytes := d.image.flatMap (fun l => s.readLoc (dieOf d.core) l 8)
        let s1 := (s.setDict { s.dict d.ctx stack d.slot with entries := Memory.putBytes [] 0 bytes }).modLoad id
          (fun d => { d with reached := d.reached.filter (fun r => r.1 != stack), written := d.written + 1024 })
        if d.todo.isEmpty && d.reached.all (fun r => r.1 == stack) then
          .next ({ s1 with dictlds := s1.dictlds.filter (fun d => d.id != id) }.opDone d.serial d.crew d.lane id)
        else .next s1

/-! ### Grants of G -/

/-- A copy issues once its lines are held in G: its dictionary is bound then (R231, R232). -/
def State.grantCopy (s : State) (c : Copy) : State :=
  (s.issuePush c.fields.scope c.core).modCopy c.id (fun x => { x with
    granted := true, gen := match x.dict with | some (k, n) => (s.dict x.ctx k n).gen | none => x.gen })

/-- DESTINATION_LINES_HELD_IN_G: the last line is granted, and the stalled lane of a TCOPY, or the bundle of an AEPI, issues
(R232, R224). -/
def execDestinationLinesHeldInG (team crew lane : Nat) (s : State) : Out :=
  match s.crewAt team crew with
  | none => .next s
  | some k =>
    match s.crew? k with
    | none => .next s
    | some c =>
      if (c.thread lane).st != .stalled || (c.thread lane).why != .grant then .next s
      else
        match s.copies.find? (fun x => x.serial == team && x.crew == crew && x.lane == lane && !x.granted) with
        | some x =>
          if !s.linesFree x.id team crew lane x.lines || s.pushWaits x.fields.scope x.core then .next s
          else
            let c1 := (c.modThread lane (fun t => { t with openOps := t.openOps ++ [x.id] })).advance (maskOf [lane]) s.cycle
              (fun _ t => t.pc + 16)
            .next ((s.modCrew k (fun _ => c1)).grantCopy x)
        | none =>
          match s.accq.find? (fun x => x.serial == team && x.crew == crew && x.lane == lane && !x.granted) with
          | none => .next s
          | some e =>
            if !s.linesFree e.id team crew lane e.lines || s.queued e.core ≥ Config.accQueue then .next s
            else
              let mask := (c.bundles.find? (fun b => b.getLsbD lane)).getD (maskOf [lane])
              .next ({ (s.modCrew k (fun c => c.advance mask s.cycle (fun _ t => t.pc + 16))) with
                accq := s.accq.filter (fun x => x.id != e.id) }.enter { e with granted := true, entered := s.cycle, sched := c.sched })

/-! ### Replays (R306) -/

/-- What a waiting lane of a TCOPY or DICTLD comes to when its page is looked up again. -/
def copyAgain (s : State) (c : Crew) (a : Acc) : CopyRes :=
  match a.ins with
  | .tcopy f => tcopyPlan s c.outside a.ins f a.lane a.pc (loggedArgs f a.vals)
  | .dictld f => dictldPlan s c.outside f a.lane a.pc (val a.vals 0) 0
  | _ => .stall .dep

/-- Replay a waiting lane of a TCOPY or DICTLD: it reaches its engine, waits again, or takes its fault; its destination lines may keep it
waiting (R210, R232, R306). -/
def State.replayCopy (s : State) (k : Nat) (c : Crew) (a : Acc) : State :=
  let s := match a.ins with
    | .tcopy f => if (tcFields f).nr || (tcFields f).dk != 0 then s else s.recordCheck c.outside a.lane (val a.vals 0)
    | _ => s
  let gone := fun (s : State) => { s with accs := s.accs.filter (fun x => x.id != a.id) }
  let used := fun (vas : List Nat) (s : State) => s.engineUse c.core c.outside.asid c.outside.secure vas
  match copyAgain s c a with
  | .stall _ => s
  | .fault e sub x vas => replayLanes (used vas s) k c.under a.pc [(a, .fault e sub x)]
  | .page va x _ _ vas => replayLanes (used vas s) k c.under a.pc [(a, .page va x [])]
  | .copy cp _ vas =>
    if !s.linesFree a.id a.serial a.crew a.lane cp.lines || s.pushWaits cp.fields.scope cp.core then s
    else gone (((used vas (s.issuePush cp.fields.scope cp.core)).recordUsed cp) |> fun s => { s with copies := s.copies ++ [{ cp with id := a.id, granted := true }] })
  | .load d _ vas => if s.pushWaits d.scope d.core then s else gone ((used vas (s.issuePush d.scope d.core)) |> fun s => { s with dictlds := s.dictlds ++ [{ d with id := a.id }] })

/-- The PC of a record that is not ended. -/
def State.recPc (s : State) (rid : Nat) : Option DWord :=
  ((s.cp.faultQ ++ s.cp.rings.flatMap (fun g => (g.recs.filter (fun x => !x.ended)).map (·.fault))).find? (fun r => r.rid == rid)).map (·.pc)

/-- Whether the replay of an access can be made: its crew is not parked by a fault of its instruction (R309), the team is not being dumped
(R351; a lane held on a prediction is no page-fault replay), and an AEPI or a copy finds its lines and its queue (R306). -/
def State.replayReady (s : State) (c : Crew) (a : Acc) : Bool :=
  let parked := c.threads.any (fun t => t.causes.any (fun p => match p with
    | .fault r => s.recPc r == some a.pc
    | _ => false))
  !parked && ((s.dumpCore a.serial).isNone || a.hold == .predict) && match a.kind with
    | .epi =>
      (match aepiOf a.ins with
      | none => true
      | some f => match aepiPlaces s c f a.lane a.vals with
        | .error .wait => false
        | .error _ => true
        | .ok us => (s.epiEntry c a f us).isSome)
    | .copy =>
      (match copyAgain s c a with
      | .stall _ => false
      | .copy cp _ _ => s.linesFree a.id a.serial a.crew a.lane cp.lines && !s.pushWaits cp.fields.scope cp.core
      | .load d _ _ => !s.pushWaits d.scope d.core
      | _ => true)
    | _ => true

/-- PAGE_FAULT_REPLAY: the lanes of an instruction that wait to be replayed look their pages up again, together (R86, R306); those held on a
prediction are confirmed or squashed with the leaf that their lookup returned (R303). -/
def execPageFaultReplay (id : Nat) (s : State) : Out :=
  match s.acc? id with
  | none => .next s
  | some a =>
    match s.crewAt a.serial a.crew with
    | none => .next s
    | some k =>
      match s.crew? k with
      | none => .next s
      | some c =>
        if !(a.hold == .replay || a.hold == .predict) || !s.replayReady c a then .next s
        else
          match a.kind with
          | .epi => .next (s.replayEpi k c a)
          | .copy => .next (s.replayCopy k c a)
          | _ =>
            let g : List Acc := inOrder (fun (x y : Acc) => decide (x.lane ≤ y.lane)) (s.accs.filter (fun b => b.group == a.group && b.hold == a.hold))
            let plans : List (Nat × LaneRes) := match memDesc a.ins with
              | some d => blockRule (g.map (fun b => (b.lane, d.again s c b)))
              | none => g.map (fun b => (b.lane, planCall s c b))
            .next (replayLanes s k c a.pc (g.filterMap (fun b => (plans.find? (fun p => p.1 == b.lane)).map (fun p => (b, p.2)))))

end Sys2Proof.Machine
end

