-- ==== Sys2Proof/Machine/Save.lean ====
section
/-! DEFINITION. Dispositions of records (13 R268, 15 R306, 16 R317), saving a team and what a restore reads back (14 R289 to
R291; 13 R259, R260, R269). -/
namespace Sys2Proof.Machine

/-! ### Dispositions -/

/-- A record's lanes go on (R173, R268, R306): its cause is cleared, and what waits for its page is tried again. -/
def State.resumeRec (s : State) (k rid : Nat) (page : Option (Nat × Nat)) : State :=
  match s.crew? k with
  | none => s
  | some c =>
    let mine := fun (serial crew : Nat) => serial == c.team && crew == c.id
    /- what the crew issued inside its gate calls looks its pages up under the ASID in force, TCOPY and DICTLD under that outside them -/
    let free := fun (a : Acc) => match a.hold with
      | .fault r => r == rid
      | .page va => page == some (if a.kind == .copy then c.outside.asid else c.asid, va)
      | _ => false
    let waits := c.lanesWhere (fun t => t.why == .page && page == some (c.asid, t.page) && (t.st == .stalled || t.st == .parked && t.back == .stalled))
    let s := { s with
      accs := s.accs.map (fun (a : Acc) => if mine a.serial a.crew && free a then { a with hold := .replay } else a)
      copies := s.copies.map (fun (x : Copy) =>
        if mine x.serial x.crew && x.page.isSome && page == x.page.map (fun v => (x.asid, v)) then { x with page := none } else x) }
    s.modCrew k (fun c =>
      let c := c.modLanes waits (fun _ t => { t with why := .none })
      let c := c.wake (waits &&& c.lanesWhere (fun t => t.st == .stalled))
      c.clearCauses allLanes (fun p => p == .fault rid))

/-- KILL `.gate` of one crew of a resident team; it waits while the team is dumped (R259, R351). -/
def State.gateNow (s : State) (k cause : Nat) : State :=
  match s.crew? k with
  | none => s
  | some c => match s.dumpCore c.team with
    | some core => s.defer core (.act c.team (.killGate c.id cause))
    | none => s.endGate k cause

/-- The disposition of a record on its crew (R268): 0 stays parked, 1 goes on, 2 KILL, 3 KILL `.gate` with the cause. -/
def State.dispose (s : State) (k rid disp : Nat) (page : Option (Nat × Nat)) (cause : Nat) : State :=
  match disp with
  | 1 => s.resumeRec k rid page
  | 2 => s.killNow k
  | 3 =>
    match s.crew? k with
    | none => s
    | some c =>
      if c.frames.isEmpty then s
      else
        /- what waits for the record's page, or for the record, is not tried again; a call that is ending already ends once -/
        let s := s.dropAccs (fun a => a.serial == c.team && a.crew == c.id && match a.hold with
          | .fault r => r == rid
          | .page va => a.kind != .copy && page == some (c.asid, va)
          | _ => false)
        let s := s.modCrew k (fun c => c.modLanes allLanes (fun _ t => { t with causes := t.causes.filter (· != .fault rid) }))
        if c.ending.isSome then s.gateEnd k else s.gateNow k cause
  | _ => s

/-! ### The save area (R290) -/

/-- SZ of R290. -/
def saveSize (t : Team) : Nat := (1024 + t.crews * 98304 + t.scrK * 1024 + t.tiles * 16384 + 65535) / 65536 * 65536

/-- The bytes of a save area that an area's reads and writes touch. -/
def saveBytes (t : Team) : Nat := 1024 + t.crews * 98304 + t.scrK * 1024 + t.tiles * 16384

/-- The parts of the first n bytes of a save area that lie in one page, with their lengths. -/
def Saved.parts (v : Saved) (n : Nat) : List (Nat × Nat) :=
  (List.range ((v.addr % 65536 + n + 65535) / 65536)).map (fun j =>
    let lo := Nat.max v.addr (65536 * (v.addr / 65536 + j))
    (lo, Nat.min (v.addr + n) (65536 * (v.addr / 65536 + j + 1)) - lo))

/-- Whether an access to the first n bytes of a save area waits: for a SEEDSET of the context, for its walk, for its lines (R103, R117, R300). -/
def State.areaHeld (s : State) (v : Saved) (n : Nat) (w : Want) : Bool :=
  s.frozen v.team.ctx || (v.parts n).any (fun p => s.pinHeld v.team.core v.asid v.secure p.1 p.2 w)

/-- The fill of an access of the save engine (R87, R89). -/
def State.areaFill (s : State) (v : Saved) (va : Nat) : Fill := s.engineFill v.team.core v.asid v.secure va v.team.ctx

/-- What an access to the first n bytes of a save area does beside its data: translations are used (R300); what is read is checked (R324), and
read through the caches with no reuse distance (R87). -/
def State.areaUse (s : State) (v : Saved) (n : Nat) (w : Want) : State :=
  (v.parts n).foldl (fun s p =>
    let u := s.engineUse v.team.core v.asid v.secure [p.1]
    match w, s.pinnedOff v.team.core v.asid v.secure p.1 p.2 w with
    | .read, .ok pa => (sectorsOf pa p.2).foldl (fun u k => u.cacheRead (s.areaFill v p.1) 1 (256 * k)) (u.check (.phys pa) p.2)
    | _, _ => u) s

/-- Write bytes at an offset of a save area, page by page (R301); the fuel is the number of pages. -/
def State.saveWrite (s : State) (v : Saved) : Nat → Nat → Nat → Memory → Except Cause State
  | 0, _, _, _ => .ok s
  | fuel + 1, off, len, data =>
    if len == 0 then .ok s
    else
      let n := Nat.min len (65536 - (v.addr + off) % 65536)
      match s.pinnedOff v.team.core v.asid v.secure (v.addr + off) n .write with
      | .error e => .error e
      | .ok pa =>
        State.saveWrite (s.agentPut (some (s.areaFill v (v.addr + off)).writer) pa n data) v fuel (off + n) (len - n) (data.slice n (len - n))

/-- The bytes of a part of a save area, from 0 up (R301, R321). -/
def State.saveRead (s : State) (v : Saved) : Nat → Nat → Nat → Except Cause Memory
  | 0, _, _ => .ok []
  | fuel + 1, off, len =>
    if len == 0 then .ok []
    else
      let n := Nat.min len (65536 - (v.addr + off) % 65536)
      match s.pinnedOff v.team.core v.asid v.secure (v.addr + off) n .read with
      | .error e => .error e
      | .ok pa =>
        if (List.range ((n + 255) / 256 + 1)).any (fun j => pa / 256 + j ≤ (pa + n - 1) / 256 && s.store.poison.contains (pa / 256 + j)) then
          .error .poison
        else
          match State.saveRead s v fuel (off + n) (len - n) with
          | .error e => .error e
          | .ok m => .ok (s.store.mem.slice pa n ++ m.map (fun c => (c.1 + n, c.2)))

/-- A write of 4 bytes at an offset of a save area, where the area translates. -/
def State.areaPost (s : State) (v : Saved) (off x : Nat) : State :=
  s.post { place := .pinned v.team.core v.asid v.secure (v.addr + off) (some v.team.ctx), data := toBytes 4 x }

/-- The status word (R260). -/
def State.saveStatus (s : State) (v : Saved) (st : Nat) : State := s.areaPost v 0 st

/-- Crews that have a PARK recorded and no later RESUME (R259, R290). -/
def parkBits (acts : List SaveAct) : Nat :=
  acts.foldl (fun m a => match a with
    | .park c => if bit m c then m else m + 2 ^ c
    | .resume c => if bit m c then m - 2 ^ c else m
    | _ => m) 0

/-- Bytes that the spec gives no layout for (log 3): n of them, drawn from the k-th free value on. -/
def freeBytes (k n : Nat) : List Byte := (List.range (n / 8)).flatMap (fun j => toBytes 8 (Config.free (k + j)).toNat)

/-- Registers of a crew with their map level and lane (R53, R290): level 0 is the current map, level g the snapshot of frame g. -/
def Crew.savedRegs (c : Crew) : List (Nat × Nat × Reg) :=
  (List.range 32).flatMap (fun l =>
    (c.thread l).regs.map (fun r => (0, l, r))
      ++ (c.frames.mapIdx (fun j f => (((f.lanes[l]?).getD default).regs).map (fun r => (c.gdepth - j, l, r)))).flatten)

/-- Offset of a register in a crew block. -/
def regOff (level lane n : Nat) : Nat := 0x4000 + 4 * (32 * (128 * level + n) + lane)

/-- The value of a register that is being saved: its entry, or its place in the spill area (R289); or its fault with sub-cause and address, as a
refill takes it (R301, R310, R321). -/
def State.savedVal (s : State) (c : Crew) (x : Nat × Nat × Reg) : Except (Cause × Nat × Nat) Nat :=
  if x.2.2.bad then .error (.poison, 3, 0)
  else if x.2.2.st != .spilled then .ok x.2.2.v.toNat
  else
    match s.spillPa c x.2.2.lvl x.2.2.n x.2.1 .read with
    | .error e => .error (e, 0, spillVa (s.teamOf c) c.id x.2.2.lvl x.2.2.n x.2.1)
    | .ok pa => if (s.poisonRead (dieOf c.core) (.phys pa) 4).isSome then .error (.poison, 1, 0) else .ok (s.memRead pa 4)

/-- Whether a read of a crew's places in the spill area waits. -/
def State.spillsHeld (s : State) (c : Crew) : Bool :=
  c.savedRegs.any (fun x => x.2.2.st == .spilled && s.spillHeld c x.2.2.lvl x.2.2.n x.2.1 .read)

/-- What those reads do beside their data (R87, R300, R324). -/
def State.spillsUse (s : State) (c : Crew) : State :=
  c.savedRegs.foldl (fun s x =>
    if x.2.2.st != .spilled then s
    else
      let u := s.spillUse c x.2.2.lvl x.2.2.n x.2.1
      match s.spillPa c x.2.2.lvl x.2.2.n x.2.1 .read with
      | .ok pa => (u.check (.phys pa) 4).cacheRead (s.spillFill c x.2.2.lvl x.2.2.n x.2.1) 1 pa
      | .error _ => u) s

/-! ### The operand log of a crew (R305) -/

/-- A slot group: the instruction, its waiting lanes, its first slot and its slots, the accesses in it, and the bytes of the lanes that are to
perform the instruction again. -/
structure LogGroup where
  pc : DWord
  lanes : Mask
  first : Nat
  count : Nat
  accs : List Acc
  again : List (Nat × List Byte)
  /-- of an instruction with values that one lane alone reads, which take one slot together (R209): the slots before that one -/
  solo : Option Nat := none

/-- The lanes that are to perform an instruction again from its logged values, by its address. -/
def Crew.relogged (c : Crew) : List (DWord × Nat) :=
  (List.range 32).filterMap (fun l => (c.thread l).relog.map (fun _ => ((c.thread l).pc, l)))

/-- The bytes of each value of a source in the log. -/
def logWidths (u : Use × Src) : List Nat :=
  match u.1 with
  | .run n _ => List.replicate n 4
  | x => [4 * x.regs]

/-- The bytes that a lane of a memory instruction keeps in its slots, 8 to a slot: its address, then its other source values (R305). -/
def logBytes (i : Instr) (st addr : Nat) (vals : List Nat) : List Byte :=
  let others : List (Nat × Nat) := match memDesc i with
    | some d => (vals.drop 1).zip (((d.uses st).drop 1).flatMap logWidths)
    | none => vals.map (fun v => (v, 8))
  toBytes 8 addr ++ others.flatMap (fun x => toBytes x.2 x.1)

/-- How many slots the log gives to the lanes of an instruction before the one for values that a single lane reads (R209, R305). -/
def soloFrom (i : Instr) : Option Nat :=
  match i with
  | .mma _ | .aclr _ | .amov _ | .ald _ | .ast _ | .aepi _ => some 0
  | .mmag _ => some 1
  | _ => none

/-- The bytes of a lane that is to perform an instruction again: as it keeps them in its slots, or, of one that held none, each value in a
slot. -/
def Crew.againBytes (c : Crew) (x : Option KeptLog) (l : Nat) : List Byte :=
  let t := c.thread l
  let vs := (t.relog.getD []).map (·.toNat)
  match x with
  | some x => (match memDesc x.ins with
    | some d =>
      let st := if d.f.pg == 1 then d.roomFmt t else 0
      if t.gaps.isEmpty then logBytes x.ins st (recAddr d.f (val vs 0)) vs
      else
        let one := if t.gaps.contains d.f.s1 then [] else toBytes 8 (recAddr d.f (val vs 0))
        let rest := butSrcs t.gaps ((d.uses st).drop 1)
        one ++ ((vs.drop (if t.gaps.contains d.f.s1 then 0 else 1)).zip (rest.flatMap logWidths)).flatMap (fun v => toBytes v.2 v.1)
    | none => vs.flatMap (toBytes 8))
  | none => vs.flatMap (toBytes 8)

/-- The slot groups of a crew: those of its accesses, in the order of issue, which hold the lanes that are to perform the instruction again
too; those of such lanes alone follow in the slots that their instruction holds, and from slot 11 on where it holds none (DESIGN CHOICE of
the places, log 101). -/
def logGroups (c : Crew) (accs : List Acc) : List LogGroup :=
  let kept := fun (pc : DWord) => c.logs.find? (fun x => x.pc == pc)
  let again := fun (pc : DWord) => (c.relogged.filter (fun x => x.1 == pc)).map (fun x => (x.2, c.againBytes (kept pc) x.2))
  let gs := (accs.map (·.group)).eraseDups
  let own := gs.foldl (fun (p : Nat × List LogGroup) g =>
    let mine := accs.filter (fun a => a.group == g)
    let a := mine.head?.getD default
    let more := again a.pc
    (p.1 + a.slots, p.2 ++ [⟨a.pc, maskOf (mine.map (·.lane) ++ more.map (·.1)), p.1, a.slots, mine, more, none⟩])) (0, [])
  let rest := ((c.relogged.filter (fun x => !own.2.any (fun g => g.pc == x.1))).map (·.1)).eraseDups
  (rest.foldl (fun (p : Nat × List LogGroup) pc =>
    let more := again pc
    match kept pc with
    | some x => (p.1 + x.slots, p.2 ++ [⟨pc, maskOf (more.map (·.1)), if x.slots == 0 then 11 else p.1, x.slots, [], more, soloFrom x.ins⟩])
    | none => (p.1, p.2 ++ [⟨pc, maskOf (more.map (·.1)), 11, 0, [], more, none⟩])) own).2

/-- Slots that a group's values fill, and where its j-th lies: in the slots that the instruction holds, then from slot 11 on (R305). -/
def LogGroup.used (g : LogGroup) : Nat :=
  let n := match g.solo with
    | some k => k + 1
    | none => (g.again.map (fun x => (x.2.length + 7) / 8)).foldl Nat.max g.count
  Nat.min n (g.count + 5)
def LogGroup.place (g : LogGroup) (j : Nat) : Nat := if j < g.count then g.first + j else 11 + (j - g.count)

/-- Headers of the operand log: address, lanes, first slot and count of each group. -/
def logHeaders (gs : List LogGroup) : List Byte :=
  gs.flatMap (fun g => toBytes 16 (g.pc.toNat + 2 ^ 64 * g.lanes.toNat + 2 ^ 96 * (g.first % 16)
    + 2 ^ 100 * ((if g.count == 0 then g.used else g.count) % 16)))

/-- The bytes of the j-th slot of a group: lane l's 8 bytes at 8l, or, of a matrix or copy instruction, its staged scalars one after the other.
What no value fills is not given: free values from f on. -/
def LogGroup.bytes (f : Nat) (g : LogGroup) (j : Nat) : List Byte :=
  if g.accs.any (fun a => a.kind == .epi || a.kind == .copy) then
    let l := g.accs.flatMap (fun a => a.vals.flatMap (toBytes 8))
    (l ++ (freeBytes f 256).drop l.length).take 256
  else if g.solo == some j then
    let l := (g.again.head?.map (fun x => x.2)).getD [] |>.drop (8 * j)
    (l ++ (freeBytes f 256).drop l.length).take 256
  else
    (List.range 32).flatMap (fun l =>
      let own := match g.accs.find? (fun a => a.lane == l), g.again.find? (fun x => x.1 == l) with
        | some a, _ => ((logBytes a.ins a.sfmt a.addr a.vals).drop (8 * j)).take 8
        | none, some x => (x.2.drop (8 * j)).take 8
        | none, none => []
      own ++ (freeBytes (f + 32 * j + l) 8).drop own.length)

/-! ### What a crew's state holds, in numbers -/

/-- A list with its length before it. -/
def counted (l : List Nat) : List Nat := l.length :: l

def TState.code : TState → Nat
  | .ready => 0 | .stalled => 1 | .held => 2 | .cheld => 3 | .waiting => 4 | .parked => 5 | .exited => 6

/-- A park cause; a fault's by the cause that its record names. -/
def ParkCause.image (cause : Nat → Nat) : ParkCause → List Nat
  | .park => [0, 0] | .debug core k => [1, 4 * core + k] | .spill => [2, 0] | .fault r => [3, cause r] | .ending k => [4, k]

/-- A WAIT in progress: its conditions, of a time-out the whole ticks that remain (R26, R290). -/
def Pending.image (p : Pending) : List Nat :=
  p.conds.flatMap (fun x => match x with
    | .bar o q => [1, o, ofBool q]
    | .batch n => [2, n]
    | .mem _ m v => [3, p.addr, m, v, p.msz, p.mrel]
    | .tile m => [4, m]
    | .time t => [5, t - p.elapsed / 10]) ++ [ofBool p.all, p.dst, match p.creg with | some n => n + 1 | none => 0]

/-- The numbers of the mapped registers of a map (R290, register map bits). -/
def mapImage (l : List Reg) : List Nat := counted (inOrder (fun a b => decide (a ≤ b)) (l.map (·.n)))

/-- What the block of a crew says of a lane (R290). -/
def Crew.laneImage (c : Crew) (cause : Nat → Nat) (l : Nat) : List Nat :=
  let t := c.thread l
  [t.pc.toNat, t.st.code, t.back.code] ++ counted (t.causes.flatMap (ParkCause.image cause)) ++ [ofBool t.mrv, t.mrm.toNat, t.preds.toNat]
    ++ t.idx.map (·.toNat) ++ [t.flags.toNat, t.depth] ++ counted (t.stack.map (·.toNat))
    ++ counted (match t.wait with | some p => p.image | none => []) ++ [t.batchNo.toNat] ++ counted t.openOps
    ++ counted (t.batches.flatMap counted) ++ mapImage t.regs
    ++ c.frames.flatMap (fun f => mapImage ((f.lanes[l]?).getD default).regs)
    ++ counted (if t.relog.isSome then t.gaps.map (fun x => x.code.toNat + 2 ^ 8 * x.last.toNat + 2 ^ 9 * x.pat.toNat + 2 ^ 12 * x.parm.toNat) else [])

/-- What it says of the crew. -/
def Crew.image (c : Crew) : List Nat :=
  [c.gdepth] ++ counted (c.holds.flatMap (fun x => [x.1.toNat, x.2])) ++ counted (c.coll.flatMap (fun x => [x.1.toNat, x.2])) ++ [c.rot]

/-- What it says of a gate frame (R167). -/
def Frame.image (f : Frame) : List Nat :=
  [f.pc.toNat, f.asid, ofBool f.secure, f.fdom, f.privBase, f.privSize, f.rbud, f.nres, ofBool f.scrf]
    ++ counted ((f.cregs.getD []).map (·.toNat))
    ++ f.lanes.flatMap (fun x => [x.preds.toNat, ofBool x.mrv, x.mrm.toNat, x.flags.toNat, x.depth] ++ x.idx.map (·.toNat) ++ counted (x.stack.map (·.toNat)))

/-- n bytes of a part of a block whose contents have no layout: a free function of them (log 3). -/
def stateBytes (part n : Nat) (l : List Nat) : List Byte := (List.range n).map (Config.layout part l)

/-- A piece of an area: offset, length and bytes. -/
abbrev Piece := Nat × Nat × Memory

def areaPiece (off : Nat) (l : List Byte) : Piece := (off, l.length, Memory.ofList 0 l)

/-- The cause code in the record of a fault that parks a crew (R310). -/
def State.causeCode (s : State) (rid : Nat) : Nat :=
  match (s.cp.faultQ ++ s.cp.rings.flatMap (fun g => g.recs.map (·.fault))).find? (fun r => r.rid == rid) with
  | some r => r.cause.code
  | none => 0

/-- The pieces of a crew's block but its registers (R290). Crew state, lanes and gate frames are free functions of what they hold; what a log
slot holds that no group has, is free. -/
def State.crewBlock (s : State) (c : Crew) (accs : List Acc) : List Piece :=
  let f := s.freeCtr
  let gs := logGroups c (accs.filter (fun a => a.crew == c.id))
  [areaPiece 0 (c.creg.mapIdx (fun n w => (n, w)) |>.flatMap (fun x => toBytes 4 (if c.cbad.contains x.1 then 0 else x.2.toNat)))
  , areaPiece 0x100 (stateBytes 0 256 c.image), areaPiece 0x200 (logHeaders gs)
  , areaPiece 0x400 ((List.range 32).flatMap (fun l => stateBytes 1 256 (c.laneImage s.causeCode l)))
  , areaPiece 0x2400 ((List.range 4).flatMap (fun k => stateBytes 2 512 (match c.frames.reverse[k]? with | some x => x.image | none => [])))
  , areaPiece 0x2C00 (freeBytes f 4096)]
    ++ gs.flatMap (fun g => (List.range g.used).map (fun j => areaPiece (0x2C00 + 256 * g.place j) (g.bytes f j)))

/-- The pieces of a crew's registers. -/
def State.crewRegs (s : State) (c : Crew) : Except Cause (List Piece) :=
  c.savedRegs.mapM (fun x => match s.savedVal c x with
    | .ok v => .ok (areaPiece (regOff x.1 x.2.1 x.2.2.n) (toBytes 4 v))
    | .error e => .error e.1)

/-- Write a list of pieces. -/
def State.savePieces (s : State) (v : Saved) : List Piece → Except Cause State
  | [] => .ok s
  | (off, n, b) :: l =>
    match s.saveWrite v (n / 65536 + 2) off n b with
    | .error e => .error e
    | .ok s => State.savePieces s v l

/-- Header of the area up to the crew blocks (R290), with the status still 0. -/
def saveHeader (t : Team) (acts : List SaveAct) : List Piece :=
  [areaPiece 0x4 (toBytes 4 (parkBits acts)), areaPiece 0x8 (toBytes 4 (t.serial % 2 ^ 24 + 2 ^ 24 * t.crews)), areaPiece 0xC (toBytes 4 t.teamid)
  , areaPiece 0x10 (toBytes 8 t.rcbVa), areaPiece 0x18 (toBytes 4 (t.clvl + 16 * (if t.clvl == 0 then 0 else t.teamid % t.csize)))
  , areaPiece 0x20 (toBytes 8 (saveSize t)), (0x28, 984, [])]

/-- Write a team's area out (R289, step 4). -/
def State.saveOut (s : State) (v : Saved) (t : Team) (cs : List Crew) (accs : List Acc) : Except Cause State :=
  if !t.scrBad.isEmpty || !t.tileBad.isEmpty || cs.any (fun c => !c.cbad.isEmpty) then .error .poison
  else
    let blocks := cs.foldl (fun (r : Except Cause (State × List Piece)) c =>
      match r with
      | .error e => .error e
      | .ok (s, l) =>
        match s.crewRegs c with
        | .error e => .error e
        | .ok b => .ok ({ s with freeCtr := s.freeCtr + 512 }, l ++ (s.crewBlock c accs ++ b).map (fun p => (1024 + 98304 * c.id + p.1, p.2)))) (.ok (s, []))
    match blocks with
    | .error e => .error e
    | .ok (s, l) =>
      let scr : Piece := (1024 + 98304 * t.crews, 1024 * t.scrK, t.scr)
      let tiles : List Piece := (List.range t.tiles).map (fun j =>
        (1024 + 98304 * t.crews + 1024 * t.scrK + 16384 * j, 16384, (t.tile[j]?).getD []))
      s.savePieces v (saveHeader t v.acts ++ l ++ [scr] ++ tiles)

/-! ### Teams that leave -/

/-- A batch operation of the command processor is complete (R260, R261). -/
def State.opFinish (s : State) (op : Option Nat) : State :=
  match op with
  | none => s
  | some id =>
    let th := fun (t : Thread) => { t with openOps := t.openOps.filter (· != id), batches := t.batches.map (fun b => b.filter (· != id)) }
    let cr := fun (c : Crew) => { c with threads := c.threads.map th }
    { s with crews := s.crews.map cr, saved := s.saved.map (fun v => { v with crews := v.crews.map cr }) }

/-- A team is over: its launch counts it, and its node notes a KILL or COPY_FAULT (R274, R278). -/
def State.teamOver (s : State) (t : Team) : State :=
  { s with cp := { s.cp with
      launches := s.cp.launches.map (fun (l : Launch) =>
        if l.team.ctx == t.ctx && l.team.node == t.node then ({ l with ended := l.ended + 1 } : Launch) else l)
      nodes := s.cp.nodes.map (fun (n : Node) => if n.ctx == t.ctx && n.id == t.node && t.killed then { n with bad := true } else n) } }

/-- Put an entry among a queue engine's: by priority, then by arrival (R281). A new head has waited for nothing. -/
def QEngine.insert (e : QEngine) (q : QEntry) : QEngine :=
  let front := e.entries.filter (fun x => x.prio ≥ q.prio)
  { e with
    entries := front ++ [q] ++ e.entries.filter (fun x => x.prio < q.prio)
    headWait := if front.isEmpty then 0 else e.headWait }

/-- LIVE of a team's RCBs: teams of the subtree now resident (R275). -/
def State.updateLive (s : State) (t : Team) : State :=
  (t.rcb :: t.path).foldl (fun (s : State) a =>
    let n := (s.teams.filter (fun u => u.ctx == t.ctx && !u.ended && (u.rcb == a || u.path.contains a))).length
    s.post { place := .at (a + 76), data := toBytes 4 n }) s

/-- Take a serial out of the pending entries (R291). A head that leaves is followed by one that has waited for nothing (R288). -/
def State.unqueue (s : State) (serial : Nat) : State :=
  { s with cp := { s.cp with engines := s.cp.engines.map (fun (e : QEngine) =>
      let qs := e.entries.map (fun (q : QEntry) => { q with saved := q.saved.filter (· != serial) })
      let left := qs.filter (fun q => !(q.saved.isEmpty && q.teamids.isEmpty))
      { e with entries := left, headWait := if left.head?.map (·.order) == e.entries.head?.map (·.order) then e.headWait else 0 }) } }

/-- A team that lies in a save area is killed (R259, R260): status 6. -/
def State.killSaved (s : State) (v : Saved) : State :=
  let s := { s with saved := s.saved.filter (fun (x : Saved) => x.team.serial != v.team.serial) }
  let s := v.crews.foldl (fun s c => (s.dropClaim v.team.ctx c).endRecs c.team c.id) s
  (((s.saveStatus v 6).opFinish v.op).unqueue v.team.serial).teamOver { v.team with killed := true }

/-- KILL of a team wherever it is; one that is being saved is killed when the save is done (R259, R269). -/
def State.killSerial (s : State) (serial : Nat) : State :=
  match s.saved.find? (fun v => v.team.serial == serial) with
  | none => (match s.dumpCore serial with
    | some core => s.defer core (.act serial .killAll)
    | none => s.killTeam serial)
  | some v =>
    if v.status != 0 then s.killSaved v
    else { s with saved := s.saved.map (fun (x : Saved) => if x.team.serial == serial then { x with acts := x.acts ++ [.killAll] } else x) }

/-- Record an action for a saved team (R259), and the crews with a PARK recorded (R290). -/
def State.recordAct (s : State) (v : Saved) (a : SaveAct) : State :=
  let v := { v with acts := v.acts ++ [a] }
  let s := { s with saved := s.saved.map (fun (x : Saved) => if x.team.serial == v.team.serial then v else x) }
  s.areaPost v 4 (parkBits v.acts)

/-- Whether a team is being saved: its crews issue nothing (R289). -/
def State.saving (s : State) (serial : Nat) : Bool := s.saved.any (fun v => v.team.serial == serial && v.status == 0)

/-- A context is marked lost, and its teams are killed (R260, R289, R330). -/
def State.markLost (s : State) (ctx : Nat) : State :=
  let s := s.modCtx ctx (fun x => { x with lost := true })
  let mine := (s.teams.filter (fun u => u.ctx == ctx && !u.ended)).map (·.serial) ++ (s.saved.filter (fun (x : Saved) => x.team.ctx == ctx)).map (·.team.serial)
  mine.eraseDups.foldl State.killSerial s

/-- A context whose save has failed is lost (R260, R289): LOST is journalled, the domain gets a record, and its teams are killed. -/
def State.loseContext (s : State) (v : Saved) (inner : Cause) : State :=
  let t := v.team
  let s := s.saveStatus v 5
  let s := s.journal 0x08 0 t.ctx t.node (t.serial % 2 ^ 24 + 2 ^ 32 * (t.fdom % 2 ^ 16))
  let (rid, s) := s.fresh
  let r : Rec := { rid := rid, ctx := t.ctx, cause := .ctxSaveFault, sub := inner.code, fdom := t.fdom, gdepth := 0, lanes := false
                   escd := false, serial := t.serial, crew := 0, lmask := 0, pc := 0, addr := 0, info := 0, ilane := 0, core := t.core
                   page := none }
  let s := { s with
    saved := s.saved.filter (fun (x : Saved) => x.team.serial != t.serial), cp := { s.cp with faultQ := s.cp.faultQ ++ [r] } }
  (s.opFinish v.op).markLost t.ctx

/-- Whether a team that stops may be written out (R289, step 2): what it issued is complete but for lanes that wait for a page or a
handler, and no copy into its scratchpad is left. -/
def State.saveReady (s : State) (t : Team) : Bool :=
  let cs := s.crews.filter (fun c => c.team == t.serial)
  !(s.accs.any (fun a => a.serial == t.serial && !a.held))
    && !(s.accq.any (fun e => e.serial == t.serial && e.granted))
    && !(s.copies.any (fun c => c.granted && (c.serial == t.serial || c.into t.serial)))
    && !(s.dictlds.any (fun d => d.serial == t.serial)) && cs.all (fun c => c.ending.isNone || endWaits s c)
    && cs.all (fun c => c.busy.isEmpty && c.savedRegs.all (fun x => x.2.2.st != .spilling))

/-- A thread as it is kept, in the state that it has (R13): what waits for grants of G or for a latch will try again, and of a time-out the
whole ticks that remain are kept (R26, log 80). -/
def Thread.kept (t : Thread) : Thread :=
  { t with
    why := if t.why == .grant || t.why == .latch then .dep else t.why
    wait := t.wait.map (fun (p : Pending) => { p with elapsed := p.elapsed / 10 * 10 }) }

/-- Begin to save a team (R289): it issues nothing from now on. A save waits while the team is dumped (R351). -/
def State.startSave (s : State) (t : Team) (addr asid : Nat) (secure : Bool) (op : Option Nat) : State :=
  match s.dumpCore t.serial with
  | some core => s.defer core (.save t.serial addr asid secure op)
  | none =>
  let v : Saved := { team := t, crews := [], accs := [], addr := addr, asid := asid, secure := secure, status := 0, acts := [], op := op }
  { (s.saveStatus v 0) with saved := s.saved ++ [v] }

/-- The teams of a saved team's group, itself among them, that are saved or being saved (R29). -/
def State.savedGroup (s : State) (t : Team) : List Saved :=
  s.saved.filter (fun v => v.team.serial == t.serial
    || t.clvl != 0 && v.team.ctx == t.ctx && v.team.node == t.node && v.team.clvl == t.clvl && v.team.teamid / t.csize == t.teamid / t.csize)

/-- Place a saved group among the pending entries of a queue engine (R291): that of the core its first team left, when it has room
(log 15); a group that finds none waits for TEAM_DEAL. -/
def State.requeue (s : State) (t : Team) : State :=
  let g := s.savedGroup t
  let whole := t.clvl == 0 || !s.teams.any (fun u => u.ctx == t.ctx && u.node == t.node && !u.ended && u.teamid / t.csize == t.teamid / t.csize)
  if g.all (fun v => v.status == 1) && whole then
    let core := (g.head?.map (fun v => v.team.core)).getD t.core
    let e := s.queueEngine core
    if e.entries.length < Config.engineEntries then
      let q : QEntry := { ctx := t.ctx, node := t.node, prio := t.prio, order := s.cp.orderNext, teamids := [], saved := g.map (fun v => v.team.serial) }
      let s := s.setEngine (e.insert q)
      { s with cp := { s.cp with orderNext := s.cp.orderNext + 1 } }
    else s
  else s

/-- Whether the writes of a save wait: its push, its area, its crews' spilled registers (R103, R117, R300, R342, R343). -/
def State.saveHeld (s : State) (v : Saved) (t : Team) : Bool :=
  s.pushHeld (dieOf t.core) (fun _ => true) || s.areaHeld v (saveBytes t) .write || s.crews.any (fun c => c.team == t.serial && s.spillsHeld c)

/-- TEAM_SAVE_WRITE_OUT: after its drain and push, a team's area is written and its resources are released (R289). -/
def execTeamSaveWriteOut (team : Nat) (s : State) : Out :=
  match s.saved.find? (fun v => v.team.serial == team && v.status == 0), s.findTeam team with
  | some v, some t =>
    if !s.saveReady t || !s.journalRoom || s.saveHeld v t then .next s
    else
      let s := (s.crews.filter (fun c => c.team == team)).foldl State.spillsUse ((s.pushDie (dieOf t.core)).areaUse v (saveBytes t) .write)
      let accs := s.accs.filter (fun a => a.serial == team)
      let cs := s.crews.filter (fun c => c.team == team)
      let v := { v with team := t }
      match s.saveOut v t cs accs with
      | .error e => .next (s.loseContext v e)
      | .ok s =>
        let crews := cs.map (fun (c : Crew) => { c with threads := c.threads.map Thread.kept, latch := none })
        let v := { v with crews := crews, accs := accs, status := 1 }
        let s := { s with
          crews := s.crews.filter (fun c => c.team != team)
          teams := s.teams.filter (fun u => u.serial != team)
          accs := s.accs.filter (fun a => a.serial != team)
          copies := s.copies.filter (fun c => c.serial != team)
          accq := s.accq.filter (fun e => e.serial != team)
          saved := s.saved.map (fun (x : Saved) => if x.team.serial == team then { v with op := none } else x) }
        let s := ((s.updateLive t).saveStatus v 1).opFinish v.op
        let s := s.journal 0x06 0 t.ctx t.node (team % 2 ^ 24 + 2 ^ 64 * (t.slot % 2 ^ 24))
        if v.acts.contains .killAll then .next (s.killSaved { v with op := none })
        else .next (s.requeue t)
  | _, _ => .next s

/-! ### What a restore reads back (R291) -/

/-- A crew with the registers of its area: every one in a fresh entry. -/
def State.restoreCrew (s : State) (v : Saved) (c : Crew) : Except Cause Crew :=
  match s.saveRead v 3 (1024 + 98304 * c.id) 98304 with
  | .error e => .error e
  | .ok m =>
    let reg := fun (level l : Nat) (r : Reg) =>
      { r with v := BitVec.ofNat 32 (m.readN (regOff level l r.n) 4), st := .mapped, lvl := 0, bad := false }
    .ok { c with
      creg := (List.range 64).map (fun k => BitVec.ofNat 32 (m.readN (4 * k) 4)), cbad := []
      threads := c.threads.mapIdx (fun l (t : Thread) => { t with regs := t.regs.map (reg 0 l) })
      frames := c.frames.mapIdx (fun j (f : Frame) => { f with
        lanes := f.lanes.mapIdx (fun l (x : LaneFrame) => { x with regs := x.regs.map (reg (c.gdepth - j) l) }) }) }

/-- A saved team as its area gives it: scratchpad, tiles, crews. -/
def State.restoreRead (s : State) (v : Saved) : Except Cause (Team × List Crew) :=
  let t := v.team
  let base := 1024 + 98304 * t.crews
  match v.crews.mapM (s.restoreCrew v), s.saveRead v (t.scrK / 64 + 2) base (1024 * t.scrK),
      (List.range t.tiles).mapM (fun j => s.saveRead v 2 (base + 1024 * t.scrK + 16384 * j) 16384) with
  | .ok cs, .ok scr, .ok tiles => .ok ({ t with scr := scr, tile := tiles }, cs)
  | .error e, _, _ => .error e
  | _, .error e, _ => .error e
  | _, _, .error e => .error e

end Sys2Proof.Machine
end

