-- ==== Sys2Proof/Machine/Rings.lean ====
section
/-! DEFINITION. Fault domains and their rings (16 R311 to R318): delivery, claims, ends of records. -/
namespace Sys2Proof.Machine

/-! ### Records and descriptors -/

/-- DW0 to DW7 of a ring record (R314). -/
def State.recDws (s : State) (r : Rec) (fdom index : Nat) : List Nat :=
  [ r.cause.code + 2 ^ 8 * (r.sub % 256) + 2 ^ 16 * (fdom % 2 ^ 16) + 2 ^ 32 * (r.gdepth % 8) + 2 ^ 35 * ofBool r.lanes + 2 ^ 36 * ofBool r.escd
  , ctag r.serial r.crew + 2 ^ 32 * r.lmask.toNat, r.pc.toNat, r.addr.toNat, r.info % 2 ^ 32 + 2 ^ 32 * (r.ilane % 32), index % 2 ^ 64
  , r.ctx % 4096 + 2 ^ 12 * (s.coreNo r.core % 1024), 0 ]

/-- A fault-domain descriptor (R311). -/
structure FdDesc where
  valid : Bool
  esc : Bool
  parent : Nat
  log2n : Nat
  ring : Nat
deriving DecidableEq, Repr

def FdDesc.ofNat (v : Nat) : FdDesc :=
  let l := field v 32 5
  { valid := bit v 0, esc := bit v 1, parent := field v 16 16, log2n := if 4 ≤ l && l ≤ 16 then l else 4, ring := field v 64 64 }

/-- TR.FDT: enabled, and the address of a descriptor (R311, R315). -/
def Ctx.fdtOn (x : Ctx) : Bool := x.fdt.getLsbD 0
def Ctx.descVa (x : Ctx) (fdom : Nat) : Nat := 64 * field x.fdt.toNat 6 51 + 64 * (fdom % 65536)

/-- A descriptor as the command processor reads it; none when its page is not pinned (R301, R311). -/
def State.fdDesc (s : State) (core : Nat) (x : Ctx) (fdom : Nat) : Option FdDesc :=
  match s.pinned core x.abase x.secure (x.descVa fdom) .read with
  | .ok pa => some (FdDesc.ofNat (s.memRead pa 64))
  | .error _ => none

/-- A write of the command processor in a context's pinned memory; without a pinned page nothing is written (R301). -/
def State.cpPinnedWrite (s : State) (core : Nat) (x : Ctx) (va : Nat) (data : List Byte) : State :=
  s.post { place := .pinned core x.abase x.secure va none, data := data }

def State.ringOf (s : State) (ctx fdom : Nat) : Ring :=
  (s.cp.rings.find? (fun r => r.ctx == ctx && r.fdom == fdom)).getD { ctx := ctx, fdom := fdom, head := 0, tail := 0, recs := [] }

def State.setRing (s : State) (r : Ring) : State :=
  { s with cp := { s.cp with rings := r :: s.cp.rings.filter (fun x => !(x.ctx == r.ctx && x.fdom == r.fdom)) } }

/-- Whether a crew handles a record of a domain (R312); a saved crew keeps its claim. -/
def State.handling (s : State) (serial crew ctx fdom : Nat) : Bool :=
  let claims := fun (c : Crew) => c.id == crew && match c.claim with | some q => q.fdom == fdom | none => false
  s.crews.any (fun c => c.team == serial && (s.teamOf c).ctx == ctx && claims c)
    || s.saved.any (fun v => v.team.serial == serial && v.team.ctx == ctx && v.crews.any claims)

/-- The target of a record, and whether it was escalated (R312): at most 8 domains are tried. -/
def State.target (s : State) (x : Ctx) (r : Rec) : Nat → Nat → Bool → Option (Nat × FdDesc × Bool)
  | 0, _, _ => none
  | fuel + 1, d, esc =>
    match s.fdDesc r.core x d with
    | none => none
    | some e =>
      let slot := e.ring + 64 * ((s.ringOf x.id d).tail % 2 ^ e.log2n)
      let pin := match s.pinned r.core x.abase x.secure slot .write with | .ok _ => true | .error _ => false
      if !e.valid || !pin then (if e.esc then s.target x r fuel e.parent true else none)
      else if s.handling r.serial r.crew x.id d then s.target x r fuel e.parent true
      else some (d, e, esc)

/-- What the search for a record's target reads, and where the record would go, as virtual addresses (R311, R312). -/
def State.targetVas (s : State) (x : Ctx) (r : Rec) : Nat → Nat → List Nat
  | 0, _ => []
  | fuel + 1, d =>
    x.descVa d :: match s.fdDesc r.core x d with
    | none => []
    | some e =>
      let slot := e.ring + 64 * ((s.ringOf x.id d).tail % 2 ^ e.log2n)
      slot :: if e.valid && !s.handling r.serial r.crew x.id d && (s.pinned r.core x.abase x.secure slot .write).toBool then []
        else s.targetVas x r fuel e.parent

def State.recTarget (s : State) (r : Rec) : Option (Nat × FdDesc × Bool) :=
  let x := s.ctxOf r.ctx
  if x.fdtOn then s.target x r 8 r.fdom false else none

/-- The same, where the context has its table of domains. -/
def State.recVas (s : State) (r : Rec) : List Nat := let x := s.ctxOf r.ctx; if x.fdtOn then s.targetVas x r 8 r.fdom else []

/-- Whether lanes of the issue that a record names may still meet a fault: those that neither have performed nor wait for a page or for a
handler (R331, log 74). -/
def State.recOpen (s : State) (r : Rec) : Bool :=
  r.group.isSome && s.accs.any (fun a => some a.group == r.group && !a.held && !a.done)

/-- Whether a record can go on now: its instruction's lanes are settled, its ring has room or it has no target, and no line that its delivery
touches is held (R117, R300, R313, R331). -/
def State.deliverable (s : State) (r : Rec) : Bool :=
  let x := s.ctxOf r.ctx
  !s.recOpen r && !(s.recVas r).any (fun va => s.pinHeld r.core x.abase x.secure va 64 .read) && match s.recTarget r with
  | none => true
  | some (d, e, _) => let g := s.ringOf r.ctx d; decide (g.tail - g.head < 2 ^ e.log2n)

/-- INFO of a FAULT record of the journal (R313). -/
def faultInfo (r : Rec) (fdom index : Nat) : Nat :=
  r.cause.code + 2 ^ 8 * (r.sub % 256) + 2 ^ 16 * (fdom % 2 ^ 16) + 2 ^ 32 * ctag r.serial r.crew + 2 ^ 64 * (index % 2 ^ 64)

/-- The node of a team, for the journal. -/
def State.nodeOfTeam (s : State) (serial : Nat) : Nat :=
  match s.findTeam serial with
  | some t => t.node
  | none => match s.saved.find? (fun v => v.team.serial == serial) with | some v => v.team.node | none => 0

/-- A record that finds no target ends the innermost gate call, or kills the team (R312). -/
def State.noTarget (s : State) (r : Rec) : State :=
  match s.crewAt r.serial r.crew with
  | some k => if r.gdepth ≥ 1 then s.dispose k r.rid 3 r.page r.cause.code else s.killSerial r.serial
  | none =>
    match s.saved.find? (fun v => v.team.serial == r.serial) with
    | some v => if r.gdepth ≥ 1 then s.recordAct v (.eret r.crew r.rid 3 r.page r.cause.code) else s.killSerial r.serial
    | none => s

/-- A record of a team in a dump is entered in the header in the order of delivery (R351, R352). -/
def State.tellDump (s : State) (r : Rec) (fdom index : Nat) : State :=
  let d := s.debugOf r.core
  if d.events.any (fun x => x.rid == r.rid) then
    s.setDebug { d with events := d.events.filter (fun x => x.rid != r.rid), told := d.told ++ [(r, fdom, index)] }
  else s

/-- Deliver one record: its 64 bytes, then HEAD and TAIL of the descriptor (R311 to R313). -/
def State.deliver (s : State) (r : Rec) : State :=
  let s := { s with cp := { s.cp with faultQ := s.cp.faultQ.filter (· != r) } }
  let x := s.ctxOf r.ctx
  let s := s.engineUse r.core x.abase x.secure (s.recVas r)
  match s.recTarget r with
  | none => ((s.tellDump r 0xFFFF 0).journal 0x05 0 r.ctx (s.nodeOfTeam r.serial) (faultInfo r 0xFFFF 0)).noTarget r
  | some (d, e, esc) =>
    let r := { r with escd := esc }
    let g := s.ringOf r.ctx d
    let s := s.tellDump r d g.tail
    let s := s.cpPinnedWrite r.core x (e.ring + 64 * (g.tail % 2 ^ e.log2n)) ((s.recDws r d g.tail).flatMap (toBytes 8))
    let s := s.cpPinnedWrite r.core x (x.descVa d + 16) (toBytes 8 g.head ++ toBytes 8 (g.tail + 1))
    let s := s.setRing { g with tail := g.tail + 1, recs := g.recs ++ [{ index := g.tail, fault := r, claimed := false, ended := false }] }
    s.journal 0x05 0 r.ctx (s.nodeOfTeam r.serial) (faultInfo r d g.tail)

/-- Whether the command processor runs: not failed (R329), and not stopped in CALM (R379). -/
def State.cpRuns (s : State) : Bool := !s.cp.failed && s.host.cur != .calm

/-- FAULT_RECORD_DELIVERY: the oldest record that can go on, once the journal has room (R312, R313). -/
def execFaultRecordDelivery (s : State) : Out :=
  match s.cp.faultQ.find? s.deliverable with
  | none => .next s
  | some r => if s.journalRoom && s.cpRuns then .next (s.deliver r) else .next s

/-! ### Claims -/

/-- SRD of TR.NEXT (R316): the oldest record of the domain in force that is neither claimed nor ended, as index + 1. -/
def State.claimNext (s : State) (k : Nat) : Nat × State :=
  match s.crew? k with
  | none => (0, s)
  | some c =>
    let ctx := (s.teamOf c).ctx
    let g := s.ringOf ctx c.fdom
    if c.claim.isSome then (0, s)
    else
      match g.recs.find? (fun x => !x.claimed && !x.ended) with
      | none => (0, s)
      | some x =>
        let dws := (s.recDws x.fault c.fdom x.index).map (BitVec.ofNat 64)
        let s := s.setRing { g with recs := g.recs.map (fun (y : RingRec) => if y.index == x.index then { y with claimed := true } else y) }
        ((x.index + 1) % 2 ^ 32, s.modCrew k (fun c => { c with claim := some { fdom := c.fdom, index := x.index, rid := x.fault.rid, dws := dws } }))

/-- TR_NEXT: the claim that a read of TR.NEXT makes for a crew (R316). -/
def execTrNext (team crew : Nat) (s : State) : Out :=
  match s.crewAt team crew with
  | none => .next s
  | some k =>
    match s.crew? k with
    | none => .next s
    | some c => if (s.teamOf c).level == 0 then .next s else .next (s.claimNext k).2

/-- HEAD rises past ended records in ring order (R317). -/
def raiseHead : Nat → List RingRec → Nat × List RingRec
  | h, [] => (h, [])
  | h, x :: l => if x.ended && x.index == h then raiseHead (h + 1) l else (h, x :: l)

/-- HEAD of every ring stands past its ended records, in the ring and in its descriptor,
whose HEAD and TAIL are written after each change (R311, R317). -/
def State.raiseHeads (s : State) : State :=
  s.cp.rings.foldl (fun s g =>
    let h := raiseHead g.head g.recs
    if h.1 == g.head then s
    else
      let x := s.ctxOf g.ctx
      (s.setRing { g with head := h.1, recs := h.2 }).cpPinnedWrite 0 x (x.descVa g.fdom + 16) (toBytes 8 h.1 ++ toBytes 8 g.tail)) s

/-- End the record that a crew claims (R317). -/
def State.endClaim (s : State) (k : Nat) (ctx : Nat) (q : Claim) : State :=
  let g := s.ringOf ctx q.fdom
  let s := s.setRing { g with recs := g.recs.map (fun (y : RingRec) => if y.index == q.index then { y with ended := true } else y) }
  (s.modCrew k (fun c => { c with claim := none })).raiseHeads

end Sys2Proof.Machine
end

