-- ==== Sys2Proof/Machine/Privileged.lean ====
section
/-! DEFINITION. The privileged instructions (13 R246 to R269) and the events that end their drains (95). -/
namespace Sys2Proof.Machine

/-! ### Issue -/

/-- What a privileged instruction comes to once its operands are read. -/
inductive Priv (α : Type)
  | stall (why : Why)
  | miss (va : Nat)
  | fault (c : Cause) (sub addr : Nat)
  | page (va addr : Nat)
  | ok (x : α)

def Priv.bind {α β : Type} (p : Priv α) (f : α → Priv β) : Priv β :=
  match p with
  | .stall w => .stall w
  | .miss v => .miss v
  | .fault c u a => .fault c u a
  | .page v a => .page v a
  | .ok x => f x

/-- PRIV_OP for the whole bundle (R135, R247). -/
def privTrap (iss : Issue) : Stop := .trap { cause := .privOp, lmask := iss.mask, pc := iss.pc }

/-- Whether every earlier instruction of a crew has completed (R256). -/
def State.crewIdle (s : State) (c : Crew) : Bool :=
  !(s.accs.any (fun a => a.serial == c.team && a.crew == c.id)) && !(s.accq.any (fun e => e.serial == c.team && e.crew == c.id))

/-- Issue a serialising privileged instruction once for its bundle, from the lowest lane whose guard is true, as a FENCE both at its
scope (R256). That lane alone supplies and releases the operands (DESIGN CHOICE, log 105); an odd pair in any lane that executes is ILLEGAL (R45). What `act`
answers is applied when the bundle has gone on; `used` is what the reads of memory that it makes do beside their data. -/
def runPriv (h : Hdr) (srcs : List (Use × Src)) (len level scope : Nat) (act : State → Crew → Issue → Nat → List Nat → Priv (State → State))
    (s : State) (used : State → Crew → Nat → List Nat → State := fun s _ _ _ => s) : Out :=
  match s.cur with
  | none => .next s
  | some iss =>
    match s.crew? iss.crew with
    | none => .next s
    | some c =>
      let em := guardMask c iss.mask h
      let next := fun (_ : Nat) (t : Thread) => t.pc + BitVec.ofNat 64 len
      if oddAt c em srcs 255 1 false then .next (s.stopped iss.crew iss (illegalTrap iss.mask iss.pc 6))
      else if (s.teamOf c).level < level then .next (s.stopped iss.crew iss (privTrap iss))
      else
        match (lanesOf em).head? with
        | none => .next (s.modCrew iss.crew (fun c => c.advance iss.mask s.cycle next))
        | some l =>
          let m1 : Mask := maskOf [l]
          let kept := fun (s : State) => s.modCrew iss.crew (fun _ => c.logLanes s c iss.mask m1 (fun _ => srcs))
          if !s.crewIdle c then .next (s.stopped iss.crew iss (.stall .serial))
          else
            match operandCheck s c iss.mask m1 m1 iss.pc srcs 255 1 false with
            | some x => .next (s.stopped iss.crew iss x)
            | none =>
              if boundLanes c m1 srcs 255 1 != 0 then
                .next ((kept s).stopped iss.crew iss (.trap { cause := .indexBound, lmask := m1, pc := iss.pc }))
              else
                let rd := readLane s c iss.mask srcs l
                match act s c iss l rd.vals with
                | .stall w => .next (s.stopped iss.crew iss (.stall w))
                | .miss v => .next ((s.lookup c v).stopped iss.crew iss (.stall .xlate))
                | .fault k sub a => .next (kept ((if k == .poison then used s c l rd.vals else s).dropFailed c) |>.stopped iss.crew iss
                    (.trap { cause := k, sub := sub, lmask := m1, pc := iss.pc, addr := a }))
                | .page va a =>
                  let s := (s.dropFailed c).modCrew iss.crew (fun c => c.modLanes iss.mask (fun _ t =>
                    { t with st := .stalled, why := .page, page := va }))
                  .next (s.pageRecords c iss.pc [(l, va, a)])
                | .ok f =>
                  if scope ≥ 3 && s.pushHeld (dieOf c.core) (fun _ => true) then .next (s.stopped iss.crew iss (.stall .serial)) else
                  let c1 := (releaseAll iss.mask m1 false srcs c).modLanes m1 (fun _ t => t.raise (readFlags rd))
                  let s1 := (used s c l rd.vals).modCrew iss.crew (fun _ => c1.advance iss.mask s.cycle next)
                  .next (f (if scope ≥ 3 then s1.pushDie (dieOf c.core) else s1))

/-- Begin an operation that the issuer's crew waits for (R256); other crews that it stops are given by position. -/
def State.drain (s : State) (k : Nat) (kind : DrainKind) (others : List Nat) : State :=
  match s.crew? k with
  | none => s
  | some c =>
    let (id, s) := s.fresh
    let s := { s with drains := s.drains ++ [{ id := id, ctx := (s.teamOf c).ctx, serial := c.team, crew := c.id, kind := kind }] }
    ((k :: others).eraseDups).foldl (fun s j => s.modCrew j (fun c => { c with busy := c.busy ++ [id] })) s

/-- An operation is over: its crews go on. -/
def State.endDrain (s : State) (id : Nat) : State :=
  { s with drains := s.drains.filter (fun d => d.id != id), crews := s.crews.map (fun (c : Crew) => { c with busy := c.busy.filter (· != id) }) }

/-! ### Special registers -/

def State.partOf (s : State) (ctx : Nat) : Option Part := s.pkg.parts.find? (fun p => p.num == (s.ctxOf ctx).part)

/-- Physical dies of a partition, and its logical dies (R250, R345). -/
def Part.holds (p : Part) (phys : Nat) : Bool := p.first ≤ phys && phys < p.first + 2 ^ p.log2
def State.partDies (s : State) (p : Part) : List Nat := (s.pkg.dies.filter (fun d => p.holds d.phys)).filterMap (·.log)

/-- The value of a special register, but for TR.NEXT (R252, R253, R315). -/
def State.specialReg (s : State) (c : Crew) (n : Nat) : Nat :=
  let t := s.teamOf c
  let x := s.ctxOf t.ctx
  match n with
  | 0x000 => t.level + 4 * ofBool c.secure
  | 0x001 => t.ctx
  | 0x002 => c.asid
  | 0x003 => c.gdepth
  | 0x010 => x.ways (dieOf c.core)
  | 0x011 => x.seed.toNat
  | 0x012 => x.wayq.toNat
  | 0x013 => x.htab.toNat
  | 0x014 => x.asids.toNat
  | 0x020 => t.rcbVa
  | 0x021 => c.fdom
  | 0x022 => ctag c.team c.id
  | 0x030 => match s.partOf t.ctx with
    | some p => ((s.partDies p).foldl Nat.min 15) % 16 + 16 * p.log2 + 256 * p.num
    | none => 0
  | 0x031 => (s.pkg.dies.filterMap (fun d => d.log.map (fun k => 4 ^ k * d.cls))).sum
  | 0x100 => x.fdt.toNat
  | 0x102 => match c.claim with | some q => (q.index + 1) % 2 ^ 32 | none => 0
  | n => match c.claim with | some q => ((q.dws[n - 0x110]?).getD 0).toNat | none => 0

/-- The level that a read of a special register needs (R252). -/
def srLevel (n : Nat) : Nat := if [0x000, 0x001, 0x003, 0x010, 0x012].contains n then 0 else 1

/-- SRD as a lane instruction: every lane gets the value (R257). -/
def srdOp (f : F96I) (v : Nat) : LaneOp :=
  { h := f.h, srcs := [], k := if bit f.mod.toNat 0 then 2 else 1, len := 12, f := fun _ _ => (v, 0) }

/-- SRD (R252, R257, R316). -/
def execSrd (f : F96I) (s : State) : Out :=
  match s.cur with
  | none => .next s
  | some iss =>
    match s.crew? iss.crew with
    | none => .next s
    | some c =>
      let n := field f.imm.toNat 0 16
      let em := guardMask c iss.mask f.h
      let d := f.h.dst.toNat
      if (s.teamOf c).level < srLevel n && !oddAt c em [] d (regsOf (bit f.mod.toNat 0)) (bit f.mod.toNat 0) then .next (s.stopped iss.crew iss (privTrap iss))
      else if n == 0x101 then
        let two := bit f.mod.toNat 0
        let goes := (em &&& ~~~boundLanes c em [] d (regsOf two)) != 0 && (operandCheck s c iss.mask em em iss.pc [] d (regsOf two) two).isNone
          && (!isCreg d || (collective c iss.mask em iss.pc true).isNone)
        let r := if goes then s.claimNext iss.crew else (0, s)
        runLane (srdOp f r.1) r.2
      else runLane (srdOp f (s.specialReg c n)) s

/-- SWR (R252, R253, R257). CTX.HTAB is written after a drain of the handles. -/
def execSwr (f : F96I) (s : State) : Out :=
  let n := field f.imm.toNat 0 16
  runPriv f.h [(useW (bit f.mod.toNat 0), f.s1)] 12 (if n == 0x013 || n == 0x014 then 2 else 1) 0 (fun s c iss _ v =>
    let ctx := (s.teamOf c).ctx
    let v := val v 0
    .ok (fun s => match n with
      | 0x012 => s.modCtx ctx (fun x => { x with wayq := BitVec.ofNat 32 (v % 65536) })
      | 0x013 => s.drain iss.crew (.htab (BitVec.ofNat 64 (v % 2 ^ 63))) []
      | 0x014 => s.modCtx ctx (fun x => { x with asids := BitVec.ofNat 32 v })
      | 0x100 => s.modCtx ctx (fun x => { x with fdt := BitVec.ofNat 64 v })
      | _ => s)) s

/-! ### TLB invalidation -/

/-- Whether a TLB entry is one that an invalidation names (R258). -/
def Leaf.hit (first count : Nat) (va : Option Nat) (l : Leaf) : Bool :=
  first ≤ l.asid && l.asid < first + count && match va with | some a => l.va ≤ a && a < l.va + l.size | none => true

/-- Whether a core's TLB, or a die's, lies in the unit of a core at a scope (R1, R258). -/
def State.coreIn (s : State) (core scope k : Nat) : Bool := s.unitOf scope k == s.unitOf scope core
def State.dieIn (s : State) (core scope d : Nat) : Bool :=
  decide (scope ≥ 2) && s.unitOf scope (d * Config.coresPerDie) == s.unitOf scope core

/-- Whether a lookup that has failed is one that an invalidation takes back: one of its ASIDs, within the largest page that could hold its
address (R258, R307). -/
def Lookup.stale (first count : Nat) (va : Option Nat) (q : Lookup) : Bool :=
  q.failed.isSome && first ≤ q.asid && q.asid < first + count && match va with | some a => a / 2 ^ 31 == q.va / 2 ^ 31 | none => true

/-- Remove the entries that an invalidation names, the proposals of the predictor for its page, and faults that lookups returned before it
(R258, R307). -/
def State.tlbRemove (s : State) (first count : Nat) (va : Option Nat) (core scope : Nat) : State :=
  let hit := Leaf.hit first count va
  { s with store := { s.store with
      coreTlb := s.store.coreTlb.filter (fun e => !(s.coreIn core scope e.1 && hit e.2))
      llTlb := s.store.llTlb.filter (fun e => !(s.dieIn core scope e.1 && hit e.2))
      lookups := (s.store.lookups.filter (fun q => !(s.coreIn core scope q.core && q.stale first count va))).map (fun (q : Lookup) => match q.guess with
        | some g => if s.coreIn core scope q.core && hit g then { q with guess := none } else q
        | none => q) } }

/-- The entries that an invalidation removes, and the proposals that it takes back. -/
def State.tlbLost (s : State) (first count : Nat) (va : Option Nat) (core scope : Nat) : List Leaf :=
  ((s.store.coreTlb.filter (fun e => s.coreIn core scope e.1)).map (·.2) ++ (s.store.llTlb.filter (fun e => s.dieIn core scope e.1)).map (·.2)
    ++ s.store.lookups.filterMap (fun q => if s.coreIn core scope q.core then q.guess else none)).filter (Leaf.hit first count va)

/-- The ASID under which an access was issued: that in force at its gate depth. -/
def State.accAsid (s : State) (a : Acc) : Option Nat :=
  ((s.crewAt a.serial a.crew).bind s.crew?).map (fun c =>
    if a.gdepth < c.gdepth then ((c.frames[c.gdepth - 1 - a.gdepth]?).map (·.asid)).getD c.asid else c.asid)

/-- What an invalidation waits for: accesses, writes of accumulator entries, destinations of copies and images of dictionary loads that were
translated through an entry that it removes, or predicted from the state that it clears (R258). -/
def State.tlbUsers (s : State) (ctx first count : Nat) (va : Option Nat) (core scope : Nat) : List Nat :=
  let lost := s.tlbLost first count va core scope
  let hits := fun (asid : Option Nat) (v n : Nat) => lost.any (fun l => (match asid with | some k => l.asid == k | none => true)
    && decide (l.va < v + n) && decide (v < l.va + l.size))
  let here := fun (c k : Nat) => c == ctx && s.coreIn core scope k
  (s.accs.filter (fun a => here a.ctx a.core && !a.phys
      && a.foot.any (fun x => match x.1 with | .va v => hits (s.accAsid a) v x.2 | .loc _ => false))).map (·.id)
    ++ (s.copies.filter (fun c => here c.ctx c.core && c.moves.any (fun m => !m.done && m.dsts.any (fun p => match p with
      | .at (.phys _) => hits (some c.asid) (m.addr % 2 ^ 57) 8
      | _ => false)))).map (·.id)
    ++ (s.dictlds.filter (fun x => here x.ctx x.core && hits none x.addr 1024)).map (·.id)

/-- The lanes of a crew that wait for a MEM word translated under an ASID that an invalidation names, within the largest page that could hold its
address (R258). -/
def State.waitStale (s : State) (first count : Nat) (va : Option Nat) (core scope : Nat) (c : Crew) : Mask :=
  let stale := fun (l : Nat) (p : Pending) => p.conds.any (fun x => match x with | .mem _ _ _ => true | _ => false)
    && match va, decodeAddr p.addr with
      | some a, .ok (sp, o) => (footVas (s.footOf c l sp (o : Int) p.msz)).any (fun v => v / 2 ^ 31 == a / 2 ^ 31)
      | _, _ => true
  if s.coreIn core scope c.core && decide (first ≤ c.asid) && decide (c.asid < first + count) then
    maskOf ((List.range 32).filter (fun l =>
      let t := c.thread l
      (t.st == .waiting || t.st == .parked && t.back == .waiting) && match t.wait with | some p => stale l p | none => false))
  else 0

/-- Waits whose MEM word was translated through what an invalidation removes are squashed: their lanes issue the WAIT again from their values,
its time-out counting on (R258; log 125). -/
def State.waitsAgain (s : State) (first count : Nat) (va : Option Nat) (core scope : Nat) : State :=
  { s with crews := s.crews.map (fun (c : Crew) =>
      let m := s.waitStale first count va core scope c
      if m == 0 then c
      else
        let run := lanesIf m (fun l => (c.thread l).st == .waiting)
        (c.modLanes m (fun _ t => { t with
          back := .ready, relog := t.wait.map (·.vals), gaps := []
          wait := t.wait.map (fun p => { p with conds := p.conds.filter Cond.isTime, creg := none, dst := 255 }) })).wake run) }

/-- An invalidation (R258). -/
def State.tlbBegin (s : State) (k ctx first count : Nat) (va : Option Nat) (core scope : Nat) : State :=
  ((s.tlbRemove first count va core scope).waitsAgain first count va core scope).drain k (.tlb first count va core scope (s.tlbUsers ctx first count va core scope)) []

/-- An invalidation with its ASIDs, once they are known to be the context's (R258). -/
def tlbAct (scope : Nat) (s : State) (c : Crew) (iss : Issue) (first count : Nat) (va : Option Nat) : Priv (State → State) :=
  let x := s.ctxOf (s.teamOf c).ctx
  let lo := x.abase
  let n := field x.asids.toNat 16 16
  if count == 1 && !(lo ≤ first && first < lo + n) then .fault .privDomain 0 0
  else .ok (fun s => s.tlbBegin iss.crew (s.teamOf c).ctx first count va c.core scope)

/-- TLBINV (R258). -/
def execTlbinv (f : F64) (s : State) : Out :=
  let scope := field f.mod.toNat 0 3
  runPriv f.h [(.w64, f.s1), (.w32, f.s2)] 8 1 scope (fun s c iss _ v =>
    tlbAct scope s c iss (val v 1 % 65536) 1 (some (val v 0 % 2 ^ 57))) s

/-- TLBINVA (R258). -/
def execTlbinva (f : F64) (s : State) : Out :=
  let scope := field f.mod.toNat 0 3
  let all := bit f.mod.toNat 3
  runPriv f.h (if all then [] else [(.w32, f.s1)]) 8 1 scope (fun s c iss _ v =>
    if all then
      let x := s.ctxOf (s.teamOf c).ctx
      .ok (fun s => s.tlbBegin iss.crew (s.teamOf c).ctx x.abase (field x.asids.toNat 16 16) none c.core scope)
    else tlbAct scope s c iss (val v 0 % 65536) 1 none) s

/-- Whether what an invalidation waits for has been performed or squashed (R258): an access that waits for its page or for a handler has been
squashed, and looks its page up again. -/
def State.tlbSettled (s : State) (ids : List Nat) : Bool :=
  !(s.accs.any (fun a => ids.contains a.id && match a.hold with | .none => !a.units.isEmpty | .clock => true | .tile => true | .predict => true | _ => false)
    || s.copies.any (fun c => ids.contains c.id && c.moves.any (fun m => !m.done))
    || s.dictlds.any (fun x => ids.contains x.id && x.failed.isNone))

/-- TLB_ACKNOWLEDGEMENT: the targeted TLBs have acknowledged, every access translated through an entry that is gone is performed, and a fill that
came in between is removed; what that fill translated is awaited in its turn (R258, R269). -/
def execTlbAcknowledgement (id : Nat) (s : State) : Out :=
  match s.drains.find? (fun d => d.id == id) with
  | none => .next s
  | some d =>
    match d.kind with
    | .tlb first count va core scope ids =>
      if !s.tlbSettled ids then .next s
      else
        let more := s.tlbUsers d.ctx first count va core scope
        let s1 := (s.tlbRemove first count va core scope).waitsAgain first count va core scope
        if s.tlbSettled more then .next (s1.endDrain id)
        else .next { s1 with drains := s1.drains.map (fun e => if e.id == id then { e with kind := .tlb first count va core scope more } else e) }
    | _ => .next s

/-! ### Authority and crew control -/

/-- R255: whether a crew may act on a crew of a team whose fault domain in force is given. Fault domains are the context's own. -/
def State.authority (s : State) (c : Crew) (t : Team) (fdom : Nat) : Bool :=
  let me := s.teamOf c
  me.level == 2 || (me.ctx == t.ctx && (c.gdepth == 0 && (t.rcb == me.rcb || t.path.contains me.rcb) || c.fdom == fdom))

/-- What a CTAG names (R254, R259): crews of a resident team by position, or of a saved one, or nothing. -/
inductive Target
  | none
  | resident (t : Team) (ks : List Nat)
  | saved (v : Saved) (crews : List Nat)

def State.tagTarget (s : State) (v : Nat) (all : Bool) : Target :=
  let serial := field v 4 24
  let crew := v % 16
  if v ≥ 2 ^ 28 || all && crew != 0 then .none
  else
    match s.findTeam serial with
    | some t =>
      if t.ended || !all && crew ≥ t.crews then .none
      else
        .resident t ((List.range s.crews.length).filter (fun k => match s.crew? k with
          | some c => c.team == serial && (all || c.id == crew)
          | none => false))
    | none =>
      match s.saved.find? (fun x => x.team.serial == serial) with
      | some x => if !all && crew ≥ x.team.crews then .none else .saved x (if all then List.range x.team.crews else [crew])
      | none => .none

/-- Authority over every crew of a target. -/
def State.tagAuthority (s : State) (c : Crew) (x : Target) : Bool :=
  match x with
  | .none => true
  | .resident t ks => ks.all (fun k => match s.crew? k with | some d => s.authority c t d.fdom | none => true)
  | .saved v crews => crews.all (fun n => match v.crews.find? (fun d => d.id == n) with | some d => s.authority c v.team d.fdom | none => true)

/-- Whether PARKs in progress lead from one crew to another: the one has issued a PARK of the other, or of a crew from which they lead there. -/
def State.parksLead (s : State) : Nat → Nat × Nat → Nat × Nat → Bool
  | 0, x, y => x == y
  | n + 1, x, y => x == y || s.drains.any (fun e => (e.serial, e.crew) == x && match e.kind with
    | .park serial crew => s.parksLead n (serial, crew) y
    | _ => false)

/-- Whether every instruction that a crew has issued has completed (R259): its accesses but those that a fault keeps, which are issued again by
the handler's ERET, its accumulator entries, what its system instructions drain, its PARKs of other crews. PARKs that go round in a circle do
not wait for one another (log 63). -/
def State.crewDone (s : State) (serial crew : Nat) : Bool :=
  !(s.accs.any (fun a => a.serial == serial && a.crew == crew && match a.hold with | .fault _ => false | _ => true)
    || s.accq.any (fun e => e.serial == serial && e.crew == crew && e.granted)
    || s.drains.any (fun e => e.serial == serial && e.crew == crew && match e.kind with
      | .park serial' crew' => !s.parksLead s.drains.length (serial', crew') (serial, crew)
      | _ => true))

/-- Each PARK in progress whose crew has completed what it issued takes effect (R259). -/
def State.parkPass (s : State) : State :=
  s.drains.foldl (fun s d => match d.kind with
    | .park serial crew =>
      (match s.crewAt serial crew with
      | none => s.endDrain d.id
      | some k =>
        if s.crewDone serial crew then (s.parkCrew k .park).endDrain d.id else s)
    | _ => s) s

/-- Parks whose crews have completed what they issued take effect, and those that waited for these (R259). -/
def State.settleParks (s : State) : State := s.drains.foldl (fun s _ => s.parkPass) s

/-- PARK (R259): each crew completes what it has issued and is then parked. -/
def execPark (f : F64) (s : State) : Out :=
  runPriv f.h [(.w32, f.s1)] 8 1 0 (fun s c iss _ v =>
    let x := s.tagTarget (val v 0) (bit f.mod.toNat 0)
    if !s.tagAuthority c x then .fault .privDomain 0 0
    else .ok (fun s => match x with
      | .none => s
      | .resident _ ks =>
        (ks.foldl (fun s k => match s.crew? k with | some d => s.drain iss.crew (.park d.team d.id) [k] | none => s) s).settleParks
      | .saved v crews => crews.foldl (fun s n => match s.saved.find? (fun x => x.team.serial == v.team.serial) with
        | some v => s.recordAct v (.park n)
        | none => s) s)) s

/-- A RESUME of a crew: its PARK and DEBUG_STOP causes go, and a PARK that has not come about yet with them (R259, R269). -/
def State.resumeCrew (s : State) (k : Nat) : State :=
  match s.crew? k with
  | none => s
  | some c =>
    let s := s.drains.foldl (fun s d => match d.kind with
      | .park serial crew => if serial == c.team && crew == c.id then s.endDrain d.id else s
      | _ => s) s
    s.modCrew k (fun c => c.clearCauses allLanes ParkCause.resumed)

/-- The actions recorded for a team, applied to its crews in order (R259, R291): a PARK takes effect when what the
crew has still to complete, such as accesses that wait for a page, is complete. -/
def State.applyActs (s : State) (serial : Nat) (acts : List SaveAct) : State :=
  let on := fun (s : State) (crew : Nat) (f : Nat → State) => match s.crewAt serial crew with | some k => f k | none => s
  acts.foldl (fun s a => match a with
    | .park c => on s c (fun k => s.drain k (.park serial c) [])
    | .resume c => on s c s.resumeCrew
    | .eret c rid d page cause => on s c (fun k => s.dispose k rid d page cause)
    | .kill c => on s c (fun k => s.killCrew k)
    | .killGate c cause => on s c (fun k => s.endGate k cause)
    | .killAll => s.killTeam serial) s

/-- RESUME (R259). -/
def execResume (f : F64) (s : State) : Out :=
  runPriv f.h [(.w32, f.s1)] 8 1 0 (fun s c _ _ v =>
    let x := s.tagTarget (val v 0) (bit f.mod.toNat 0)
    if !s.tagAuthority c x then .fault .privDomain 0 0
    else .ok (fun s => match x with
      | .none => s
      | .resident _ ks => ks.foldl State.resumeCrew s
      | .saved v crews => crews.foldl (fun s n => match s.saved.find? (fun x => x.team.serial == v.team.serial) with
        | some v => s.recordAct v (.resume n)
        | none => s) s)) s

/-- KILL of one crew, wherever its team is; while the team is being saved it is applied when the save is done (R259, R269). -/
def State.killOne (s : State) (serial crew : Nat) : State :=
  match s.saved.find? (fun v => v.team.serial == serial) with
  | some v => s.recordAct v (.kill crew)
  | none => match s.crewAt serial crew with | some k => s.killNow k | none => s

/-- The fault domain in force in a crew's innermost call, which may end it (R259, R170), at gate depth 1 or more. -/
def State.killGateFault (s : State) (c : Crew) (d : Crew) : Option Cause :=
  if d.frames.isEmpty then some .gretEmpty
  else if (s.teamOf c).level == 2 || c.fdom == d.fdom then none
  else some .privDomain

/-- A saved crew as the ends of gate calls recorded for it leave it (R259). -/
def Saved.ahead (v : Saved) (d : Crew) : Crew :=
  let n := (v.acts.filter (fun a => match a with | .killGate k _ => k == d.id | .eret k _ 3 _ _ => k == d.id | _ => false)).length
  match (d.frames.take n).getLast? with
  | some f => { d with frames := d.frames.drop n, fdom := f.fdom }
  | none => d

/-- KILL and KILL `.gate` (R259). -/
def execKill (f : F64) (s : State) : Out :=
  let all := bit f.mod.toNat 0
  let gate := bit f.mod.toNat 1
  runPriv f.h ((.w32, f.s1) :: if gate then [(.w32, f.s2)] else []) 8 1 0 (fun s c _ _ v =>
    let x := s.tagTarget (val v 0) all
    let cause := val v 1 % 65536
    if !s.tagAuthority c x then .fault .privDomain 0 0
    else
      match x with
      | .none => .ok id
      | .resident t ks =>
        if gate then
          match ks.findSome? (fun k => (s.crew? k).bind (s.killGateFault c)) with
          | some e => .fault e 0 0
          | none => .ok (fun s => ks.foldl (fun s k => s.gateNow k cause) s)
        else if all then .ok (fun s => s.killSerial t.serial)
        else .ok (fun s => s.killOne t.serial (val v 0 % 16))
      | .saved w crews =>
        if gate then
          match w.crews.findSome? (fun d => if crews.contains d.id then s.killGateFault c (w.ahead d) else none) with
          | some e => .fault e 0 0
          | none => .ok (fun s => crews.foldl (fun s n => match s.saved.find? (fun x => x.team.serial == w.team.serial) with
            | some w => s.recordAct w (.killGate n cause)
            | none => s) s)
        else if all then .ok (fun s => s.killSerial w.team.serial)
        else .ok (fun s => s.killOne w.team.serial (val v 0 % 16))) s

/-! ### Save and restore -/

/-- Give a batch operation to the open batch of a lane (R260, R261). -/
def State.openOp (s : State) (k l id : Nat) : State := s.modThread k l (fun t => { t with openOps := t.openOps ++ [id] })

/-- CTXSAVE (R260). The teams of a cohort lie one area after another, by teamid (log 16). -/
def execCtxsave (f : F64) (s : State) : Out :=
  runPriv f.h [(.w32, f.s1), (.w64, f.s2)] 8 1 0 (fun s c iss l v =>
    let serial := val v 0 % 2 ^ 24
    let addr := val v 1
    let there := match s.findTeam serial with | some t => if t.ended || s.saving serial then none else some t | none => none
    match there with
    | none =>
      let w : Saved := { team := s.teamOf c, crews := [], accs := [], addr := addr, asid := c.asid, secure := c.secure, status := 0, acts := [], op := none }
      .ok (fun s => s.saveStatus w 3)
    | some t =>
      let g := inOrder (fun a b => decide (a.teamid ≤ b.teamid)) ((s.cohortOf t).filter (fun u => !u.ended && !s.saving u.serial))
      let crews := fun (u : Team) => (List.range s.crews.length).filter (fun k => match s.crew? k with | some d => d.team == u.serial | none => false)
      if !(t :: g).all (fun u => s.tagAuthority c (.resident u (crews u))) then .fault .privDomain 0 0
      else
        .ok (fun s => (g.zipIdx).foldl (fun s p =>
          let (op, s) := s.fresh
          (s.startSave p.1 (addr + saveSize t * p.2) c.asid c.secure (some op)).openOp iss.crew l op) s)) s

/-- CTXREST (R261): an area whose status is not 1 has no effect. -/
def execCtxrest (f : F64) (s : State) : Out :=
  runPriv f.h [(.w64, f.s1)] 8 1 0 (fun s c iss l v =>
    let w : Saved := { team := s.teamOf c, crews := [], accs := [], addr := val v 0, asid := c.asid, secure := c.secure, status := 1, acts := [], op := none }
    if s.areaHeld w 12 .read || s.store.posted.any (fun p => match p.place with | .pinned _ asid _ va _ => asid == w.asid && va / 1024 == w.addr / 1024 | _ => false)
    then .stall .serial else
    .ok (fun s =>
      let s := s.areaUse w 12 .read
      match s.saveRead w 2 0 12 with
      | .error _ => s
      | .ok m =>
        if m.readN 0 4 != 1 then s
        else
          match s.saved.find? (fun x => x.team.serial == m.readN 8 3 && x.status == 1) with
          | none => s
          | some x =>
            let (op, s) := s.fresh
            let s := s.opFinish x.op
            let s := { s with saved := s.saved.map (fun (y : Saved) => if y.team.serial == x.team.serial
              then { y with addr := val v 0, asid := c.asid, secure := c.secure, op := some op } else y) }
            s.openOp iss.crew l op)) s

/-! ### SPLIT and SEEDSET -/

/-- Whether a context's crews on a core may not issue: a change of its split is under way on the die, or of its seed (R92, R103). -/
def State.issueStopped (s : State) (ctx core : Nat) : Bool :=
  s.drains.any (fun d => d.ctx == ctx && s.firstSplit d && match d.kind with
    | .split _ (k :: _) => k == dieOf core
    | .seed _ => true
    | _ => false)

/-- SPLIT (R262): values 13 to 15 are discarded (R90). -/
def execSplit (f : F64) (s : State) : Out :=
  runPriv f.h [(.w32, f.s1), (.w32, f.s2)] 8 1 0 (fun s c iss _ v =>
    let t := s.teamOf c
    let w := val v 0 % 16
    let m := val v 1 % 65536
    let dies := if m == 0 then [dieOf c.core] else (List.range 16).filter (bit m)
    let mine := match s.partOf t.ctx with | some p => s.partDies p | none => []
    if dies.any (fun d => !mine.contains d) then .fault .splitDenied 0 0
    else if w < 13 && s.teams.any (fun u => u.ctx == t.ctx && !u.ended && dies.contains (dieOf u.core) && u.dscrK * 1024 > w * 2 ^ 25) then
      .fault .splitDenied 0 0
    else .ok (fun s => if w ≥ 13 then s else s.drain iss.crew (.split w dies) [])) s

/-- SEEDSET (R263). -/
def execSeedset (f : F64) (s : State) : Out :=
  runPriv f.h [(.w32, f.s1)] 8 1 0 (fun _ _ iss _ v => .ok (fun s => s.drain iss.crew (.seed (BitVec.ofNat 32 (val v 0))) [])) s

/-- Whether a copy still has to write die scratch of a context on a die at or above an offset. -/
def Copy.dscrAbove (c : Copy) (ctx die off : Nat) : Bool :=
  c.ctx == ctx && (c.elem.isSome && c.fields.dk == 3 && dieOf c.core == die
    || c.moves.any (fun m => !m.done && m.dsts.any (fun d => match d with
      | .at (.dscr x y o) => x == ctx && y == die && decide (o ≥ off)
      | _ => false)))

/-- Whether every operation has completed that touches ways of a die that a split takes from die scratch: copies, accumulator entries, accesses
that were issued before (R92). -/
def State.splitClear (s : State) (ctx die w : Nat) : Bool :=
  let off := w * 2 ^ 25
  !(s.copies.any (fun c => c.dscrAbove ctx die off)
    || s.accs.any (fun a => !a.held && a.units.any (fun u => !u.done && match u.loc with
      | .dscr x y o => x == ctx && y == die && decide (o ≥ off)
      | _ => false)))

/-- The new split on one die (R92): scratch ways that become cache lose their contents, and new ones read as zero; the lines in ways that become
scratch are written back and leave (R91). -/
def State.splitDie (s : State) (ctx die w : Nat) : State :=
  let x := s.dscrOf ctx die
  let keep := Nat.min w ((s.ctxOf ctx).ways die) * 2 ^ 25
  let s := s.setDscr { x with
    mem := x.mem.filter (fun b => decide (b.1 < keep))
    bad := x.bad.filter (fun k => decide (8 * k < keep))
    lost := x.lost.map (fun p => (p.1, Nat.min p.2 (w * 2 ^ 25))) }
  let s := (s.store.l2.filter (fun l => l.die == die && decide (l.way + w ≥ Config.l2Ways))).foldl State.evictL2 s
  s.modCtx ctx (fun y => { y with split := (die, w) :: y.split.filter (fun p => p.1 != die) })

/-- Whether a die may take its new split: nothing touches ways that change role, and the fabric does not hold what is written back (R92, R342). -/
def State.splitReady (s : State) (ctx die w : Nat) : Bool := s.splitClear ctx die w && !s.pushHeld die (fun _ => true)

/-- SPLIT_DIE_APPLY: the next die of a SPLIT, when nothing writes into ways that change role (R92, R262). -/
def execSplitDieApply (id : Nat) (s : State) : Out :=
  match s.drains.find? (fun d => d.id == id) with
  | none => .next s
  | some d =>
    match d.kind with
    | .split w dies =>
      if !s.firstSplit d then .next s
      else
        match dies with
        | [] => .next (s.endDrain id)
        | k :: rest =>
          if !s.splitReady d.ctx k w then .next s
          else
            let s := s.splitDie d.ctx k w
            if rest.isEmpty then .next (s.endDrain id)
            else .next { s with drains := s.drains.map (fun (e : Drain) => if e.id == id then { e with kind := .split w rest } else e) }
    | _ => .next s

/-- Whether a SEEDSET may take effect: its turn has come, no directory shard is being rebuilt, the fabric does not hold its pushes (R263, R342,
R346). -/
def State.seedReady (s : State) (d : Drain) : Bool :=
  s.firstSplit d && !s.pkg.dies.any (·.rebuilding) && !(s.pkg.dies.filterMap (·.log)).any (fun k => s.pushHeld k (fun w => w.ctx == d.ctx))

/-- SEEDSET_APPLY: the context's W sectors are pushed, its lines leave every cache, and the seed takes effect (R103, R263);
a rebuild of directory shards ends first (R346). -/
def execSeedsetApply (id : Nat) (s : State) : Out :=
  match s.drains.find? (fun d => d.id == id) with
  | none => .next s
  | some d =>
    match d.kind with
    | .seed v =>
      if !s.seedReady d then .next s
      else
        let s := s.pushIf (fun w => w.ctx == d.ctx)
        let s := { s with store := { s.store with
          l1 := s.store.l1.filter (fun x => x.ctx != d.ctx)
          l2 := s.store.l2.filter (fun x => x.ctx != d.ctx)
          llc := s.store.llc.filter (fun x => x.ctx != d.ctx) } }
        .next ((s.modCtx d.ctx (fun x => { x with seed := v })).endDrain id)
    | _ => .next s

/-! ### ERET -/

/-- ERET (R268, R317). -/
def execEret (f : F64) (s : State) : Out :=
  runPriv f.h [(.w32, f.s1)] 8 1 0 (fun s c iss _ v =>
    let ctx := (s.teamOf c).ctx
    let disp := val v 0 % 4
    match c.claim with
    | none => .fault .eretNone 0 0
    | some q =>
      match (s.ringOf ctx q.fdom).recs.find? (fun r => r.index == q.index) with
      | none => .ok (fun s => s.endClaim iss.crew ctx q)
      | some x =>
        let r := x.fault
        match s.crewAt r.serial r.crew, s.saved.find? (fun v => v.team.serial == r.serial) with
        | some k, _ =>
          (match s.crew? k with
          | none => .ok (fun s => s.endClaim iss.crew ctx q)
          | some d =>
            if d.live == 0 then .ok (fun s => s.endClaim iss.crew ctx q)
            else if !s.authority c (s.teamOf d) d.fdom then .fault .privDomain 0 0
            else
              match (if disp == 3 then s.killGateFault c d else none) with
              | some e => .fault e 0 0
              | none => .ok (fun s =>
                let s := if disp == 2 && s.saving r.serial then s.killOne r.serial r.crew else s.dispose k r.rid disp r.page r.cause.code
                s.endClaim iss.crew ctx q))
        | none, some w =>
          (match w.crews.find? (fun d => d.id == r.crew) with
          | none => .ok (fun s => s.endClaim iss.crew ctx q)
          | some d =>
            if !s.authority c w.team d.fdom then .fault .privDomain 0 0
            else
              match (if disp == 3 then s.killGateFault c (w.ahead d) else none) with
              | some e => .fault e 0 0
              | none => .ok (fun s => (s.recordAct w (.eret r.crew r.rid disp r.page r.cause.code)).endClaim iss.crew ctx q))
        | none, none => .ok (fun s => s.endClaim iss.crew ctx q)) s

/-! ### Gate and handle tables -/

/-- Bytes at a generic address, read as loads of the issuing thread with the checks of R173, orders 2 to 9 (R264). -/
def State.threadRead (s : State) (c : Crew) (lane g n align : Nat) : Priv (List Byte × Loc) :=
  match decodeAddr g with
  | .error e => .fault e 0 g
  | .ok (sp, o) =>
    if c.gdepth ≥ 1 && sp.barred then .fault .gateSpace 0 (recGen g)
    else if g % align != 0 then .fault .misalign 0 (recGen g)
    else
      match s.pieces c lane .read sp (recGen g) [] ((List.range (n / 8)).map (fun k => (((o + 8 * k : Nat) : Int), 8))) with
      | .error (.miss v) => .miss v
      | .error (.page va a _) => .page va a
      | .error (.fault e u a) => .fault e u a
      | .error _ => .stall .xlate
      | .ok (ls, _) =>
        let us := ls.map (fun l => ({ loc := l.1, size := l.2, data := 0, done := false } : AUnit))
        let fabric := fun (l : Loc × Nat) => match l.1 with
          | .phys pa => s.fabricHolds (some (dieOf c.core)) pa && !s.readHere c.core pa l.2
          | _ => false
        if us.any (s.inG s.nextId) || ls.any fabric || s.frozen (s.teamOf c).ctx then .stall .dep
        else
          match ls.findSome? (fun l => s.poisonRead (dieOf c.core) l.1 l.2) with
          | some sub => .fault .poison sub (recGen g)
          | none => .ok (ls.flatMap (fun l => s.readLoc (dieOf c.core) l.1 l.2), (ls.head?.map (·.1)).getD (.phys 0))

/-- What such a read does beside its data: translations are used, codewords checked, the caches take the line (R87, R300, R324). -/
def State.threadUse (s : State) (c : Crew) (lane g n : Nat) : State :=
  match decodeAddr g with
  | .error _ => s
  | .ok (sp, o) =>
    match s.pieces c lane .read sp (recGen g) [] ((List.range (n / 8)).map (fun k => (((o + 8 * k : Nat) : Int), 8))) with
    | .error _ => s
    | .ok (ls, lf) =>
      let s := s.tlbHits c (footVas (s.footOf c lane sp (o : Int) n))
      ls.foldl (fun s l => match l.1, lf with
        | .phys pa, some f => (s.check l.1 l.2).cacheRead { core := c.core, ctx := (s.teamOf c).ctx, cls := f.cls, shr := f.shr, rd := 2 } 0 pa
        | _, _ => s.check l.1 l.2) s

/-- The RCB at an address and those above it, as (physical address, contents), at most 128 (R264). -/
def State.rcbChain (s : State) (c : Crew) (lane : Nat) : Nat → Nat → Priv (List (Nat × Nat))
  | 0, _ => .fault .privDomain 0 0
  | fuel + 1, r => (s.threadRead c lane r 128 128).bind (fun x =>
      let v := ofBytes x.1
      let pa := match x.2 with | .phys pa => pa | _ => 2 ^ 64
      if field v 0 64 == 0 then .ok [(pa, v)]
      else (s.rcbChain c lane fuel (field v 0 64)).bind (fun l => .ok ((pa, v) :: l)))

/-- What the reads of a chain do beside their data. -/
def State.chainUse (s : State) (c : Crew) (lane : Nat) : Nat → Nat → State
  | 0, _ => s
  | fuel + 1, r =>
    let u := s.threadUse c lane r 128
    match s.threadRead c lane r 128 128 with
    | .ok x => if field (ofBytes x.1) 0 64 == 0 then u else u.chainUse c lane fuel (field (ofBytes x.1) 0 64)
    | _ => u

/-- The fault domain of a region, from its RCB and those above it (R276). -/
def chainFdom : List (Nat × Nat) → Nat
  | [] => 0
  | [x] => field x.2 80 16
  | x :: l => if bit x.2 132 then field x.2 80 16 else chainFdom l

/-- Authority over a named region (R255). -/
def State.regionAuthority (s : State) (c : Crew) (l : List (Nat × Nat)) : Bool :=
  let me := s.teamOf c
  me.level == 2 || (c.gdepth == 0 && l.any (fun x => x.1 == me.rcb)) || c.fdom == chainFdom l

/-- The chain of a region of the issuer's context (R264, check 1). -/
def State.ownChain (s : State) (c : Crew) (lane r : Nat) : Priv (List (Nat × Nat)) :=
  (s.rcbChain c lane 128 r).bind (fun l => match l.getLast? with
    | some x => if field x.2 144 12 == (s.teamOf c).ctx then .ok l else .fault .privDomain 0 0
    | none => .fault .privDomain 0 0)

/-- Gate table of an RCB: address and entries (R275). -/
def rcbGates (v : Nat) : Nat × Nat := (field v 256 64, Nat.min 256 (field v 320 9))

/-- A gate entry as it is held: its reserved bits read 0 (R6, R165). -/
def gateImage (img : Nat) : Nat :=
  [(5, 3), (26, 6), (176, 16)].foldl (fun v r => setField v r.1 r.2 0) (img % 2 ^ 256)

/-- The gate tables of regions whose RCBs have been read, as (address, contents): no physical access at S reaches them (R267, log 96). -/
def State.noteTables (s : State) (l : List (Nat × Nat)) : State :=
  { s with gtables := l.foldl (fun t x => let g := rcbGates x.2; (x.1, g.1, g.2) :: t.filter (fun y => y.1 != x.1)) s.gtables }

/-- Replace gate entry n of the region whose RCB is given (R265). -/
def State.setGate (s : State) (ctx rcb n gtab img : Nat) : State :=
  let pa := gtab + 32 * n
  let img := gateImage img
  let s := s.post { place := .at pa, data := toBytes 32 img }
  { s with gates := { ctx := ctx, rcb := rcb, n := n, pa := pa, img := BitVec.ofNat 256 img }
                    :: s.gates.filter (fun g => !(g.ctx == ctx && g.rcb == rcb && g.n == n)) }

/-- Every L1 instruction cache of a context's partition is invalidated (R136, R264). -/
def State.dropFetch (s : State) (ctx : Nat) : State :=
  let dies := match s.partOf ctx with | some p => s.partDies p | none => []
  { s with store := { s.store with icache := s.store.icache.filter (fun b => !dies.contains (dieOf b.core)) } }

/-- GTWR (R264, R265). -/
def execGtwr (f : F128M) (s : State) : Out :=
  runPriv f.h [(.w64, f.s1), (.w32, f.s2), (.w64, f.s3)] 16 1 0 (fun s c _ l v =>
    let ctx := (s.teamOf c).ctx
    let a := wrap 64 ((val v 0 : Int) + signed 24 f.off.toNat)
    let n := val v 1
    (s.ownChain c l (val v 2)).bind (fun ch => (s.threadRead c l a 32 32).bind (fun x =>
      let r := ch.head?.getD (0, 0)
      let g := rcbGates r.2
      if n > 255 || n ≥ g.2 then .fault .gateInvalid 0 0
      else if !s.regionAuthority c ch then .fault .privDomain 0 0
      else
        let img := ofBytes x.1
        .ok (fun s =>
          let s := (s.noteTables ch).setGate ctx r.1 n g.1 img
          if (GateEntry.ofNat img).ok (s.ctxOf ctx) then s.dropFetch ctx else s)))) s
    (fun s c l v => (s.chainUse c l 128 (val v 2)).threadUse c l (wrap 64 ((val v 0 : Int) + signed 24 f.off.toNat)) 32)

/-- GTINV (R266): VALID goes in one entry, or in every entry of the table. -/
def execGtinv (f : F64) (s : State) : Out :=
  let all := bit f.mod.toNat 0
  runPriv f.h ((if all then [] else [(.w32, f.s1)]) ++ [(.w64, f.s2)]) 8 1 0 (fun s c _ l v =>
    let ctx := (s.teamOf c).ctx
    let n := if all then 0 else val v 0
    (s.ownChain c l (if all then val v 0 else val v 1)).bind (fun ch =>
      let r := ch.head?.getD (0, 0)
      let g := rcbGates r.2
      if !all && (n > 255 || n ≥ g.2) then .fault .gateInvalid 0 0
      else if !s.regionAuthority c ch then .fault .privDomain 0 0
      else .ok (fun s => (if all then List.range g.2 else [n]).foldl (fun s k =>
        let img := match s.gates.find? (fun e => e.ctx == ctx && e.rcb == r.1 && e.n == k) with
          | some e => e.img.toNat
          | none => s.memRead (g.1 + 32 * k) 32
        s.setGate ctx r.1 k g.1 (img - img % 2)) (s.noteTables ch)))) s
    (fun s c l v => s.chainUse c l 128 (if all then val v 0 else val v 1))

/-- HTWR (R264, R265): the entry goes out of service at once, and is written by HANDLE_ENTRY_WRITE. -/
def execHtwr (f : F128M) (s : State) : Out :=
  runPriv f.h [(.w64, f.s1), (.w32, f.s2)] 16 1 0 (fun s c iss l v =>
    let a := wrap 64 ((val v 0 : Int) + signed 24 f.off.toNat)
    let h := val v 1
    (s.threadRead c l a 64 32).bind (fun x =>
      if h ≥ (s.ctxOf (s.teamOf c).ctx).hcnt then .fault .handleInvalid 0 0
      else .ok (fun s => s.drain iss.crew (.handle h x.1) []))) s
    (fun s c l v => s.threadUse c l (wrap 64 ((val v 0 : Int) + signed 24 f.off.toNat)) 64)

/-- HTINV (R266). -/
def execHtinv (f : F64) (s : State) : Out :=
  let all := bit f.mod.toNat 0
  runPriv f.h (if all then [] else [(.w32, f.s1)]) 8 1 0 (fun s c iss _ v =>
    let h := val v 0
    if all then .ok (fun s => s.drain iss.crew .handleAll [])
    else if h ≥ (s.ctxOf (s.teamOf c).ctx).hcnt then .fault .handleInvalid 0 0
    else .ok (fun s => s.drain iss.crew (.handle h []) [])) s

/-- The handle that a copy names (R226). -/
def Copy.named (c : Copy) : Option Nat :=
  if c.fields.sk == 1 then some c.s2 else if c.fields.dk == 1 then some c.s3 else none

/-- Whether operations issued before an operation on handles are incomplete (R265): copies that name the handle, operand fetches. -/
def State.handleBusy (s : State) (d : Drain) (h : Option Nat) : Bool :=
  s.copies.any (fun c => c.ctx == d.ctx && decide (c.id < d.id) && c.named.isSome && (h.isNone || c.named == h))
    || s.accq.any (fun e => e.ctx == d.ctx && decide (e.id < d.id) && !e.bsrc.isEmpty)
    || s.drains.any (fun e => e.ctx == d.ctx && decide (e.id < d.id) && match e.kind with
      | .handle _ _ => true
      | .handleAll => true
      | .htab _ => true
      | _ => false)

/-- A handle entry as it is held: its reserved bits read 0 (R6, R96). -/
def handleImage (img : List Byte) : List Byte :=
  toBytes 64 ([(14, 2), (36, 28), (104, 24), (328, 184)].foldl (fun v r => setField v r.1 r.2 0) (ofBytes img % 2 ^ 512))

/-- Write an entry of a handle table, in memory and as the engines use it. -/
def State.setHandle (s : State) (ctx h : Nat) (img : List Byte) : State :=
  let img := handleImage img
  let s := s.post { place := .at ((s.ctxOf ctx).hbase + 64 * h), data := img }
  s.modCtx ctx (fun x => { x with handles := x.handles.putBytes (64 * h) img })

/-- Clear VALID of an entry (R266). -/
def State.clearHandle (s : State) (ctx h : Nat) : State :=
  let b := (s.ctxOf ctx).handles.get (64 * h)
  s.setHandle ctx h ((b &&& 0xFE) :: (s.ctxOf ctx).handles.bytes (64 * h + 1) 63)

/-- HANDLE_ENTRY_WRITE: after the drain of older uses, the entry, or every entry, is written and returned to service (R265, R266). -/
def execHandleEntryWrite (id : Nat) (s : State) : Out :=
  match s.drains.find? (fun d => d.id == id) with
  | none => .next s
  | some d =>
    match d.kind with
    | .handle h img =>
      if s.handleBusy d (some h) then .next s
      else .next ((if img.isEmpty then s.clearHandle d.ctx h else s.setHandle d.ctx h img).endDrain id)
    | .handleAll =>
      if s.handleBusy d none then .next s
      else
        let x := s.ctxOf d.ctx
        let kept := s.store.mem.filterMap (fun (c : Host.Cell) => if x.hbase ≤ c.1 then some ((c.1 - x.hbase) / 64) else none)
        let live := ((x.handles.map (fun (c : Host.Cell) => c.1 / 64) ++ kept).eraseDups).filter (fun h => h < x.hcnt)
        .next ((live.foldl (fun s h => s.clearHandle d.ctx h) s).endDrain id)
    | _ => .next s

/-- CTX_HTAB_WRITE: after the drain, CTX.HTAB is written, and the entries in force are those in memory at the new base (R253). -/
def execCtxHtabWrite (id : Nat) (s : State) : Out :=
  match s.drains.find? (fun d => d.id == id) with
  | none => .next s
  | some d =>
    match d.kind with
    | .htab v =>
      if s.handleBusy d none then .next s
      else
        let s := s.modCtx d.ctx (fun x => { x with htab := v })
        .next ((s.modCtx d.ctx (fun x => { x with handles := s.store.mem.slice x.hbase (64 * x.hcnt) })).endDrain id)
    | _ => .next s

/-! ### Physical access -/

/-- Issue LDPHYS or STPHYS (R247, R267). -/
def runPhys (i : Instr) (s : State) : Out :=
  match s.cur with
  | none => .next s
  | some iss =>
    match s.crew? iss.crew with
    | none => .next s
    | some c =>
      if (s.teamOf c).level == 0 then
        let x := (memDesc i).bind (fun d =>
          let em := guardMask c iss.mask d.f.h
          memIllegal s c iss.mask em iss.pc d)
        .next (s.stopped iss.crew iss (x.getD (privTrap iss)))
      else issueMem i s

/-- LDPHYS (R267). -/
def execLdphys (f : F128M) (s : State) : Out := runPhys (.ldphys f) s
/-- STPHYS (R267). -/
def execStphys (f : F128M) (s : State) : Out := runPhys (.stphys f) s

end Sys2Proof.Machine
end

