-- ==== Sys2Proof/Machine/Power.lean ====
section
/-! DEFINITION. Temperatures, refresh and power states (20 R375 to R380; 04 R94). -/
namespace Sys2Proof.Machine

/-! ### Temperatures -/

/-- Change a physical die. -/
def State.modDie (s : State) (phys : Nat) (f : Die → Die) : State :=
  { s with pkg := { s.pkg with dies := s.pkg.dies.map (fun (d : Die) => if d.phys == phys then f d else d) } }

def State.die (s : State) (phys : Nat) : Die := (s.pkg.dies.find? (fun d => d.phys == phys)).getD (Die.reset phys)

/-- SCALD after a comparison of a temperature with a limit (R94): set above it, cleared 5 °C or more below it. -/
def scaldNext (was : Bool) (temp limit : Nat) : Bool :=
  if temp > limit then true else if temp + 5 ≤ limit then false else was

/-- CACHE_DIE_TEMP_UPDATE: a new reading of the hottest sensor (R94, R376). The reading comes from outside the model. -/
def execCacheDieTempUpdate (die temp : Nat) (s : State) : Out :=
  if (s.die die).out then .next s
  else .next (s.modDie die (fun d => { d with temp := temp % 256, scald := scaldNext d.scald (temp % 256) d.limit }))

/-- LIMIT_WRITE: the limit is clamped to 70 to 105; TEMP is compared with it from the next update on (R376). -/
def execLimitWrite (die value : Nat) (s : State) : Out :=
  if (s.die die).out then .next s
  else .next (s.modDie die (fun d => { d with limit := Nat.min 105 (Nat.max 70 (value % 256)) }))

/-- The temperature word of a cache die: a die that is left out reads as zero (R376). -/
def Die.tempWord (d : Die) : Nat := if d.out then 0 else d.temp % 2 ^ 8 + 2 ^ 8 * (d.limit % 2 ^ 8) + 2 ^ 16 * ofBool d.scald

/-- The temperature word of a tower (R376). -/
def Tower.tempWord (t : Tower) : Nat := if t.present then t.tmax % 2 ^ 8 + 2 ^ 8 * (t.rmax % 4) else 0

/-- Refresh class of a bank temperature (R375, RMAX of R376). -/
def refreshOf (t : Nat) : Nat := if t ≤ 85 then 0 else if t ≤ 95 then 1 else if t ≤ 105 then 2 else 3

/-- TOWER_TEMP_POLL: each bank's refresh follows the higher of its last two readings (R375). The readings come from outside. -/
def execTowerTempPoll (tower : Nat) (temps : List Nat) (s : State) : Out :=
  let t := s.tower tower
  if !t.present then .next s
  else
    let highs := temps.mapIdx (fun k x => Nat.max x ((t.last[k]?).getD 0))
    let t := { t with last := temps, tmax := temps.foldl Nat.max 0 % 256, rmax := (highs.map refreshOf).foldl Nat.max 0 }
    .next { s with pkg := { s.pkg with towers := s.pkg.towers.map (fun (u : Tower) => if u.num == tower then t else u) } }

/-! ### Power states -/

/-- Depth and exit latency in µs of a power state (R377). -/
def PState.depth : PState → Nat | .gale => 0 | .breeze => 1 | .zephyr => 2 | .calm => 3
def PState.exitUs : PState → Nat | .gale => 0 | .breeze => 2 | .zephyr => 200 | .calm => 20000

/-- The deepest state whose exit latency is at most HLT (R377). -/
def deepest (hlt : Nat) : PState :=
  if hlt ≥ 20000 then .calm else if hlt ≥ 200 then .zephyr else if hlt ≥ 2 then .breeze else .gale

/-- Whether the package is idle (R377). -/
def State.pkgIdle (s : State) : Bool :=
  s.teams.all (·.ended) && s.saved.isEmpty && s.cp.engines.all (fun e => e.entries.isEmpty)
    && s.cp.nodes.all (fun n => n.st == NodeSt.done) && s.cp.queues.all (fun q => q.head == q.tail)
    && s.copies.isEmpty && s.dictlds.isEmpty && s.dbg.all (fun d => d.dstat != 1)

/-- Whether the package runs: GALE, and no entry or exit under way. -/
def State.awake (s : State) : Bool := s.host.cur == .gale && s.host.entering.isNone && s.host.exiting.isNone

/-- Begin to leave a power state for a less deep one (R377, R380): an entry under way completes first; an exit under way goes on to
the less deep of the two. -/
def State.exitTo (s : State) (t : PState) : State :=
  let h := s.host
  if h.entering.isSome then { s with host := { h with wakeAfter := h.wakeAfter || t == .gale } }
  else
    match h.exiting with
    | some u => if t.depth < u.depth then { s with host := { h with exiting := some t } } else s
    | none => if t.depth < h.cur.depth then { s with host := { h with exiting := some t, timer := Config.microsecond * h.cur.exitUs } } else s

/-- An access that wakes the package is kept until the exit has ended (R377). -/
def State.wakeFor (s : State) (i : Instr) : State :=
  let s := s.exitTo .gale
  { s with host := { s.host with held := s.host.held ++ [i] } }

/-- Caches, TLBs, dictionary slots and die scratch as CALM leaves them (R379). -/
def State.loseCaches (s : State) : State :=
  let s := s.pushIf (fun _ => true)
  let slots := s.ctxs.flatMap (fun (x : Ctx) => (List.range 8).flatMap (fun k => (List.range 8).map (fun j =>
    let d := s.dict x.id k j
    { d with gen := d.gen + 1, entries := [] })))
  { s with
    dicts := slots
    store := { s.store with l1 := [], l2 := [], llc := [], icache := [], coreTlb := [], llTlb := [], lookups := [], dscr := [] } }

/-- IDLE_TIMER_EXPIRY: after IDLET of idleness the package begins to enter the deepest state that HLT allows (R377). -/
def execIdleTimerExpiry (s : State) : Out :=
  let t := deepest s.host.hlt
  if s.pkgIdle && s.host.idle ≥ Config.microsecond * s.host.idlet && t.depth > s.host.cur.depth && s.host.entering.isNone
      && s.host.exiting.isNone then
    .next { s with host := { s.host with entering := some t } }
  else .next s

/-- POWER_ENTRY_COMPLETE: the state is entered, and no link of a state from ZEPHYR on goes on waking; a wake that came meanwhile, or an HLT that no longer allows it, begins the exit
(R379, R380). -/
def execPowerEntryComplete (s : State) : Out :=
  match s.host.entering with
  | none => .next s
  | some t =>
    let s : State := if t == .calm then s.loseCaches else s
    let s : State := if t.depth ≥ 2 then
      { s with pkg := { s.pkg with dies := s.pkg.dies.map (fun (d : Die) => if d.log.isSome && !d.failed then { d with asleep := true, wakeAge := none } else d) } } else s
    let wake := s.host.wakeAfter
    let s : State := { s with host := { s.host with cur := t, entering := none, wakeAfter := false, idle := 0 } }
    .next (if wake then s.exitTo .gale else s.exitTo (deepest s.host.hlt))

/-- WAKE: a write of 1 to WAKE (R377). -/
def execWake (s : State) : Out := .next (s.exitTo .gale)

/-- PACKAGE_WAKE_EVENT: a doorbell, a host access or a Launo request (R377). -/
def execPackageWakeEvent (s : State) : Out := .next (s.exitTo .gale)

/-- POWER_EXIT_COMPLETE: the exit latency has passed; what woke the package can complete (R377), and the links that slept begin to
wake (R342). -/
def execPowerExitComplete (s : State) : Out :=
  match s.host.exiting with
  | none => .next s
  | some t =>
    if s.host.timer != 0 then .next s
    else
      let s : State := if t.depth < 2 then
        { s with pkg := { s.pkg with dies := s.pkg.dies.map (fun (d : Die) =>
            if d.asleep && d.wakeAge.isNone then { d with wakeAge := some 0, hbAt := 0 } else d) } } else s
      .next { s with
        cp := { s.cp with hbAge := 0 }
        host := { s.host with cur := t, exiting := none, idle := 0 } }

/-- HLT_WRITE: a write of HLT that makes the current state too deep begins a return to the deepest one allowed (R377, R380). -/
def execHltWrite (value : Nat) (s : State) : Out :=
  let s : State := { s with host := { s.host with hlt := value % 2 ^ 20 } }
  .next (s.exitTo (deepest s.host.hlt))

end Sys2Proof.Machine
end

