-- ==== Sys2Proof/Machine/Queue.lean ====
section
/-! DEFINITION. Intake queues, the journal registers and the other management registers (14 R270 to R273; 00 R6; 20 R368), the
accesses of the host and of other packages, acceptance of commands (14 R271, R272, R278). -/
namespace Sys2Proof.Machine

/-! ### Accesses from outside -/

/-- Whether a physical address has a location in service (R332, R378). -/
def State.located (s : State) (pa : Nat) : Bool := (s.partAt pa).isSome && !s.homeOff pa

/-- Whether an access from outside must wait: the fabric holds a request for its line (R342, R343, R378), or the package is not in GALE (R377), or a copy engine holds the line in G (R117). -/
def State.outsideWaits (s : State) (i : Instr) : Bool :=
  !s.awake || match i with
    | .hostDeviceMemoryAccess a _ d => s.rangeHeld a (Nat.max 1 d.length)
    | .incomingLaunoRequest a _ d => s.rangeHeld a (Nat.max 1 d.length)
    | _ => false

/-- Let the accesses that waited go on, in order (R377). -/
def State.releaseHeld (s : State) : State :=
  let go := s.host.held.filter (fun i => !s.outsideWaits i)
  if go.isEmpty then s
  else { s with agenda := s.agenda ++ go, host := { s.host with held := s.host.held.filter s.outsideWaits } }

/-- An access from outside to package memory: a write is made at the home and is visible to the package (R109); a read changes no
memory. The memory of a table is not reached (R266, log 96). -/
def State.outsideAccess (s : State) (addr : Nat) (write : Bool) (data : List Byte) : State :=
  if write && s.located addr && s.located (addr + data.length - 1) && !s.tableAt addr data.length then s.agentWrite addr data else s

/-- HOST_DEVICE_MEMORY_ACCESS (R270, R377). -/
def execHostDeviceMemoryAccess (addr : Nat) (write : Bool) (data : List Byte) (s : State) : Out :=
  let i : Instr := .hostDeviceMemoryAccess addr write data
  if s.outsideWaits i then .next (s.wakeFor i) else .next (s.outsideAccess addr write data)

/-- INCOMING_LAUNO_REQUEST: a request of another package is performed at the home (R109, R377). -/
def execIncomingLaunoRequest (addr : Nat) (write : Bool) (data : List Byte) (s : State) : Out :=
  let i : Instr := .incomingLaunoRequest addr write data
  if s.outsideWaits i then .next (s.wakeFor i) else .next (s.outsideAccess addr write data)

/-! ### Intake queues -/

def State.queue (s : State) (q : Nat) : Queue := (s.cp.queues[q]?).getD Queue.reset

def State.modQueue (s : State) (q : Nat) (f : Queue → Queue) : State :=
  { s with cp := { s.cp with queues := s.cp.queues.modify q f } }

/-- Ring entries (R270). -/
def Queue.entries (q : Queue) : Nat := 2 ^ (if 4 ≤ q.log2n && q.log2n ≤ 20 then q.log2n else 4)

/-- Commands written and not accepted. -/
def Queue.waiting (q : Queue) : Nat := (q.tail + 2 ^ 32 - q.head) % 2 ^ 32

/-- TAIL_WRITE: the doorbell, refused when the ring would overflow (R270). It wakes the package (R377). -/
def execTailWrite (queue value : Nat) (s : State) : Out :=
  let q := s.queue queue
  if q.fn == 0 then .next s
  else if !s.awake then .next (s.wakeFor (.tailWrite queue value))
  else
    let v := value % 2 ^ 32
    if (v + 2 ^ 32 - q.head) % 2 ^ 32 > q.entries then .next (s.modQueue queue (fun q => { q with terr := true }))
    else .next (s.modQueue queue (fun q => { q with tail := v }))

def State.fn (s : State) (n : Nat) : Fn := (s.host.fns.find? (fun f => f.num == n)).getD (Fn.reset n)

def State.modFn (s : State) (n : Nat) (f : Fn → Fn) : State :=
  { s with host := { s.host with fns := s.host.fns.map (fun (x : Fn) => if x.num == n then f x else x) } }

/-- A change of LOC, RBASE, LOG2N or CTXID under CONFIG_LOCKED or RUN moves the function to ERROR (R368). -/
def State.queueChanged (s : State) (fn : Nat) : State :=
  s.modFn fn (fun f => match f.tdisp with | .locked => { f with tdisp := .error } | .run => { f with tdisp := .error } | _ => f)

/-- A context comes into being when a queue that carries its commands is first enabled: its world is fixed then, free (R248), in the partition
bound to the queue's function (log 18). -/
def State.createCtx (s : State) (id fn : Nat) : State :=
  if (s.findCtx id).isSome then s
  else
    let part := match s.pkg.parts.find? (fun p => p.fn == fn) with | some p => p.num | none => 0
    { s with ctxs := s.ctxs ++ [{ id := id, secure := Config.secureCtx id, part := part, split := [], seed := 0, wayq := 0xCCCC, htab := 0, asids := 0,
                                  fdt := 0, handles := [], lost := false }] }

/-- QUEUE_REGISTER_WRITE: a write to a word of a queue's block (R270, R368). -/
def execQueueRegisterWrite (queue off value : Nat) (s : State) : Out :=
  let q := s.queue queue
  if q.fn == 0 then .next s
  else if !s.awake then .next (s.wakeFor (.queueRegisterWrite queue off value))
  else if off == 0x00 then
    let q' := { q with loc := bit value 0, rbase := if q.en then q.rbase else field value 12 52 }
    let s1 := s.modQueue queue (fun _ => q')
    .next (if q' != q then s1.queueChanged q.fn else s1)
  else if off == 0x08 then
    let en := if s.host.ready then bit value 0 else q.en
    let q' := if q.en then q else { q with log2n := field value 1 5, ctx := field value 6 12 }
    let s1 := s.modQueue queue (fun _ => { q' with en := en })
    let s2 := if q' != q then s1.queueChanged q.fn else s1
    .next (if en && !q.en then s2.createCtx q'.ctx q.fn else s2)
  else if off == 0x18 then .next (if bit value 1 then s.modQueue queue (fun q => { q with terr := false }) else s)
  else .next s

/-! ### Management registers -/

/-- Whether a core's debug block answers: its die is in service (R345, 18). -/
def State.blockThere (s : State) (core : Nat) : Bool :=
  s.pkg.dies.any (fun d => d.log == some (dieOf core) && !d.failed) && !s.pkg.lostCores.contains core && !s.pkg.leftOut.contains core

/-- A write to a word of a core's debug block that only stores (R347, R348, R350). -/
def Debug.write (d : Debug) (r value : Nat) : Debug :=
  let pc := value % 2 ^ 57 / 4 * 4 + value % 2
  if r < 0x100 then
    { d with scheds := d.scheds.modify (r / 0x40) (fun x =>
        if r % 0x40 == 0x10 then { x with pc0 := pc } else if r % 0x40 == 0x18 then { x with pc1 := pc } else x) }
  else if r == 0x108 then { d with attEn := bit value 0, attCtx := field value 1 12 }
  else if r == 0x110 then { d with dumpA := value % 2 ^ 64 }
  else if r == 0x118 then { d with dteam := value % 2 ^ 24 }
  else d

/-- Whether a function is visible: the management function, and that of each present die that is not a later die of a partition (R367). -/
def State.visible (s : State) (fn : Nat) : Bool :=
  fn == 0 || s.pkg.dies.any (fun d => d.phys + 1 == fn && !d.out
    && !s.pkg.parts.any (fun p => decide (p.first < d.phys) && decide (d.phys < p.first + 2 ^ p.log2)))

/-- A write to the configuration space of a function (R367): that to a hidden one is ignored. Bit 2 of dword 4 of function 0 is Bus Master
Enable (R374, log 19). -/
def State.confWrite (s : State) (fn off value : Nat) : State :=
  if !s.visible fn then s
  else
    let s := s.modFn fn (fun f => { f with conf := (off / 4 * 4, value % 2 ^ 32) :: f.conf.filter (fun x => x.1 != off / 4 * 4) })
    if fn == 0 && off / 4 == 1 then { s with host := { s.host with busMaster := bit value 2 } } else s

/-- A read of it: a hidden function reads as all ones (R367). -/
def State.confRead (s : State) (fn off : Nat) : Nat :=
  if s.visible fn then Config.confRead fn (off / 4 * 4) (s.fn fn).conf % 2 ^ 32 else 2 ^ 32 - 1

/-- REGISTER_WRITE: a write to a register that stores its fields and does nothing else, by its offset in BAR 0 of the management
function; reserved and read-only bits are left (R6). Offset 2^32 × (f + 1) + k stands for offset k of the configuration space of function f
(log 19). -/
def execRegisterWrite (off value : Nat) (s : State) : Out :=
  if off ≥ 0x100000 && off < 0x200000 then
    let core := (s.allCores[(off - 0x100000) / 0x400]?).getD 1024
    if s.blockThere core then .next (s.setDebug ((s.debugOf core).write ((off - 0x100000) % 0x400) value)) else .next s
  else if off ≥ 0x3000 && off < 0x4000 then
    .next { s with host := { s.host with config := s.host.config.writeN ((off - 0x3000) / 4 * 4) 4 value } }
  else if off == 0x800 then .next { s with cp := { s.cp with jbase := field value 12 52 } }
  else if off == 0x808 then .next { s with cp := { s.cp with jlog := field value 0 5 } }
  else if off == 0x900 then .next { s with pkg := { s.pkg with atb := field value 20 44 } }
  else if off == 0xB00 then .next { s with pkg := { s.pkg with lwl := field value 0 10 } }
  else if off == 0xC00 then .next { s with rr := { s.rr with mode := field value 0 2, ctx := field value 2 12 } }
  else if off == 0xC04 then .next { s with rr := { s.rr with node := field value 0 32 } }
  else if off == 0xC08 then .next { s with rr := { s.rr with lbase := field value 0 64 } }
  else if off == 0xC10 then .next { s with rr := { s.rr with llog := field value 0 5 } }
  else if off == 0xE04 then .next { s with host := { s.host with idlet := Nat.max 10 (field value 0 16) } }
  else if off == 0xF08 then .next { s with host := { s.host with imga := field value 12 52 } }
  else if off == 0xF10 then .next { s with host := { s.host with imglen := field value 0 32 } }
  else if off ≥ 2 ^ 32 then .next (s.confWrite (off / 2 ^ 32 - 1) (off % 2 ^ 32) value)
  else .next s

/-- Unfinished nodes, and whether more can be accepted (R273, R278). -/
def State.unfinished (s : State) : List Node := s.cp.nodes.filter (fun n => n.st != NodeSt.done)
def State.accepting (s : State) : Bool := s.acceptRoom && decide (s.unfinished.length < 1048576)

/-- JSTALL of every queue follows whether commands are accepted (R273). -/
def State.setJstall (s : State) : State :=
  let stall := !s.accepting
  if s.cp.queues.all (fun q => q.jstall == stall) then s
  else { s with cp := { s.cp with queues := s.cp.queues.map (fun (q : Queue) => { q with jstall := stall }) } }

/-- CONS_WRITE: records the host no longer needs (R273). -/
def execConsWrite (value : Nat) (s : State) : Out :=
  .next ({ s with cp := { s.cp with cons := value % 2 ^ 64 } } : State).setJstall

/-- LCP_WRITE: records that the host has taken or supplied (R357). -/
def execLcpWrite (value : Nat) (s : State) : Out := .next { s with rr := { s.rr with lcp := value % 2 ^ 64 } }

/-! ### Acceptance -/

/-- Whether a queue is served: enabled, with a command, its function not in ERROR (R271, R368). -/
def State.served (s : State) (q : Nat) : Bool :=
  let x := s.queue q
  x.en && x.fn != 0 && x.waiting != 0 && (s.fn x.fn).tdisp != Tdisp.error

/-- The queue whose turn it is (R271): the first served one after the queue served last. -/
def State.nextQueue (s : State) : Option Nat :=
  ((List.range 64).map (fun k => (s.cp.turn + 1 + k) % 64)).find? s.served

/-- Read memory where a queue has its ring (R270, log 20). -/
def State.ringBytes (s : State) (loc : Bool) (a n : Nat) : Nat := if loc then s.store.hostMem.readN a n else s.memRead a n

/-- The refusal of a command's own fields (R272); of several causes the KIND comes first (DESIGN CHOICE, log 128). -/
def entryFault (e : Nat) : Option Nat :=
  if field e 0 8 > 3 then some 1
  else if field e 8 4 > 8 then some 5
  else if field e 0 8 == 3 && field e 256 64 % 8 != 0 then some 5
  else none

/-- Decrement a node's pending count for a finished predecessor; one below zero is dropped and recorded (R278), at once, whether or not the journal has
a free place (DESIGN CHOICE, log 134). -/
def State.decrement (s : State) (ctx node pred : Nat) : State :=
  match s.unfinished.find? (fun n => n.ctx == ctx && n.id == node) with
  | none => { s with cp := { s.cp with heldDecs := s.cp.heldDecs ++ [(ctx, node, pred)] } }
  | some n =>
    if n.pred == 0 then s.journal 0x09 0 ctx node pred
    else { s with cp := { s.cp with nodes := s.cp.nodes.map (fun (x : Node) =>
        if x.ctx == ctx && x.id == node && x.st != .done then { x with pred := x.pred - 1 } else x) } }

/-- The node of an entry, with its successors and buffers as they stand at acceptance (R272, R279, R329). -/
def State.nodeOf (s : State) (q : Nat) (e : Nat) : Node :=
  let x := s.queue q
  let succ := fun (k : Nat) => s.ringBytes x.loc (field e 128 64 + 4 * k) 4
  let buf := fun (k : Nat) => s.ringBytes x.loc (field e 192 64 + 16 * k) 16
  { ctx := x.ctx, id := field e 32 32, kind := field e 0 8, queue := q, pred := field e 64 32, st := .waiting
    succs := (List.range (field e 96 16)).map succ
    bufs := (List.range (field e 8 4)).map (fun k => let b := buf k; (field b 0 32, bit b 32, bit b 33))
    arg0 := field e 256 64, arg1 := field e 320 64, arg2 := field e 384 64, seq := s.cp.wseq + s.recordsDue, bad := false, ran := [] }

/-- COMMAND_ACCEPT: the command at HEAD of the queue whose turn it is (R271, R272, R278). -/
def execCommandAccept (queue : Nat) (s : State) : Out :=
  if !s.awake || s.cp.failed || !s.accepting || s.nextQueue != some queue then .next s
  else
    let q := s.queue queue
    let e := s.ringBytes q.loc (q.rbase * 4096 + 64 * (q.head % q.entries)) 64
    let done := fun (s : State) =>
      let s := s.modQueue queue (fun q => { q with head := (q.head + 1) % 2 ^ 32 })
      ({ s with cp := { s.cp with turn := queue } } : State).setJstall
    match entryFault e with
    | some c => .next (done (s.journal 0x02 queue q.ctx (field e 32 32) c))
    | none =>
      let n := s.nodeOf queue e
      let s := { s with cp := { s.cp with nstore := s.cp.nstore ++ [n] } }
      let s := s.journal 0x01 queue q.ctx n.id q.head
      let mine := s.cp.heldDecs.filter (fun d => d.1 == n.ctx && d.2.1 == n.id)
      let s := { s with cp := { s.cp with
        nodes := s.cp.nodes ++ [n]
        heldDecs := s.cp.heldDecs.filter (fun d => !(d.1 == n.ctx && d.2.1 == n.id)) } }
      .next (done (mine.foldl (fun s d => s.decrement n.ctx n.id d.2.2) s))

end Sys2Proof.Machine
end

