-- ==== Sys2Proof/Machine/Nodes.lean ====
section
/-! DEFINITION. Nodes of the command processor (14 R275 to R283, R383): the checks of a launch, maintenance, starts, dealing, finishes
(R278, R286; 18 R357, R358). -/
namespace Sys2Proof.Machine

/-! ### Region control blocks and launch records -/

/-- Bytes at a virtual address of a context as the command processor reads them: pinned pages only (R301, R323). -/
def State.cpRead (s : State) (x : Ctx) (va n : Nat) : Option Nat :=
  let m := 65536 - va % 65536
  match s.pinned 0 x.abase x.secure va .read with
  | .error _ => none
  | .ok pa =>
    if n ≤ m then some (s.memRead pa n)
    else
      match s.pinned 0 x.abase x.secure (va + m) .read with
      | .error _ => none
      | .ok pb => some (s.memRead pa m + 2 ^ (8 * m) * s.memRead pb (n - m))

/-- The pages' addresses that such a read translates (R300). -/
def readVas (va n : Nat) : List Nat := if n ≤ 65536 - va % 65536 then [va] else [va, va + (65536 - va % 65536)]

/-- The RCBs from a leaf to its root, as (physical address, contents), at most as many as the fuel (R275, R276); none when one is invalid.
The command processor's reads of RCBs are not translated (R293, log 17). -/
def State.rcbClimb (s : State) (x : Ctx) : Nat → Nat → Option (List (Nat × Nat))
  | 0, _ => none
  | fuel + 1, a =>
    if a % 128 != 0 || (s.partAt a).isNone then none
    else
      let v := s.memRead a 128
      if field v 72 2 == 3 then none
      else if field v 0 64 == 0 then (if field v 144 12 == x.id then some [(a, v)] else none)
      else (State.rcbClimb s x fuel (field v 0 64)).map (fun l => (a, v) :: l)

/-- The whole tree path of a leaf (R276): each RCB below the root has a byte of its PARENT in memory, so a path that is longer than the bytes
there are goes round and has no root. -/
def State.rcbPath (s : State) (x : Ctx) (a : Nat) : Option (List (Nat × Nat)) := s.rcbClimb x (s.store.mem.length + 1) a

/-- The effective value of a field with its OVR bit (R276). -/
def effective (ovr lo w : Nat) : List Nat → Nat
  | [] => 0
  | [v] => field v lo w
  | v :: l => if bit v (128 + ovr) then field v lo w else effective ovr lo w l

/-- Whether no region of a path takes a level above its parent's (R246). -/
def levelsFall : List Nat → Bool
  | [] => true
  | [_] => true
  | v :: l => decide (effective 1 72 2 (v :: l) ≤ effective 1 72 2 l) && levelsFall l

/-- Whether a launch record is one that R277 does not refuse. -/
def recordOk (r : Nat) : Bool :=
  let crews := field r 64 5
  let privp := field r 192 13
  1 ≤ crews && crews ≤ 16 && field r 128 8 ≤ 128 && field r 136 5 ≤ 16 && field r 145 9 ≤ 384 && 1 ≤ privp && privp ≤ 4096
    && !(field r 96 2 != 0 && field r 104 24 == 0) && field r 0 64 % 4 == 0

/-- The team that a record, a path and a context make (R275 to R277, R282). HOLDCFG is the word that memory holds, whether or not anything
has written it: R17's reset value is not put in its place (DESIGN CHOICE, log 110). -/
def launchTeam (x : Ctx) (node rcbVa : Nat) (path : List (Nat × Nat)) (r : Nat) : Team :=
  let vs := path.map (·.2)
  let leaf := vs.head?.getD 0
  let pool := (vs.find? (fun v => field v 448 64 != 0)).getD 0
  { (default : Team) with
    ctx := x.id, node := node, crews := field r 64 5, regmin := field r 128 8, tiles := field r 136 5, ptag := field r 141 4
    scrK := field r 145 9, dscrK := field r 160 32, privB := field r 256 64, privP := field r 192 13, saveB := field r 320 64
    clvl := field r 96 2, csize := Nat.min (field r 104 24) (field r 72 24 + 1), teams := field r 72 24 + 1
    epc := BitVec.ofNat 64 (field r 0 64), prio := effective 0 64 7 vs, level := effective 1 72 2 vs
    strict := effective 2 74 1 vs == 1, gclass := effective 3 75 5 vs, fdom := effective 4 80 16 vs
    holdcfg := BitVec.ofNat 32 (effective 5 96 32 vs), slvl := Nat.min 4 (effective 7 136 3 vs)
    rcbVa := rcbVa, rcb := (path.head?.map (·.1)).getD 0, path := (path.drop 1).map (·.1)
    gcnt := Nat.min 256 (field leaf 320 9), gtab := field leaf 256 64, spb := field pool 448 64, tslots := field pool 512 15 }

/-- Budgets in force on a path: RCB, BSLOTS, BSCR (R276). -/
def budgetsOf (path : List (Nat × Nat)) : List (Nat × Nat × Nat) :=
  (path.filter (fun p => bit p.2 134)).map (fun p => (p.1, field p.2 192 32, field p.2 224 32))

/-! ### Where teams fit -/

/-- Logical cores in service (R327, R328, R345). -/
def State.coreAlive (s : State) (core : Nat) : Bool :=
  s.pkg.dies.any (fun d => d.log == some (dieOf core) && !d.failed) && !s.pkg.failedCores.contains core && !s.pkg.lostCores.contains core
    && !s.pkg.leftOut.contains core

/-- The logical cores of a context's partition, in coreid order (R250). -/
def State.partCores (s : State) (ctx : Nat) : List Nat :=
  match s.partOf ctx with
  | none => []
  | some p => (inOrder (fun a b => decide (a ≤ b)) (s.partDies p)).flatMap (fun d => (List.range 64).map (fun k => 64 * d + k))

/-- Whether a core lies in the partition of a context (R250). -/
def State.inPartition (s : State) (ctx core : Nat) : Bool :=
  match s.partOf ctx with | some p => (s.partDies p).contains (dieOf core) | none => false

/-- Whether the die of a core admits a launch now: its partition, its world, its die scratch (R249, R93, R250). -/
def State.dieAdmits (s : State) (t : Team) (core : Nat) : Bool :=
  let x := s.ctxOf t.ctx
  s.inPartition t.ctx core && admits (s.classOf core) x.secure && decide (t.dscrK ≤ 32768 * x.ways (dieOf core))

/-- Teams of one shape that an empty core holds (R12, R27, R38, R50): crew k takes one of the 16 slots of scheduler k mod 4. -/
def coreFits (t : Team) : Nat :=
  let by_ := fun (has need : Nat) => if need == 0 then 64 else has / need
  Nat.min (Nat.min (16 / ((t.crews + 3) / 4)) (by_ 384 t.scrK)) (Nat.min (by_ 16 t.tiles) (by_ Config.bankReservable (t.regmin * t.crews)))

/-- The unit of a core at the cohort's level, and the cores of a list in it. -/
def State.unitCores (s : State) (t : Team) (cores : List Nat) (core : Nat) : List Nat :=
  cores.filter (fun k => s.unitOf t.clvl k == s.unitOf t.clvl core)

/-- Teams of a cohort, the last one's remainder apart (R31). -/
def groupSize (t : Team) : Nat := if t.clvl == 0 then 1 else t.csize

/-- Whether one empty unit of a list of cores holds n teams (R28). -/
def State.unitFits (s : State) (t : Team) (cores : List Nat) (n core : Nat) : Bool :=
  decide (n ≤ coreFits t * (s.unitCores t cores core).length)

/-- The launch of a node, or the cause of its refusal (R383). The path is read before the record that it names (log 21). Of several causes the first
tested is journalled (DESIGN CHOICE, log 129); an RCB without a record gives cause 5, a root of another context cause 2 (DESIGN CHOICE, log 130). -/
def State.checkLaunch (s : State) (n : Node) : Except Nat Launch :=
  let x := { s.ctxOf n.ctx with id := n.ctx }
  match s.rcbPath x n.arg0 with
  | none => .error 2
  | some path =>
    let vs := path.map (·.2)
    let lrec := field (vs.head?.getD 0) 384 64
    if !levelsFall vs then .error 2
    else
      match (if lrec == 0 then none else s.cpRead x lrec 64) with
      | none => .error 5
      | some r =>
        if !recordOk r then .error 5
        else
          let t := launchTeam x n.id n.arg0 path r
          let cores := (s.partCores n.ctx).filter s.coreAlive
          let able := cores.filter (s.dieAdmits t)
          let g := groupSize t
          let one := match s.partOf n.ctx with | some p => t.clvl == 3 && p.log2 == 0 | none => false
          if t.clvl != 0 && (one || !cores.any (s.unitFits t cores g)) then .error 3
          else if !able.any (fun k => t.clvl == 0 || s.unitFits t able g k) then .error 4
          else
            let bs := budgetsOf path
            if bs.any (fun b => b.2.1 != 0 && g * t.crews > b.2.1 || b.2.2 != 0 && g * t.scrK > b.2.2) then .error 6
            else .ok { team := t, seq := n.seq, dealt := 0, ended := 0, profA := field r 384 64, budgets := bs }

/-! ### Maintenance -/

/-- Whether a chain of edges leads from one of some nodes to a node (R280). -/
def State.edgesTo (s : State) (ctx node : Nat) : Nat → List Nat → Bool
  | 0, _ => false
  | fuel + 1, from_ =>
    let next := (s.unfinished.filter (fun n => n.ctx == ctx && from_.contains n.id)).flatMap (·.succs)
    next.contains node || (!next.isEmpty && State.edgesTo s ctx node fuel next)

/-- The common level of some logical dies, as a scope code from die up (R1, R131). -/
def State.commonLevel (s : State) (dies : List Nat) : Nat :=
  let one := fun (f : Nat → Nat) => (dies.map f).eraseDups.length ≤ 1
  if one (fun d => d) then 2 else if one (fun d => s.physDie d / 2) then 3 else if one (fun d => s.physDie d / 4) then 4 else 5

/-- The dies that a node's teams can reach: for a launch those that admit it (R283), else those of the partition (R280). -/
def State.placement (s : State) (n : Node) (l : Option Launch) : List Nat :=
  match l with
  | some l =>
    let able := ((s.partCores n.ctx).filter s.coreAlive).filter (s.dieAdmits l.team)
    let able := if l.team.clvl == 0 then able else able.filter (s.unitFits l.team able (groupSize l.team))
    (able.map dieOf).eraseDups
  | none => match s.partOf n.ctx with | some p => s.partDies p | none => []

/-- The dies and the level of the push that a buffer of a node takes, or its unfinished last writer (R280). -/
def State.maintPlan (s : State) (n : Node) (mine : List Nat) (b : Nat × Bool × Bool) : List Nat × Nat ⊕ Nat :=
  let sys := b.2.2 || n.kind == 2 || n.kind == 3
  let unknown := (s.pkg.dies.filterMap (·.log), if sys then 6 else 5)
  match s.cp.bufs.find? (fun x => x.ctx == n.ctx && x.handle == b.1) with
  | none => .inl unknown
  | some x =>
    match x.writer with
    | none => .inl unknown
    | some w => if x.wdone then .inl (x.wdies, if sys then 6 else s.commonLevel (x.wdies ++ mine)) else .inr w

/-- Maintenance for one buffer of a node that starts on some dies (R280). A last writer that is no launch ran on no die, so that its level is that
of the node's own placement (DESIGN CHOICE, log 133). -/
def State.maintain (s : State) (n : Node) (mine : List Nat) (b : Nat × Bool × Bool) : State :=
  match s.maintPlan n mine b with
  | .inl (dies, lvl) => (if lvl ≥ 3 then dies.foldl State.pushDie s else s).journal 0x0B 0 n.ctx n.id (b.1 + 2 ^ 32 * lvl)
  | .inr w =>
    if s.edgesTo n.ctx n.id s.unfinished.length [w] then s
    else s.journal 0x0A 0 n.ctx n.id (b.1 + 2 ^ 32 * (w % 2 ^ 32))

/-- Whether the fabric holds a push of that maintenance (R342, R343). -/
def State.maintHeld (s : State) (n : Node) (mine : List Nat) : Bool :=
  n.bufs.any (fun b => match s.maintPlan n mine b with
    | .inl (dies, lvl) => decide (lvl ≥ 3) && dies.any (fun d => s.pushHeld d (fun _ => true))
    | .inr _ => false)

/-- Enter a node's use of a buffer in the table: the handle becomes the newest, the oldest of a full table leaves (R279). -/
def State.useBuf (s : State) (n : Node) (b : Nat × Bool × Bool) : State :=
  let mine := fun (x : Buf) => x.ctx == n.ctx && x.handle == b.1
  let x := (s.cp.bufs.find? mine).getD { ctx := n.ctx, handle := b.1, writer := none, wdone := false, wdies := [], readers := [] }
  let x : Buf := if b.2.1 then { x with writer := some n.id, wdone := false, wdies := [] }
    else { x with readers := ((x.readers ++ [n.id]).reverse.take 8).reverse }
  let rest := s.cp.bufs.filter (fun y => !mine y)
  let own := rest.filter (fun y => y.ctx == n.ctx)
  let rest := if own.length ≥ 16384 then rest.erase (own.head?.getD default) else rest
  { s with cp := { s.cp with bufs := rest ++ [x] } }

/-! ### Dealing -/

/-- Cores of a partition in the order of the round: after the core dealt to last (R283). -/
def State.dealOrder (s : State) (cores : List Nat) : List Nat :=
  cores.filter (fun k => k > s.cp.dealAfter) ++ cores.filter (fun k => k ≤ s.cp.dealAfter)

/-- The queue engine that gets the next entry of a launch, and the core after which the round goes on (R283, log 22). -/
def State.dealTo (s : State) (t : Team) (n : Nat) : Option (Nat × Nat) :=
  let cores := (s.partCores t.ctx).filter s.coreAlive
  let able := cores.filter (s.dieAdmits t)
  let room := fun (k : Nat) => decide ((s.queueEngine k).entries.length < Config.engineEntries)
  if t.clvl == 0 then ((s.dealOrder able).find? room).map (fun k => (k, k))
  else
    (s.dealOrder able).findSome? (fun k =>
      let u := s.unitCores t cores k
      match u.head?, u.getLast? with
      | some a, some z => if room a && s.unitFits t able n k then some (a, z) else none
      | _, _ => none)

/-- Deal one entry, if some queue engine takes it. -/
def State.dealEntry (s : State) (t : Team) (q : QEntry) : Option State :=
  (s.dealTo t (q.teamids.length + q.saved.length)).map (fun p =>
    let q := { q with order := s.cp.orderNext }
    let s := s.setEngine ((s.queueEngine p.1).insert q)
    { s with cp := { s.cp with orderNext := s.cp.orderNext + 1, dealAfter := p.2 } })

def State.modLaunch (s : State) (ctx node : Nat) (f : Launch → Launch) : State :=
  { s with cp := { s.cp with launches := s.cp.launches.map (fun (l : Launch) => if l.team.ctx == ctx && l.team.node == node then f l else l) } }

def State.launch? (s : State) (ctx node : Nat) : Option Launch :=
  s.cp.launches.find? (fun l => l.team.ctx == ctx && l.team.node == node)

/-- Deal the teams of a launch that are left, while queue engines take them (R283); the fuel bounds the entries. -/
def State.dealLaunch (s : State) (ctx node : Nat) : Nat → State
  | 0 => s
  | fuel + 1 =>
    match s.launch? ctx node with
    | none => s
    | some l =>
      let n := Nat.min (groupSize l.team) (l.team.teams - l.dealt)
      if n == 0 then s
      else
        let q : QEntry := { ctx := ctx, node := node, prio := l.team.prio, order := 0
                            teamids := (List.range n).map (· + l.dealt), saved := [] }
        match s.dealEntry l.team q with
        | none => s
        | some s => State.dealLaunch (s.modLaunch ctx node (fun l => { l with dealt := l.dealt + n })) ctx node fuel

/-- The team shape of an entry: of its saved team, or of its launch. -/
def State.entryTeam (s : State) (q : QEntry) : Option Team :=
  match q.saved with
  | serial :: _ => (s.saved.find? (fun v => v.team.serial == serial)).map (·.team)
  | [] => (s.launch? q.ctx q.node).map (·.team)

/-- Whether an entry can ever be admitted where it stands (R383): the core is in service and its die, or enough of its unit, admits. -/
def State.entryFits (s : State) (core : Nat) (q : QEntry) : Bool :=
  match s.entryTeam q with
  | none => true
  | some t =>
    let able := (s.partCores t.ctx).filter (fun k => s.coreAlive k && s.dieAdmits t k)
    if t.clvl == 0 then able.contains core else s.unitFits t able (q.teamids.length + q.saved.length) core

/-- Saved groups that stand in no queue engine, by their first team. -/
def State.strayGroups (s : State) (ctx node : Nat) : List Team :=
  (s.saved.filter (fun v => v.team.ctx == ctx && v.team.node == node && v.status == 1
    && !s.cp.engines.any (fun e => e.entries.any (fun q => q.saved.contains v.team.serial)))).map (·.team)

/-- Entries of a launch that a queue engine must give up (R327, R383): of a core out of service those at its front, so that all of them
keep their order; of another a head that can no longer be admitted where it stands. -/
def State.stuckOf (s : State) (ctx node : Nat) (e : QEngine) : List QEntry :=
  let mine := fun (q : QEntry) => q.ctx == ctx && q.node == node
  if s.coreAlive e.core then (e.entries.take 1).filter (fun q => mine q && !s.entryFits e.core q) else e.entries.takeWhile mine

/-- Deal again what a core's queue engine gives up, in the order in which it stood, as far as some queue engine takes it (R327). -/
def State.redealFrom (s : State) (core : Nat) : List QEntry → State
  | [] => s
  | q :: l =>
    match s.entryTeam q with
    | none => s
    | some t =>
      let e := s.queueEngine core
      match (s.setEngine { e with entries := e.entries.filter (· != q), headWait := 0 }).dealEntry t q with
      | some s => State.redealFrom s core l
      | none => s

/-- Deal entries again, by core. -/
def State.redeal (s : State) (ctx node : Nat) : State :=
  let s := (inOrder (fun (a b : QEngine) => decide (a.core ≤ b.core)) s.cp.engines).foldl (fun s e =>
    s.redealFrom e.core (s.stuckOf ctx node e)) s
  (s.strayGroups ctx node).foldl (fun s t => s.requeue t) s

/-- TEAM_DEAL: teams of a launch that found no room are dealt when there is some; entries that must be are dealt again (R283, R327,
R383, R291). -/
def execTeamDeal (ctx node : Nat) (s : State) : Out :=
  .next ((s.redeal ctx node).dealLaunch ctx node (match s.launch? ctx node with | some l => l.team.teams | none => 0))

/-! ### Starts -/

/-- Room for n journal records (R273). -/
def State.journalRoomFor (s : State) (n : Nat) : Bool := decide (s.cp.wseq + s.recordsDue - s.cp.cons + n ≤ s.cp.records)

def State.node? (s : State) (ctx node : Nat) : Option Node := s.unfinished.find? (fun n => n.ctx == ctx && n.id == node)

/-- The launch record that a node names: the context, and its virtual address where the node is a launch with a path (R275, R276). -/
def State.recordVa (s : State) (n : Node) : Option Nat :=
  if n.kind != 1 then none
  else ((s.rcbPath { s.ctxOf n.ctx with id := n.ctx } n.arg0).bind List.head?).bind (fun p => let a := field p.2 384 64; if a == 0 then none else some a)

/-- Whether the command processor's read of a launch record waits (R117, R300). -/
def State.recordHeld (s : State) (n : Node) : Bool :=
  let x := s.ctxOf n.ctx
  match s.recordVa n with
  | some va => (readVas va 64).any (fun a => s.pinHeld 0 x.abase x.secure a (Nat.min 64 (65536 - a % 65536)) .read)
  | none => false

/-- Whether the maintenance of a node that would start waits. -/
def State.beginHeld (s : State) (n : Node) : Bool :=
  if n.kind == 1 then (match s.checkLaunch n with | .ok l => s.maintHeld n (s.placement n (some l)) | .error _ => false)
  else s.maintHeld n (s.placement n none)

/-- A node of a kind that may start now: its count is zero and the journal has room (R273, R278). -/
def State.startable (s : State) (ctx node kind : Nat) : Option Node :=
  match s.node? ctx node with
  | none => none
  | some n => if n.kind == kind && n.st == .waiting && n.pred == 0 && s.awake && !s.cp.failed && s.journalRoomFor (1 + n.bufs.length)
      && !s.recordHeld n && !s.beginHeld n then some n else none

def State.modNode (s : State) (n : Node) (f : Node → Node) : State :=
  { s with cp := { s.cp with nodes := s.cp.nodes.map (fun (x : Node) => if x == n then f x else x) } }

/-- The maintenance of a node and its START (R278, R280). -/
def State.begin (s : State) (n : Node) (l : Option Launch := none) : State :=
  let mine := s.placement n l
  let s := n.bufs.foldl (fun s b => s.maintain n mine b) s
  let s := n.bufs.foldl (fun s b => s.useBuf n b) s
  (s.journal 0x03 0 n.ctx n.id 0).modNode n (fun n => { n with st := .started })

/-- A node is over: its copy in the node store stays, done, while it names a successor that is not over, or goes at once where it was
refused; no edge to it is kept (R329). -/
def State.dropCopy (s : State) (n : Node) (fin : Bool) : State :=
  let own := fun (c : Node) => c.ctx == n.ctx && c.id == n.id && c.seq == n.seq
  let l := (s.cp.nstore.filter (fun c => fin || !own c)).map (fun (c : Node) =>
    let c := if own c then { c with st := NodeSt.done } else c
    if c.st == NodeSt.done && c.ctx == n.ctx then { c with succs := c.succs.filter (· != n.id) } else c)
  { s with cp := { s.cp with nstore := l.filter (fun c => c.st != NodeSt.done || !c.succs.isEmpty) } }

/-- LAUNCH: a node starts (R278, R280, R383, R136, R357): refused, or its teams are dealt. -/
def execLaunch (ctx node : Nat) (s : State) : Out :=
  match s.startable ctx node 1 with
  | none => .next s
  | some n =>
    let x := s.ctxOf ctx
    let read := fun (s : State) => s.engineUse 0 x.abase x.secure ((s.recordVa n).toList.flatMap (readVas · 64))
    match s.checkLaunch n with
    | .error c =>
      /- a path that is refused leads to no record -/
      let s := (if c == 2 then s else read s).journal 0x02 n.queue ctx node c
      .next (({ s with cp := { s.cp with nodes := s.cp.nodes.filter (· != n) } } : State).dropCopy n false).setJstall
    | .ok l =>
      let s := read s
      let s := (((s.begin n (some l)).noteTables ((s.rcbPath (s.ctxOf ctx) n.arg0).getD [])).dropFetch ctx).setJstall
      let s := { s with cp := { s.cp with launches := s.cp.launches ++ [l] } }
      let m := s.rr.mode
      let s : State := if (m == 1 || m == 2) && s.rr.ctx == ctx && s.rr.node == node then
        { s with rr := { s.rr with
          run := some { mode := m, ctx := ctx, node := node, lbase := s.rr.lbase, llog := s.rr.llog }
          clocks := [], tabs := [], tags := [], log := [], lwp := 0 } } else s
      .next (s.dealLaunch ctx node l.team.teams)

/-! ### Finishes -/

/-- The profile of a launch: BUSY and IDLE of its tag for each core, then cleared (R286). -/
def State.writeProfile (s : State) (t : Team) (profA : Nat) : State :=
  if profA == 0 then s
  else
    let x := s.ctxOf t.ctx
    let s := s.allCores.foldl (fun (s : State) k =>
      let p := (s.cp.prof.find? (fun p => p.core == k && p.tag == t.ptag)).getD { core := k, tag := t.ptag, busy := 0, idle := 0 }
      s.cpPinnedWrite 0 x (profA + 16 * s.coreNo k) (toBytes 8 p.busy ++ toBytes 8 p.idle)) s
    { s with cp := { s.cp with prof := s.cp.prof.filter (fun p => p.tag != t.ptag) } }

/-- Whether every effect of a launch's teams is over (R278). -/
def State.launchOver (s : State) (l : Launch) : Bool :=
  let mine := (s.teams.filter (fun t => t.ctx == l.team.ctx && t.node == l.team.node)).map (·.serial)
  l.dealt == l.team.teams && l.ended == l.team.teams
    && !s.copies.any (fun c => mine.contains c.serial) && !s.accs.any (fun a => mine.contains a.serial)
    && !s.accq.any (fun e => mine.contains e.serial) && !s.dictlds.any (fun d => mine.contains d.serial)
    && !s.teams.any (fun t => mine.contains t.serial && !t.released)

/-- Whether what a launch leaves at its end waits: the pushes of its dies, its profile (R117, R300, R342, R343). -/
def State.endHeld (s : State) (n : Node) (l : Launch) : Bool :=
  let x := s.ctxOf n.ctx
  n.ran.any (fun d => s.pushHeld d (fun _ => true))
    || l.profA != 0 && s.allCores.any (fun k => s.pinHeld 0 x.abase x.secure (l.profA + 16 * s.coreNo k) 16 .write)

/-- Whether a started node has nothing left to do (R278). -/
def State.nodeOver (s : State) (n : Node) : Bool :=
  n.st == NodeSt.started && (n.kind != 1 || match s.launch? n.ctx n.id with | some l => s.launchOver l && !s.endHeld n l | none => true)

/-- What the end of a launch leaves: writes visible to the package, its profile, its reduced log (R278, R286, R358). -/
def State.endLaunch (s : State) (n : Node) : State :=
  match s.launch? n.ctx n.id with
  | none => s
  | some l =>
    let s := (n.ran.foldl State.pushDie s).writeProfile l.team l.profA
    let s := s.endRecord n.ctx n.id
    { s with
      teams := s.teams.filter (fun t => !(t.ctx == n.ctx && t.node == n.id))
      cp := { s.cp with launches := s.cp.launches.filter (fun l => !(l.team.ctx == n.ctx && l.team.node == n.id)) } }

/-- A node finishes: FINISH, then its successors in list order (R278). -/
def State.finishNode (s : State) (n : Node) : State :=
  let bad := n.bad || s.teams.any (fun t => t.ctx == n.ctx && t.node == n.id && t.killed)
  let s := (s.endLaunch n).journal 0x04 0 n.ctx n.id (ofBool bad)
  let s := { s with cp := { s.cp with
    nodes := s.cp.nodes.filter (fun x => !(x.ctx == n.ctx && x.id == n.id && x.st == NodeSt.started))
    bufs := s.cp.bufs.map (fun (b : Buf) =>
      if b.ctx == n.ctx then
        { b with
          wdone := b.wdone || b.writer == some n.id, wdies := if !b.wdone && b.writer == some n.id then n.ran else b.wdies
          readers := b.readers.filter (· != n.id) } else b) } }
  (n.succs.foldl (fun (s : State) k => s.decrement n.ctx k n.id) (s.dropCopy n true)).setJstall

/-- NODE_FINISH (R278). -/
def execNodeFinish (ctx node : Nat) (s : State) : Out :=
  match s.node? ctx node with
  | none => .next s
  | some n => if s.nodeOver n && s.journalRoom && !s.cp.failed then .next (s.finishNode n) else .next s

/-- NOP_COMMAND: it starts and finishes at once, when the journal has room for both records (R278). -/
def execNopCommand (ctx node : Nat) (s : State) : Out :=
  match s.startable ctx node 0 with
  | none => .next s
  | some n =>
    let s := s.begin n
    if s.journalRoom then .next (s.finishNode { n with st := .started }) else .next s

/-! ### COPY and SIGNAL -/

/-- Poison that a copy of the command processor carries from its source sectors; the stacks count the sectors that are newly poisoned
(R125, R326). -/
def State.carryPoison (s : State) (src dst n : Nat) (bad : List Nat) : State :=
  let hit := (sectorsOf dst n).filter (fun k =>
    let lo := Nat.max dst (256 * k)
    let hi := Nat.min (dst + n) (256 * k + 256)
    bad.any (fun b => decide (256 * b < src + (hi - dst)) && decide (src + (lo - dst) < 256 * b + 256)))
  (hit.filter (fun k => !s.store.poison.contains k)).foldl (fun (s : State) k =>
    ({ s with store := { s.store with poison := k :: s.store.poison } } : State).countErrs ((s.homeStack (256 * k)).getD 0) 0 1) s

/-- A copy by the command processor: what it reads is checked, and poison goes with the bytes (R125, R278, R324). -/
def State.cpCopy (s : State) (src dst n : Nat) : State :=
  let s := s.check (.phys src) n
  (s.agentWrite dst (s.store.mem.bytes src n)).carryPoison src dst n s.store.poison

/-- COPY_COMMAND: the bytes are copied at `.sys`, all at once (R278, log 23). At an address that no tower holds nothing is copied, and the command
finishes (DESIGN CHOICE, log 132). -/
def execCopyCommand (ctx node : Nat) (s : State) : Out :=
  match s.startable ctx node 2 with
  | none => .next s
  | some n =>
    if s.rangeHeld n.arg0 n.arg2 || s.rangeHeld n.arg1 n.arg2 then .next s
    else
      let s := s.begin n
      if n.arg2 == 0 || !s.located n.arg0 || !s.located (n.arg0 + n.arg2 - 1) || !s.located n.arg1 || !s.located (n.arg1 + n.arg2 - 1) then .next s
      else .next (s.cpCopy n.arg0 n.arg1 n.arg2)

/-- SIGNAL_COMMAND: an 8-byte release store at `.sys` to a physical address (R278); one that no tower holds takes nothing (DESIGN CHOICE, log 132). -/
def execSignalCommand (ctx node : Nat) (s : State) : Out :=
  match s.startable ctx node 3 with
  | none => .next s
  | some n =>
    if s.rangeHeld n.arg0 8 then .next s
    else
      let s := s.begin n
      .next (if s.located n.arg0 then s.agentWrite n.arg0 (toBytes 8 n.arg1) else s)

end Sys2Proof.Machine
end

