-- ==== Sys2Proof/Machine/Admit.lean ====
section
/-! DEFINITION. Admission, restore, stealing, pre-emption (14 R281, R282, R284, R285, R288, R291; 01 R27 to R29, R34), the end of teams
(R27). -/
namespace Sys2Proof.Machine

/-! ### Room -/

/-- Crew slots in use on a core. -/
def State.slotsOf (s : State) (core : Nat) : List Nat := (s.crews.filter (fun c => c.core == core)).map (·.slot)

/-- Free slots of a core for the schedulers, lowest first (R12, R27). -/
def State.freeSlots (s : State) (core : Nat) : List Nat := (List.range 64).filter (fun k => !(s.slotsOf core).contains k)

/-- Slots for the crews of a team: crew k takes the lowest free slot of scheduler k mod 4 (R27); none when one finds none. -/
def takeSlots : Nat → Nat → List Nat → Option (List Nat)
  | _, 0, _ => some []
  | k, n + 1, free =>
    match free.find? (fun x => x % 4 == k % 4) with
    | none => none
    | some x => (takeSlots (k + 1) n (free.filter (· != x))).map (fun l => x :: l)

/-- Whether every budget in force on a team's path still holds with it (R276). -/
def State.budgetsHold (s : State) (t : Team) : Bool :=
  let bs := match s.launch? t.ctx t.node with | some l => l.budgets | none => []
  bs.all (fun b =>
    let under := s.teams.filter (fun u => u.ctx == t.ctx && (u.rcb == b.1 || u.path.contains b.1))
    let crews := ((under.filter (fun u => !u.ended)).map (·.crews)).sum
    let scr := ((under.filter (fun u => !u.released)).map (·.scrK)).sum
    (b.2.1 == 0 || crews + t.crews ≤ b.2.1) && (b.2.2 == 0 || scr + t.scrK ≤ b.2.2))

/-- Whether a core can take a team apart from the budgets: slots, scratchpad, tiles, reservation, its die, no stopped scheduler (R27,
R38, R50, R383, R349). -/
def State.coreTakes (s : State) (t : Team) (core : Nat) : Bool :=
  let here := s.teams.filter (fun u => u.core == core)
  s.coreAlive core && s.dieAdmits t core && (takeSlots 0 t.crews (s.freeSlots core)).isSome
    && ((here.filter (fun u => !u.released)).map (·.scrK)).sum + t.scrK ≤ Config.scratchKiB
    && (here.map (fun u => if u.ended then u.tile.length else u.tiles)).sum + t.tiles ≤ Config.coreTiles
    && ((here.filter (fun u => !u.ended)).map (fun u => u.crews * u.regmin)).sum + t.crews * t.regmin ≤ Config.bankReservable
    && !(s.debugOf core).scheds.any (·.stopped)

/-- The lowest free team slot of a spill pool (R282). -/
def State.freeTeamSlot (s : State) (t : Team) : Option Nat :=
  let used := ((s.teams.filter (fun u => u.ctx == t.ctx && u.spb == t.spb && !u.ended)).map (·.slot))
    ++ ((s.saved.filter (fun v => v.team.ctx == t.ctx && v.team.spb == t.spb)).map (fun v => v.team.slot))
  (List.range t.tslots).find? (fun k => !used.contains k)

/-! ### Placing -/

/-- The next unused team serial: there is one among as many numbers as there are teams, and one more (R254). -/
def State.newSerial (s : State) : Nat :=
  let used := fun (k : Nat) => s.teams.any (fun t => t.serial == k && !t.released) || s.saved.any (fun v => v.team.serial == k)
  (((List.range (s.teams.length + s.saved.length + 1)).map (fun k => (s.cp.serialNext + k) % 2 ^ 24)).find? (fun k => !used k)).getD s.cp.serialNext

/-- A thread at its start (R34). -/
def startThread (epc : DWord) (cycle : Nat) : Thread :=
  { (default : Thread) with pc := epc, st := .ready, idx := List.replicate 8 0, lastIssue := cycle }

/-- Admission order: cycle, ACCEPT record of the launch, teamid, crewid (R52). -/
def admitOrder (cycle seq teamid crew : Nat) : Nat := ((cycle * 2 ^ 64 + seq) * 2 ^ 24 + teamid) * 16 + crew

/-- A crew at its start (R12, R34, R160). -/
def startCrew (x : Ctx) (t : Team) (id slot cycle seq : Nat) : Crew :=
  { (default : Crew) with
    team := t.serial, id := id, core := t.core, slot := slot, creg := List.replicate 64 0, rot := 31, asid := x.abase, secure := x.secure
    fdom := t.fdom, privBase := t.privB, privSize := 4096 * t.privP, threads := List.replicate 32 (startThread t.epc cycle)
    bundles := [allLanes], order := admitOrder cycle seq t.teamid id, owed := true }

/-- A team of a launch becomes resident on a core (R27, R282). -/
def State.placeNew (s : State) (l : Launch) (teamid core : Nat) : State :=
  match s.freeTeamSlot l.team, takeSlots 0 l.team.crews (s.freeSlots core) with
  | some slot, some slots =>
    let serial := s.newSerial
    let t : Team := { l.team with serial := serial, teamid := teamid, core := core, slot := slot, tile := List.replicate l.team.tiles [] }
    let x := s.ctxOf t.ctx
    let s := { s with
      crews := s.crews ++ (slots.zipIdx).map (fun (p : Nat × Nat) => startCrew x t p.2 p.1 s.cycle l.seq)
      teams := s.teams ++ [t]
      cp := { s.cp with
        serialNext := (serial + 1) % 2 ^ 24
        nodes := s.cp.nodes.map (fun (n : Node) =>
          if n.ctx == t.ctx && n.id == t.node && n.st == NodeSt.started && !n.ran.contains (dieOf core) then { n with ran := n.ran ++ [dieOf core] } else n) } }
    s.updateLive t
  | _, _ => s

/-- A saved team becomes resident on a core: its area is read back, and what was recorded for it is applied (R291). An area that cannot
be read loses the context (log 24). -/
def State.placeSaved (s : State) (serial core : Nat) : State :=
  match s.saved.find? (fun v => v.team.serial == serial && v.status == 1) with
  | none => s
  | some v =>
    let s := s.areaUse v (saveBytes v.team) .read
    match s.restoreRead v, takeSlots 0 v.team.crews (s.freeSlots core) with
    | .error e, _ => s.loseContext v e
    | _, none => s
    | .ok (t, cs), some slots =>
      let t := { t with core := core }
      let seq := match s.launch? t.ctx t.node with | some l => l.seq | none => 0
      let crew := fun (c : Crew) => { c with
        core := core, slot := (slots[c.id]?).getD 0, order := admitOrder s.cycle seq t.teamid c.id
        threads := c.threads.map (fun (h : Thread) => { h with lastIssue := s.cycle }) }
      let s := { s with
        crews := s.crews ++ cs.map crew
        teams := s.teams ++ [t]
        accs := s.accs ++ v.accs.map (fun (a : Acc) => { a with core := core })
        saved := s.saved.filter (fun (x : Saved) => x.team.serial != serial)
        cp := { s.cp with nodes := s.cp.nodes.map (fun (n : Node) =>
          if n.ctx == t.ctx && n.id == t.node && n.st == NodeSt.started && !n.ran.contains (dieOf core) then { n with ran := n.ran ++ [dieOf core] } else n) } }
      let s := ((s.saveStatus v 2).updateLive t).journal 0x07 0 t.ctx t.node (serial % 2 ^ 24 + 2 ^ 32 * (s.coreNo core % 1024))
      (s.opFinish v.op).applyActs serial v.acts

/-- Whether the registers of a saved team find entries on a core (R50, R291). -/
def State.entriesFit (s : State) (serial core : Nat) : Bool :=
  match s.saved.find? (fun v => v.team.serial == serial) with
  | none => true
  | some v =>
    let all := fun (c : Crew) (l : Nat) => (c.thread l).regs.length + (c.frames.map (fun f => (((f.lanes[l]?).getD default).regs).length)).sum
    (List.range 32).all (fun l => decide ((v.crews.map (fun c => Nat.max (all c l) v.team.regmin)).sum ≤ s.sharedFree core l))

/-- A member of an entry: a team of its launch by teamid, or a saved team by serial. -/
inductive Member | new (teamid : Nat) | saved (serial : Nat)
deriving DecidableEq, Repr

/-- Whether a core can take a member now: R282 (R276, R27, R50, R291). -/
def State.takes (s : State) (t : Team) (m : Member) (core : Nat) : Bool :=
  s.coreTakes t core && s.budgetsHold t && match m with
    | .new _ => (s.freeTeamSlot t).isSome
    | .saved serial => s.entriesFit serial core && !s.saved.any (fun v => v.team.serial == serial && s.areaHeld v (saveBytes v.team) .read)

/-- The core with the most free crew slots among those that take a member, lowest coreid on a tie (R282). -/
def State.bestCore (s : State) (t : Team) (m : Member) (cores : List Nat) : Option Nat :=
  (cores.filter (s.takes t m)).foldl (fun best k => match best with
    | none => some k
    | some b => if (s.freeSlots k).length > (s.freeSlots b).length then some k else some b) none

/-- Place the members of an entry, in order, on some cores: all of them or none (R28, R282). -/
def State.placeAll (s : State) (l : Launch) (t : Team) (cores : List Nat) : List Member → Option State
  | [] => some s
  | m :: ms =>
    match s.bestCore t m cores with
    | none => none
    | some k =>
      let s := match m with | .new teamid => s.placeNew l teamid k | .saved serial => s.placeSaved serial k
      State.placeAll s l t cores ms

/-- Members of an entry in teamid order. -/
def State.members (s : State) (q : QEntry) : List Member :=
  let id := fun (serial : Nat) => match s.saved.find? (fun v => v.team.serial == serial) with | some v => v.team.teamid | none => 0
  q.teamids.map .new ++ (inOrder (fun a b => decide (id a ≤ id b)) q.saved).map .saved

/-- Admit the head of a core's queue engine, if every condition of R282 holds: a lone team on this core, a group in this core's unit of
its level (R28, R29). -/
def State.tryAdmit (s : State) (core : Nat) : Option State :=
  let e := s.queueEngine core
  match e.entries with
  | [] => none
  | q :: rest =>
    match s.entryTeam q, s.launch? q.ctx q.node with
    | some t, some l =>
      let cores := if t.clvl == 0 then [core] else s.unitCores t (s.partCores t.ctx) core
      let ms := s.members q
      if !s.coreAlive core || !s.journalRoomFor q.saved.length then none
      else (s.setEngine { e with entries := rest, headWait := 0 }).placeAll l t cores ms
    | _, _ => none

/-- Head of a queue engine. -/
def State.head? (s : State) (core : Nat) : Option QEntry := (s.queueEngine core).entries.head?

/-- Whether the head of a core's queue engine is a group, and whether it has started. -/
def State.headIs (s : State) (core : Nat) (group started : Bool) : Bool :=
  match s.head? core with
  | none => false
  | some q => (match s.entryTeam q with | some t => (t.clvl != 0) == group | none => false) && !q.saved.isEmpty == started

/-- TEAM_ADMIT: a queue engine admits its head, a lone team that has not started (R282). -/
def execTeamAdmit (core : Nat) (s : State) : Out :=
  if s.headIs core false false then .next ((s.tryAdmit core).getD s) else .next s

/-- COHORT_ADMIT: the command processor admits a group that has not started, all its teams at once (R28, R282). -/
def execCohortAdmit (core : Nat) (s : State) : Out :=
  if s.headIs core true false && !s.cp.failed then .next ((s.tryAdmit core).getD s) else .next s

/-- A CTXREST of an area whose teams no unit can admit even when it is empty is refused: status 4 (R260, R261). -/
def State.restRefused (s : State) (v : Saved) : Bool :=
  let able := (s.partCores v.team.ctx).filter (fun k => s.coreAlive k && s.dieAdmits v.team k)
  v.op.isSome && v.status == 1
    && !able.any (fun k => if v.team.clvl == 0 then decide (1 ≤ coreFits v.team) else s.unitFits v.team able (s.savedGroup v.team).length k)

/-- Refuse the restore of a saved team (R260). -/
def State.refuseRest (s : State) (v : Saved) : State :=
  let s := ((s.saveStatus v 4).opFinish v.op).unqueue v.team.serial
  { s with saved := s.saved.map (fun (x : Saved) => if x.team.serial == v.team.serial then { x with status := 4, op := none } else x) }

/-- Readmit the group of a saved team whose area a CTXREST has handed over, wherever its partition can take it now (R261, R27 to R29,
R291). -/
def State.tryHanded (s : State) (v : Saved) : Option State :=
  let g := s.savedGroup v.team
  if v.op.isNone || g.any (fun x => x.status != 1) || !s.journalRoomFor g.length || v.team.clvl != 0 && s.cp.failed then none
  else
    match s.launch? v.team.ctx v.team.node with
    | none => none
    | some l =>
      let able := (s.partCores v.team.ctx).filter (fun k => s.coreAlive k && s.dieAdmits v.team k)
      let ms := (inOrder (fun (a b : Saved) => decide (a.team.teamid ≤ b.team.teamid)) g).map (fun x => Member.saved x.team.serial)
      let s := g.foldl (fun s x => s.unqueue x.team.serial) s
      if v.team.clvl == 0 then s.placeAll l v.team able ms
      else able.findSome? (fun k => s.placeAll l v.team (s.unitCores v.team able k) ms)

/-- TEAM_RESTORE: a saved team, with its group, is made resident when its entry is the head of a core's queue engine, or its area has been
handed over (R29, R261, R291). -/
def execTeamRestore (team core : Nat) (s : State) : Out :=
  match s.saved.find? (fun v => v.team.serial == team) with
  | none => .next s
  | some v =>
    if s.restRefused v then .next ((s.savedGroup v.team).foldl State.refuseRest s)
    else if v.op.isSome then .next ((s.tryHanded v).getD s)
    else
      match s.head? core with
      | none => .next s
      | some q => if q.saved.contains team && !(v.team.clvl != 0 && s.cp.failed) then .next ((s.tryAdmit core).getD s) else .next s

/-! ### The end of a team -/

/-- A team whose crews have all exited ends: its crews leave their slots, its launch counts it (R27). Its tiles
stay for its queued entries, which complete (R159). -/
def State.endTeams (s : State) : State :=
  (s.teams.filter (fun t => !t.ended && s.crews.all (fun c => c.team != t.serial || c.live == 0))).foldl (fun (s : State) t =>
    let s := { s with
      crews := s.crews.filter (fun c => c.team != t.serial)
      accq := s.accq.filter (fun e => e.serial != t.serial || e.granted)
      teams := s.teams.map (fun (u : Team) => if u.serial == t.serial then { u with ended := true } else u) }
    ((s.freeTiles t.serial).teamOver t).updateLive t) s

/-! ### Stealing -/

/-- One step of the LFSR of R284. -/
def lfsrNext (l : Nat) : Nat :=
  let b := fun (k : Nat) => ofBool (bit l k)
  (2 * l + (b 15 + b 13 + b 12 + b 10) % 2) % 65536

/-- The victim of a thief at a level, 1 cluster to 5 package: core L mod n of its own unit; the thief's own index, and cores out of
service, give way to the next (R284, R345). -/
def State.stealVictim (s : State) (core level l : Nat) : Option Nat :=
  let u := s.allCores.filter (fun k => s.unitOf level k == s.unitOf level core)
  let n := u.length
  ((List.range n).filterMap (fun j => u[(l % n + j) % n]?)).find? (fun k => k != core && s.coreAlive k)

/-- Whether a core may send steal requests (R284). -/
def State.maySteal (s : State) (core : Nat) : Bool :=
  let e := s.queueEngine core
  s.coreAlive core && e.entries.isEmpty && !(s.freeSlots core).isEmpty && e.asked.isNone && e.backoff == 0 && s.awake

/-- STEAL_REQUEST (R284): the LFSR steps, and the next victim is asked; two requests at each level. -/
def execStealRequest (core : Nat) (s : State) : Out :=
  if !s.maySteal core then .next s
  else
    let e := s.queueEngine core
    let l := lfsrNext e.lfsr
    .next (s.setEngine { e with lfsr := l, requests := e.requests + 1, asked := some ((s.stealVictim core (1 + e.requests / 2) l).getD core) })

/-- Whether an entry may move from a victim to a thief: within its partition (R250), its reach and its level (R285). -/
def State.mayMove (s : State) (victim thief : Nat) (q : QEntry) : Bool :=
  match s.entryTeam q with
  | none => false
  | some t => q.saved.isEmpty && s.inPartition t.ctx thief && s.unitOf (t.slvl + 1) thief == s.unitOf (t.slvl + 1) victim
      && (t.clvl == 0 || s.unitOf t.clvl thief == s.unitOf t.clvl victim)

/-- The entries that a victim gives, from its tail, as many as the thief has places for (R281, R285, log 25). -/
def State.given (s : State) (victim thief : Nat) : List QEntry :=
  let qs := (s.queueEngine victim).entries.reverse
  let ok := s.mayMove victim thief
  let group := fun (q : QEntry) => match s.entryTeam q with | some t => t.clvl != 0 | none => false
  let run := (qs.takeWhile (fun q => ok q && !group q)).take (Nat.max 1 (qs.length / 2))
  (if run.isEmpty then (qs.find? ok).toList else run).take (Config.engineEntries - (s.queueEngine thief).entries.length)

/-- STEAL_ANSWER (R285): the entries leave the victim and join the thief in one step. No core die runs in ZEPHYR and CALM (R377), where the
answer waits. After entries have been taken the rounds begin again at cluster level; where an entry has been dealt to the thief meanwhile, its
round goes on later at the level it had reached (DESIGN CHOICE, log 131). -/
def execStealAnswer (victim thief : Nat) (s : State) : Out :=
  let e := s.queueEngine thief
  if e.asked != some victim || s.host.cur.depth ≥ 2 then .next s
  else
    let l := if victim == thief then [] else s.given victim thief
    let v := s.queueEngine victim
    let gone := v.entries.filter (fun q => !l.contains q)
    let s := if l.isEmpty then s else s.setEngine { v with entries := gone, headWait := if gone.head? == v.entries.head? then v.headWait else 0 }
    let e := l.reverse.foldl QEngine.insert { e with asked := none }
    .next (s.setEngine (if !l.isEmpty then { e with requests := 0 }
      else if e.requests ≥ 10 then { e with requests := 0, backoff := 1025 } else e))

/-- STEAL_BACKOFF_EXPIRY: 1,024 cycles after its last request a thief starts again (R284). -/
def execStealBackoffExpiry (core : Nat) (s : State) : Out :=
  let e := s.queueEngine core
  if e.backoff == 1 then .next (s.setEngine { e with backoff := 0 }) else .next s

/-! ### Pre-emption -/

/-- Victims for the head of a queue engine, lowest priority first, then most recently admitted first (R288): one team or cohort each. -/
def State.victims (s : State) (core : Nat) (t : Team) : List (List Team) :=
  let mine := fun (u : Team) => if t.clvl == 0 then u.core == core else s.unitOf t.clvl u.core == s.unitOf t.clvl core
  let age := fun (u : Team) => ((s.crews.filter (fun c => c.team == u.serial)).map (·.order)).foldl Nat.max 0
  let cand := s.teams.filter (fun u => mine u && !u.ended && u.prio < t.prio && !s.saving u.serial)
  (inOrder (fun a b => decide (a.prio < b.prio) || a.prio == b.prio && decide (age a ≥ age b)) cand).map (fun u =>
    (s.cohortOf u).filter (fun w => !w.ended))

/-- The state as if some teams had been saved: they keep their team slots (R289). -/
def State.without (s : State) (serials : List Nat) : State :=
  let gone := s.teams.filter (fun t => serials.contains t.serial && !s.saving t.serial)
  { s with
    saved := s.saved ++ gone.map (fun (t : Team) => { (default : Saved) with team := t })
    crews := s.crews.filter (fun c => !serials.contains c.team), teams := s.teams.filter (fun t => !serials.contains t.serial) }

/-- Take victims until the head would fit (R288); none when no set of them makes room. -/
def State.takeVictims (s : State) (core : Nat) (taken : List Nat) : List (List Team) → Option (List Nat)
  | [] => if ((s.without taken).tryAdmit core).isSome then some taken else none
  | g :: gs =>
    if ((s.without taken).tryAdmit core).isSome then some taken
    else State.takeVictims s core (taken ++ (g.map (·.serial)).filter (fun k => !taken.contains k)) gs

/-- PREEMPTION_START: a head that has waited 4,096 cycles has less urgent teams saved (R288, R292). When only budgets block it, the
victims are taken inside their subtrees. -/
def execPreemptionStart (core : Nat) (s : State) : Out :=
  let e := s.queueEngine core
  match e.entries with
  | [] => .next s
  | q :: _ =>
    match s.entryTeam q with
    | none => .next s
    | some t =>
      if e.headWait < 4096 || s.cp.failed || (s.tryAdmit core).isSome then .next s
      else
        let free : State := { s with cp := { s.cp with launches := s.cp.launches.map (fun (l : Launch) => { l with budgets := [] }) } }
        let only := fun (b : Nat × Nat × Nat) => ({ s with cp := { s.cp with launches := s.cp.launches.map (fun (l : Launch) => { l with budgets := [b] }) } } : State)
        let bs := match s.launch? t.ctx t.node with
          | some l => (l.budgets.filter (fun b => ((only b).tryAdmit core).isNone)).map (fun (b : Nat × Nat × Nat) => b.1)
          | none => []
        let vs := s.victims core t
        let vs := if (free.tryAdmit core).isSome then vs.filter (fun g => g.any (fun u => u.ctx == t.ctx && bs.any (fun b => u.rcb == b || u.path.contains b))) else vs
        let s := s.setEngine { e with headWait := 0 }
        match s.takeVictims core ((s.saved.filter (fun (v : Saved) => v.status == 0)).map (fun (v : Saved) => v.team.serial)) vs with
        | none => .next s
        | some l => .next (l.foldl (fun (s : State) k => match s.findTeam k with
          | none => s
          | some u => if s.saving k then s else s.startSave u (u.saveB + u.slot * saveSize u) (s.ctxOf u.ctx).abase (s.ctxOf u.ctx).secure none) s)

end Sys2Proof.Machine
end

