-- ==== Sys2Proof/Machine/Float.lean ====
section
/-! DEFINITION. The meanings of the vector floating-point, conversion and packing instructions (09 R192 to R205). -/
namespace Sys2Proof.Machine

/-- The float type FT of MOD[1:0] (R192). -/
def ftFmt (m : BitVec 6) : FFmt :=
  match field m.toNat 0 2 with
  | 0 => ffF32
  | 1 => ffF64
  | 2 => ffBF16
  | _ => ffF16

/-- A float instruction of format FT: result encoding and flags from the operands' encodings (R192). -/
def floatOp (h : Hdr) (m : BitVec 6) (len : Nat) (srcs : List Src) (g : FFmt → List Nat → FRes) : LaneOp :=
  let two := ft64 m.toNat
  { h := h, srcs := srcs.map (fun x => (useW two, x)), k := regsOf two, len := len, f := ownLane (g (ftFmt m)) }

/-- Exact value and invalid flag, then one rounding (R194). -/
def rounded (F : FFmt) (r : FVal × Nat) : FRes :=
  let x := fround F r.1
  (x.1, orF x.2 r.2)

def faddE (F : FFmt) (a b : Nat) : FRes := rounded F (addV (fdecode F a) (fdecode F b))
def fsubE (F : FFmt) (a b : Nat) : FRes := rounded F (addV (fdecode F a) (negV (fdecode F b)))
def fmulE (F : FFmt) (a b : Nat) : FRes := rounded F (mulV (fdecode F a) (fdecode F b))
def ffmaE (F : FFmt) (a b c : Nat) : FRes := rounded F (fmaV (fdecode F a) (fdecode F b) (fdecode F c))

/-- FADD (R194). -/
def execFadd (f : F64) (s : State) : Out := runLane (floatOp f.h f.mod 8 [f.s1, f.s2] (fun F v => faddE F (val v 0) (val v 1))) s
/-- FSUB (R194). -/
def execFsub (f : F64) (s : State) : Out := runLane (floatOp f.h f.mod 8 [f.s1, f.s2] (fun F v => fsubE F (val v 0) (val v 1))) s
/-- FMUL (R194). -/
def execFmul (f : F64) (s : State) : Out := runLane (floatOp f.h f.mod 8 [f.s1, f.s2] (fun F v => fmulE F (val v 0) (val v 1))) s
/-- FDIV (R194). -/
def execFdiv (f : F64) (s : State) : Out := runLane (floatOp f.h f.mod 8 [f.s1, f.s2] (fun F v => fdivE F (val v 0) (val v 1))) s
/-- FSQRT (R194). -/
def execFsqrt (f : F64) (s : State) : Out := runLane (floatOp f.h f.mod 8 [f.s1] (fun F v => fsqrtE F (val v 0))) s
/-- FFMA: one rounding (R194). -/
def execFfma (f : F96T) (s : State) : Out :=
  runLane (floatOp f.h f.mod 12 [f.s1, f.s2, f.s3] (fun F v => ffmaE F (val v 0) (val v 1) (val v 2))) s

/-- a × 2^n for the 32-bit integer n; beyond ±8,000 it rounds as ±8,000 does (R194). -/
def fsclE (F : FFmt) (a n : Nat) : FRes :=
  match fdecode F a with
  | .fin s m e =>
    let k := signed 32 n
    let k : Int := if k > 8000 then 8000 else if k < -8000 then -8000 else k
    fround F (.fin s m (e + k))
  | v => fround F v

/-- FSCL: n is 32 bits and never a pair (R194). -/
def fsclOp (f : F64) : LaneOp :=
  { h := f.h, srcs := [(useW (ft64 f.mod.toNat), f.s1), (.w32, f.s2)], k := regsOf (ft64 f.mod.toNat), len := 8
    f := ownLane (fun v => fsclE (ftFmt f.mod) (val v 0) (val v 1)) }

/-- FSCL (R194). -/
def execFscl (f : F64) (s : State) : Out := runLane (fsclOp f) s
/-- FADDI: the immediate is an FP32 encoding (R194). -/
def execFaddi (f : F96I) (s : State) : Out :=
  runLane (floatOp f.h f.mod 12 [f.s1] (fun F v => rounded F (addV (fdecode F (val v 0)) (fdecode ffF32 f.imm.toNat)))) s
/-- FMULI (R194). -/
def execFmuli (f : F96I) (s : State) : Out :=
  runLane (floatOp f.h f.mod 12 [f.s1] (fun F v => rounded F (mulV (fdecode F (val v 0)) (fdecode ffF32 f.imm.toNat)))) s

/-- An encoding's low bits in its format. -/
def trim (F : FFmt) (x : Nat) : Nat := x % 2 ^ (F.mw + 1)

/-- FMIN (R195). -/
def execFmin (f : F64) (s : State) : Out :=
  runLane (floatOp f.h f.mod 8 [f.s1, f.s2] (fun F v => (fminmax F false (trim F (val v 0)) (trim F (val v 1)), 0))) s
/-- FMAX (R195). -/
def execFmax (f : F64) (s : State) : Out :=
  runLane (floatOp f.h f.mod 8 [f.s1, f.s2] (fun F v => (fminmax F true (trim F (val v 0)) (trim F (val v 1)), 0))) s
/-- FABS (R195). -/
def execFabs (f : F64) (s : State) : Out :=
  runLane (floatOp f.h f.mod 8 [f.s1] (fun F v => (if (fdecode F (val v 0)).isNan then F.nan else val v 0 % 2 ^ F.mw, 0))) s
/-- FNEG (R195). -/
def execFneg (f : F64) (s : State) : Out :=
  runLane (floatOp f.h f.mod 8 [f.s1] (fun F v =>
    (if (fdecode F (val v 0)).isNan then F.nan else xorNat (trim F (val v 0)) (2 ^ F.mw), 0))) s

/-- FRCP (R196). -/
def execFrcp (f : F64) (s : State) : Out := runLane (floatOp f.h f.mod 8 [f.s1] (fun F v => frcpE F (val v 0))) s
/-- FRSQ (R196). -/
def execFrsq (f : F64) (s : State) : Out := runLane (floatOp f.h f.mod 8 [f.s1] (fun F v => frsqE F (val v 0))) s
/-- FEXP2 (R196). -/
def execFexp2 (f : F64) (s : State) : Out := runLane (floatOp f.h f.mod 8 [f.s1] (fun F v => fexp2E F (val v 0))) s
/-- FLOG2 (R196). -/
def execFlog2 (f : F64) (s : State) : Out := runLane (floatOp f.h f.mod 8 [f.s1] (fun F v => flog2E F (val v 0))) s
/-- FTANH (R196). -/
def execFtanh (f : F64) (s : State) : Out := runLane (floatOp f.h f.mod 8 [f.s1] (fun F v => ftanhE F (val v 0))) s

/-- FRND: an integral value in FT (R197). -/
def frndE (F : FFmt) (mode x : Nat) : FRes :=
  match fdecode F x with
  | .nan => (F.nan, 0)
  | .inf _ => (trim F x, 0)
  | .fin s m e =>
    let (i, exact) := roundInt mode s m e
    ((fround F (.fin s i.natAbs 0)).1, if exact then 0 else flNX)

/-- FRND (R197). -/
def execFrnd (f : F64) (s : State) : Out :=
  runLane (floatOp f.h f.mod 8 [f.s1] (fun F v => frndE F (field f.mod.toNat 2 2) (val v 0))) s

/-- The class bit of a value (R197). -/
def fclassBit (F : FFmt) (x : Nat) : Nat :=
  let sub := x % 2 ^ F.mw / 2 ^ F.m == 0
  match fdecode F x with
  | .nan => 8
  | .inf s => if s then 0 else 7
  | .fin s m _ =>
    if m == 0 then (if s then 3 else 4)
    else if sub then (if s then 2 else 5)
    else (if s then 1 else 6)

/-- FCLASS (R197). -/
def fclassOp (f : F64) : LaneOp :=
  { h := f.h, srcs := [(useW (ft64 f.mod.toNat), f.s1)], k := 1, len := 8
    f := ownLane (fun v => (2 ^ fclassBit (ftFmt f.mod) (val v 0), 0)) }

/-- FCLASS (R197). -/
def execFclass (f : F64) (s : State) : Out := runLane (fclassOp f) s

/-- FSETP (R198). -/
def fsetpOp (f : F64) : LaneOp :=
  let F := ftFmt f.mod
  let u := useW (ft64 f.mod.toNat)
  { h := f.h, srcs := [(u, f.s1), (u, f.s2)], k := 1, len := 8
    f := ownLane (fun v => (ofBool (fcond (field f.mod.toNat 2 3) (fdecode F (val v 0)) (fdecode F (val v 1))), 0)) }

/-- FSETP (R198). -/
def execFsetp (f : F64) (s : State) : Out := runLane (fsetpOp f) s

/-- FSEL: b where a C +0, else c; a NaN is delivered canonical (R199). -/
def fselE (F : FFmt) (c : Nat) (v : List Nat) : FRes :=
  let x := if fcond c (fdecode F (val v 0)) (.fin false 0 0) then val v 1 else val v 2
  (if (fdecode F x).isNan then F.nan else trim F x, 0)

/-- FSEL (R199). -/
def execFsel (f : F96T) (s : State) : Out :=
  runLane (floatOp f.h f.mod 12 [f.s1, f.s2, f.s3] (fun F v => fselE F (field f.mod.toNat 2 3) v)) s

/-! ### Packed pairs (R200) -/

/-- The pair format of MOD[0]. -/
def pairFmt (m : BitVec 6) : FFmt := if bit m.toNat 0 then ffF16 else ffBF16

/-- Element k of a packed pair. -/
def half (x k : Nat) : Nat := field x (16 * k) 16

/-- Two element results packed, flags ORed. -/
def pairRes (g : Nat → FRes) : FRes := ((g 0).1 + 2 ^ 16 * (g 1).1, orF (g 0).2 (g 1).2)

def pairOp (h : Hdr) (m : BitVec 6) (len : Nat) (srcs : List Src) (g : FFmt → Nat → Nat → Nat → FRes) : LaneOp :=
  { h := h, srcs := srcs.map (fun x => (.w32, x)), k := 1, len := len
    f := ownLane (fun v => pairRes (fun k => g (pairFmt m) (half (val v 0) k) (half (val v 1) k) (half (val v 2) k))) }

/-- HADD2 (R200). -/
def execHadd2 (f : F64) (s : State) : Out := runLane (pairOp f.h f.mod 8 [f.s1, f.s2] (fun F a b _ => faddE F a b)) s
/-- HSUB2 (R200). -/
def execHsub2 (f : F64) (s : State) : Out := runLane (pairOp f.h f.mod 8 [f.s1, f.s2] (fun F a b _ => fsubE F a b)) s
/-- HMUL2 (R200). -/
def execHmul2 (f : F64) (s : State) : Out := runLane (pairOp f.h f.mod 8 [f.s1, f.s2] (fun F a b _ => fmulE F a b)) s
/-- HMIN2 (R200). -/
def execHmin2 (f : F64) (s : State) : Out := runLane (pairOp f.h f.mod 8 [f.s1, f.s2] (fun F a b _ => (fminmax F false a b, 0))) s
/-- HMAX2 (R200). -/
def execHmax2 (f : F64) (s : State) : Out := runLane (pairOp f.h f.mod 8 [f.s1, f.s2] (fun F a b _ => (fminmax F true a b, 0))) s
/-- HFMA2 (R200). -/
def execHfma2 (f : F96T) (s : State) : Out :=
  runLane (pairOp f.h f.mod 12 [f.s1, f.s2, f.s3] (fun F a b c => ffmaE F a b c)) s

/-- HSETP2: C in MOD[3:1], both or either element by MOD[4] (R200). -/
def hsetp2Op (f : F64) : LaneOp :=
  let F := pairFmt f.mod
  let c := fun (v : List Nat) (k : Nat) =>
    fcond (field f.mod.toNat 1 3) (fdecode F (half (val v 0) k)) (fdecode F (half (val v 1) k))
  { h := f.h, srcs := [(.w32, f.s1), (.w32, f.s2)], k := 1, len := 8
    f := ownLane (fun v => (ofBool (if bit f.mod.toNat 4 then c v 0 || c v 1 else c v 0 && c v 1), 0)) }

/-- HSETP2 (R200). -/
def execHsetp2 (f : F64) (s : State) : Out := runLane (hsetp2Op f) s

/-! ### Conversion and packing (R201 to R205) -/

/-- CVT (R202). -/
def cvtOp (f : F64) : LaneOp :=
  let sc := field f.s2.code.toNat 0 4
  let d := field f.mod.toNat 0 4
  { h := f.h, srcs := [(useW (fmt64 sc), f.s1)], k := regsOf (fmt64 d), len := 8
    f := ownLane (fun v => convert sc d (field f.mod.toNat 4 2) (val v 0)) }

/-- CVT (R202). -/
def execCvt (f : F64) (s : State) : Out := runLane (cvtOp f) s

/-- PACK (R203). -/
def packOp (f : F64) : LaneOp :=
  { h := f.h, srcs := [(.w32, f.s1), (.w32, f.s2)], k := 1, len := 8
    f := ownLane (fun v =>
      let a := val v 0
      let b := val v 1
      (if f.mod == 0 then field a 0 16 + 2 ^ 16 * field b 0 16
       else field a 0 8 + 2 ^ 8 * field a 16 8 + 2 ^ 16 * field b 0 8 + 2 ^ 24 * field b 16 8, 0)) }

/-- PACK (R203). -/
def execPack (f : F64) (s : State) : Out := runLane (packOp f) s

/-- Element k of a packed register, widened (R204). -/
def upkE (e x k : Nat) : Nat :=
  let w := fmtBits e
  let n := 32 / w
  let y := field x (w * (k % n)) w
  match ffOf e with
  | some F => (fround ffF32 (fdecode F y)).1
  | none => wrap 32 (intVal (intOf e).1 (intOf e).2 y)

/-- UPK (R204). -/
def upkOp (f : F64) : LaneOp :=
  { h := f.h, srcs := [(.w32, f.s1), (.w32, f.s2)], k := 1, len := 8
    f := ownLane (fun v => (upkE (field f.mod.toNat 0 4) (val v 0) (val v 1), 0)) }

/-- UPK (R204). -/
def execUpk (f : F64) (s : State) : Out := runLane (upkOp f) s

/-- CVPK: two FP32 values converted and placed (R205). -/
def cvpkE (o xm : Nat) (v : List Nat) : FRes :=
  let a := convert 2 o 0 (val v 0)
  let b := convert 2 o 0 (val v 1)
  let fl := orF a.2 b.2
  if o == 3 || o == 4 then (a.1 + 2 ^ 16 * b.1, fl)
  else if o == 7 then
    let p := 8 * (xm % 4)
    (setField (setField (val v 2) p 4 a.1) (p + 4) 4 b.1, fl)
  else
    let p := 16 * (xm % 2)
    (setField (setField (val v 2) p 8 a.1) (p + 8) 8 b.1, fl)

/-- CVPK (R205). -/
def cvpkOp (f : F96T) : LaneOp :=
  let o := field f.mod.toNat 0 4
  { h := f.h, srcs := if o == 3 || o == 4 then [(.w32, f.s1), (.w32, f.s2)] else [(.w32, f.s1), (.w32, f.s2), (.w32, f.s3)]
    k := 1, len := 12, f := ownLane (cvpkE o f.xm.toNat) }

/-- CVPK (R205). -/
def execCvpk (f : F96T) (s : State) : Out := runLane (cvpkOp f) s

end Sys2Proof.Machine
end

