-- ==== Sys2Proof/Machine/Cross.lean ====
section
/-! DEFINITION. The instructions that reach across lanes: ELECT and VOTE (07 R160, R161), PERM, REDUX and QUANT (09 R206 to
R208). -/
namespace Sys2Proof.Machine

/-- The leader of ELECT among the qualifying lanes (R160). -/
def electLeader (mode rot : Nat) (q : List Nat) : Option Nat :=
  match mode with
  | 0 => q.head?
  | 1 => q.getLast?
  | _ => match q.find? (fun l => l > rot) with
    | some l => some l
    | none => q.head?

/-- Lanes whose value is nonzero. -/
def qualifying (vals : Nat → List Nat) : List Nat := (List.range 32).filter (fun l => val (vals l) 0 != 0)

/-- ELECT, given the crew's rotation lane (R160). -/
def electOp (f : F64) (rot : Nat) : LaneOp :=
  let mode := field f.mod.toNat 0 2
  { h := f.h, srcs := [(.w32, f.s1)], k := 1, len := 8, coll := true
    f := fun vals l => (ofBool (electLeader mode rot (qualifying vals) == some l), 0)
    cpost := fun vals c =>
      match electLeader mode rot (qualifying vals) with
      | some l => if mode == 2 then { c with rot := l } else c
      | none => c }

/-- The rotation lane of the issuing crew. -/
def curRot (s : State) : Nat :=
  match s.cur with
  | some iss => match s.crew? iss.crew with | some c => c.rot | none => 31
  | none => 31

/-- ELECT (R160). -/
def execElect (f : F64) (s : State) : Out := runLane (electOp f (curRot s)) s

/-- The value that VOTE reduces the crew's selectors to (R161). -/
def voteVal (mode : Nat) (q : List Nat) : Nat :=
  match mode with
  | 0 => ofBool (q.length == 32)
  | 1 => ofBool (!q.isEmpty)
  | 2 => ofBool (q.isEmpty || q.length == 32)
  | 3 => (maskOf q).toNat
  | 4 => q.length
  | _ => match q.head? with | some l => l | none => 32

/-- VOTE (R161). -/
def voteOp (f : F64) : LaneOp :=
  { h := f.h, srcs := [(.sel, f.s1)], k := 1, len := 8, coll := true
    f := fun vals _ => (voteVal (field f.mod.toNat 0 3) (qualifying vals), 0) }

/-- VOTE (R161). -/
def execVote (f : F64) (s : State) : Out := runLane (voteOp f) s

/-! ### REDUX (R75, R207) -/

/-- One step of REDUX on two values: the type code and the operation of MOD. -/
def reduxStep (t o u v : Nat) : FRes :=
  let F := match t with | 0 => ffF32 | 1 => ffF64 | 2 => ffBF16 | _ => ffF16
  let it : ITy := { w := if t ≥ 6 then 64 else 32, sg := t % 2 == 0 }
  if t < 4 then
    match o with
    | 0 => faddE F u v
    | 1 => (fminmax F false (trim F u) (trim F v), 0)
    | _ => (fminmax F true (trim F u) (trim F v), 0)
  else
    let a := readT it u
    let b := readT it v
    match o with
    | 0 => (wrap it.w (a + b), 0)
    | 1 => (wrap it.w (if a ≤ b then a else b), 0)
    | 2 => (wrap it.w (if a ≤ b then b else a), 0)
    | 3 => (andNat u v, 0)
    | 4 => (orNat u v, 0)
    | _ => (xorNat u v, 0)

/-- The butterfly of R75: each lane's value with the flags its own steps raised. -/
def butterfly (op : Nat → Nat → FRes) (v : List FRes) : List FRes :=
  [1, 2, 4, 8, 16].foldl (fun v st =>
    (List.range 32).map (fun l =>
      let p := xorNat l st
      let a := (v[Nat.min l p]?).getD (0, 0)
      let b := (v[Nat.max l p]?).getD (0, 0)
      let r := op a.1 b.1
      (r.1, orF r.2 ((v[l]?).getD (0, 0)).2))) v

/-- REDUX (R207). -/
def reduxOp (f : F64) : LaneOp :=
  let t := field f.mod.toNat 0 3
  let o := field f.mod.toNat 3 3
  let two := t == 1 || t ≥ 6
  { h := f.h, srcs := [(useW two, f.s1)], k := regsOf two, len := 8, coll := true
    f := fun vals l =>
      ((butterfly (reduxStep t o) ((List.range 32).map (fun l => (val (vals l) 0, 0))))[l]?).getD (0, 0) }

/-- REDUX (R207). -/
def execRedux (f : F64) (s : State) : Out := runLane (reduxOp f) s

/-! ### PERM (R206) -/

/-- What lane s serves to a PERM: a value, whether its register was unmapped, whether it serves nothing. A lane whose guard
is false and whose index leaves its window, or whose pair is odd, serves nothing. -/
def permServe (st : State) (c : Crew) (mask em : Mask) (u : Use) (x : Src) (sl : Nat) : SrcRead :=
  if !mask.getLsbD sl then ⟨[0], false, true, []⟩
  else if !em.getLsbD sl && (srcOut (c.thread sl) u x || srcOdd (c.thread sl) u x) then ⟨[0], false, true, []⟩
  else readSrc st c mask sl u x

/-- The reads of a lane of PERM from its own registers or its log: S1, which another lane serves unless it is logged, and k (R206, R305). -/
def permReads (s : State) (c : Crew) (mask : Mask) (u : Use) (f : F64) (l : Nat) : List SrcRead :=
  let t := c.thread l
  let read := fun (p : Use × Src) => readSrc s c mask l p.1 p.2
  match t.relog with
  | some vs => againReads read t.gaps [(u, f.s1), (.w32, f.s2)] (vs.map (·.toNat))
  | none => [read (u, f.s1), read (.w32, f.s2)]

/-- The lane that a lane of PERM names. -/
def permK (s : State) (c : Crew) (mask : Mask) (u : Use) (f : F64) (l : Nat) : LaneRead := joinReads ((permReads s c mask u f l).drop 1)

/-- What a lane of PERM is served: by the lane that its k names, or what it has logged. -/
def permS (s : State) (c : Crew) (mask em : Mask) (u : Use) (f : F64) (l : Nat) : SrcRead :=
  if (c.thread l).reads f.s1 then permServe s c mask em u f.s1 (val (permK s c mask u f l).vals 0 % 32)
  else (permReads s c mask u f l).headD ⟨[], false, false, []⟩

/-- The sources of which a lane of PERM knows no value: those outside their windows, and S1 where k is one of them (log 121). -/
def Thread.permGaps (t : Thread) (srcs : List (Use × Src)) (f : F64) : List Src :=
  let o := t.outSrcs srcs
  if o.contains f.s2 && t.reads f.s1 then f.s1 :: o else o

/-- What a lane of PERM reads but for `gaps`. -/
def permRead (f : F64) (gaps : List Src) (k : LaneRead) (v : SrcRead) : LaneRead :=
  joinReads ((if gaps.contains f.s1 then [] else [v]) ++ if gaps.contains f.s2 then [] else [⟨k.vals, k.zread, k.xlane, k.regs⟩])

/-- The checks of PERM before any effect (R45, R48, R206): each lane of `go` reads its own k and what its serving lane serves, a lane of `out`
what is within its windows; an entry that S1 with L = 1 frees counts (R47). -/
def permCheck (s : State) (c : Crew) (mask go out : Mask) (pc : DWord) (f : F64) (krd : Nat → LaneRead) (srv : Nat → SrcRead) : Option Stop :=
  let srcs : List (Use × Src) := [(.plain (bit f.mod.toNat 0), f.s1), (.w32, f.s2)]
  let rd := fun l => permRead f (if out.getLsbD l then (c.thread l).permGaps srcs f else []) (krd l) (srv l)
  if (lanesOf go).any (fun l => s.flagsWait c mask (srcs.drop 1) l
      || srcs.head?.any (fun p => s.flagsWait c mask [(p.1, { p.2 with pat := 2, parm := BitVec.ofNat 5 (val (krd l).vals 0) })] l)) then some (.stall .dep)
  else valueCheck s c (go ||| out) go out pc (fun l => ((rd l).regs, (rd l).zread))
    (fun l => releasedRegs (c.thread l) srcs) (fun l => dstRegs (c.thread l) f.h.dst.toNat (regsOf (bit f.mod.toNat 0)))

/-- PERM: lane l receives S1 of the lane that its own k names. A serving lane that itself leaves its window serves the register at
BASE + IDX (log 85). A crew register takes the value of the lowest lane inside its window, and the lanes inside go on (DESIGN CHOICE,
log 118). -/
def runPerm (f : F64) (s : State) : Out :=
  let w := bit f.mod.toNat 0
  let u : Use := .plain w
  let ks : List (Use × Src) := [(.w32, f.s2)]
  let d := f.h.dst.toNat
  match s.cur with
  | none => .next s
  | some iss =>
    match s.crew? iss.crew with
    | none => .next s
    | some c =>
      let em := guardMask c iss.mask f.h
      match (if oddAt c em ((u, f.s1) :: ks) d (regsOf w) w then some (illegalTrap iss.mask iss.pc 6)
        else if isCreg d then collective c iss.mask em iss.pc true else none) with
      | some x => .next (s.stopped iss.crew iss x)
      | none =>
        let srcs := (u, f.s1) :: ks
        let krd := permK s c iss.mask u f
        let srv := permS s c iss.mask em u f
        let out := boundLanes c em srcs d (regsOf w)
        let go := em &&& ~~~out
        match permCheck s c iss.mask go out iss.pc f krd srv with
        | some x => .next (s.stopped iss.crew iss x)
        | none =>
          let adv := iss.mask &&& ~~~out
          let taken := takenSrcs false d em
          let c1 := releaseAll adv go true (taken [(u, f.s1)]) (releaseAll adv go false (taken ks) c)
          let c2 := c1.modLanes go (fun l t =>
            (t.deliver d (regsOf w) (val (srv l).vals 0)).raise
              (orF (readFlags (krd l)) (orF (if (srv l).zread then flZREAD else 0) (if (srv l).xlane then flXLANE else 0))))
          let c3 := c2.deliverCreg d (regsOf w) go (fun l => val (srv l).vals 0)
          let c4 := (c3.advance adv s.cycle (fun _ t => t.pc + 8)).modLanes out (fun l t =>
            let gaps := (c.thread l).permGaps srcs f
            t.log srcs gaps (permRead f gaps (krd l) (srv l)))
          let s1 := s.modCrew iss.crew (fun _ => c4)
          if out == 0 then .next s1
          else .next (s1.stopped iss.crew iss (.trap (trapOf iss.pc (faultsOf out .indexBound 0))))

/-- PERM (R206). -/
def execPerm (f : F64) (s : State) : Out := runPerm f s

/-! ### QUANT (R208) -/

/-- The four words of the block that QUANT encodes from the lanes of a bundle, with its flags (R66, R208). -/
def quantBlock (F : FFmt) (vs : List Nat) : List Nat × Nat :=
  let (scale, els, fl) := fp4Encode (vs.map (fdecode F))
  let word := fun k => ((List.range 8).map (fun j => ((els[8 * k + j]?).getD 0) * 2 ^ (4 * j))).sum
  ([word 0, word 1, word 2, scale], fl)

/-- The 24 lanes of the block of QUANT (R208). -/
def quantLanes (f : F96T) : List Nat := (List.range 24).map (fun i => field f.xm.toNat 0 4 + i)

/-- The words of the block that QUANT encodes and the flags it raises: `rd` is what each lane of the block serves, a lane absent from the
bundle +0 (R208). -/
def quantRes (f : F96T) (rd : Nat → SrcRead) (mask : Mask) : List Nat × Nat :=
  let lanes := quantLanes f
  let here := fun l => mask.getLsbD l
  let xl := lanes.any (fun l => !here l || (rd l).xlane)
  let zr := lanes.any (fun l => here l && (rd l).zread)
  let r := quantBlock (ftFmt f.mod) (lanes.map (fun l => if here l then val (rd l).vals 0 else 0))
  (r.1, orF r.2 (orF (if xl then flXLANE else 0) (if zr then flZREAD else 0)))

/-- Issue QUANT: the lanes of the block serve, whether they execute or not, and no other lane reads. Flags go to every lane that executes,
from the whole block (R208; a serving lane outside its window and a pattern that misses in a block lane as log 85 says). -/
def runQuant (f : F96T) (s : State) : Out :=
  match s.cur with
  | none => .next s
  | some iss =>
    match s.crew? iss.crew with
    | none => .next s
    | some c =>
      let em := guardMask c iss.mask f.h
      let d := f.h.dst.toNat
      let srcs : List (Use × Src) := [(.w32, f.s1)]
      match (if isCreg d then collective c iss.mask em iss.pc true else none) with
      | some x => .next (s.stopped iss.crew iss x)
      | none =>
        let blk := if em == 0 then 0 else iss.mask &&& maskOf (quantLanes f)
        match operandCheck s c iss.mask em blk iss.pc srcs d 1 false with
        | some x => .next (s.stopped iss.crew iss x)
        | none =>
          let out := boundLanes c em srcs d 1
          let go := em &&& ~~~out
          let adv := iss.mask &&& ~~~out
          let r := quantRes f (fun l => readOne s c iss.mask .w32 f.s1 l) iss.mask
          let c1 := releaseAll adv go true (takenSrcs false d em srcs) c
          let c2 := c1.modLanes go (fun l t => (t.deliver d 1 (val r.1 (l % 4))).raise r.2)
          let c3 := c2.deliverCreg d 1 go (fun l => val r.1 (l % 4))
          let s1 := s.modCrew iss.crew (fun _ => (c3.advance adv s.cycle (fun _ t => t.pc + 12)).logLanes s c iss.mask out (fun _ => srcs))
          if out == 0 then .next s1
          else .next (s1.stopped iss.crew iss (.trap (trapOf iss.pc (faultsOf out .indexBound 0))))

/-- QUANT (R208). -/
def execQuant (f : F96T) (s : State) : Out := runQuant f s

end Sys2Proof.Machine
end

