-- ==== Sys2Proof/WellFormed.lean ====
section
/-! DEFINITION. Well-formed instructions: those that have an encoding and break no rule of R135, sub-causes 4 to 8. -/
namespace Sys2Proof

/-- The guard is valid (R36, R128). -/
def wfGuard (h : Hdr) : Bool := !(h.gn == 1 && h.gp == 7)

/-- An instruction that its encoding alone does not make ILLEGAL. An event has no encoding and is not one. -/
def WellFormed (i : Instr) : Bool :=
  i == .padWord || ((Machine.opcodeOf i).isSome && (Machine.illegalSub i).isNone)

end Sys2Proof
end

