-- ==== Sys2Proof/Decode.lean ====
section
/-! DEFINITION. The decoder of R126 to R135, total on any bytes, with the sub-cause of a refusal; the encoder of the same
tables; the decoder as the host's opcode table numbers bits. -/
namespace Sys2Proof

open Machine

/-- Why bytes decode to no instruction: too few of them, or ILLEGAL with a sub-cause of R135. -/
inductive DecodeError
  | tooShort
  | illegal (sub : Nat)
deriving DecidableEq, Repr

/-- Fields of given widths laid from bit 0 up. -/
def pack : List (Nat × Nat) → Nat
  | [] => 0
  | (w, v) :: l => v + 2 ^ w * pack l

/-- The values of fields of given widths laid from bit 0 up. -/
def unpack : List Nat → Nat → List Nat
  | [], _ => []
  | w :: l, x => x % 2 ^ w :: unpack l (x / 2 ^ w)

/-- Fields of a source operand (R39). -/
def Src.vals (x : Src) : List (Nat × Nat) :=
  [(8, x.code.toNat), (1, x.last.toNat), (3, x.pat.toNat), (5, x.parm.toNat)]

def Src.ofVals (c l p q : Nat) : Src :=
  { code := BitVec.ofNat 8 c, last := BitVec.ofNat 1 l, pat := BitVec.ofNat 3 p, parm := BitVec.ofNat 5 q }

def srcWidths : List Nat := [8, 1, 3, 5]

/-- Fields of the first 24 bits: LEN, OPC, GP, GN, DST (R128). -/
def Hdr.vals (len op : Nat) (h : Hdr) : List (Nat × Nat) :=
  [(2, len), (10, op), (3, h.gp.toNat), (1, h.gn.toNat), (8, h.dst.toNat)]

def Hdr.ofVals (gp gn d : Nat) : Hdr :=
  { gp := BitVec.ofNat 3 gp, gn := BitVec.ofNat 1 gn, dst := BitVec.ofNat 8 d }

def hdrWidths : List Nat := [2, 10, 3, 1, 8]

/-- LEN of a format (R126). -/
def lenCode : Format → Nat
  | .pad => 3
  | .f64 => 0
  | .f96t => 1
  | .f96i => 1
  | .f128m => 2
  | .f128x => 2

/-- Bytes of an instruction by its length code (R126). -/
def lenBytes (c : Nat) : Nat :=
  match c with
  | 0 => 8
  | 1 => 12
  | 2 => 16
  | _ => 4

/-- The field widths of a format from bit 0 up (R128, R129, R132). -/
def widths : Format → List Nat
  | .pad => [32]
  | .f64 => hdrWidths ++ srcWidths ++ srcWidths ++ [6]
  | .f96t => hdrWidths ++ srcWidths ++ srcWidths ++ [6] ++ srcWidths ++ [15]
  | .f96i => hdrWidths ++ srcWidths ++ srcWidths ++ [6, 32]
  | .f128m => hdrWidths ++ srcWidths ++ srcWidths ++ [6] ++ srcWidths ++ [4, 1, 3, 3, 2, 2, 4, 4, 24]
  | .f128x => hdrWidths ++ srcWidths ++ srcWidths ++ [6] ++ srcWidths ++ srcWidths ++ [30]

/-- The fields of an instruction with its opcode, from bit 0 up. -/
def fieldVals (op : Nat) : Fields → List (Nat × Nat)
  | .f64 f => f.h.vals 0 op ++ f.s1.vals ++ f.s2.vals ++ [(6, f.mod.toNat)]
  | .f96t f => f.h.vals 1 op ++ f.s1.vals ++ f.s2.vals ++ [(6, f.mod.toNat)] ++ f.s3.vals ++ [(15, f.xm.toNat)]
  | .f96i f => f.h.vals 1 op ++ f.s1.vals ++ f.s2.vals ++ [(6, f.mod.toNat), (32, f.imm.toNat)]
  | .f128m f => f.h.vals 2 op ++ f.s1.vals ++ f.s2.vals ++ [(6, f.mod.toNat)] ++ f.s3.vals ++
      [(4, f.fmt.toNat), (1, f.pg.toNat), (3, f.scp.toNat), (3, f.rd.toNat), (2, f.ord.toNat), (2, f.sp.toNat),
       (4, f.cnt.toNat), (4, f.rsv.toNat), (24, f.off.toNat)]
  | .f128x f => f.h.vals 2 op ++ f.s1.vals ++ f.s2.vals ++ [(6, f.mod.toNat)] ++ f.s3.vals ++ f.s4.vals ++
      [(30, f.ctl.toNat)]

/-- The instruction with opcode `op` and the field values of its format. -/
def buildVals (op : Nat) (f : Format) (l : List Nat) : Option Instr :=
  match f, l with
  | .f64, [_, _, gp, gn, d, a0, a1, a2, a3, b0, b1, b2, b3, m] =>
    buildF64 op { h := .ofVals gp gn d, s1 := .ofVals a0 a1 a2 a3, s2 := .ofVals b0 b1 b2 b3, mod := BitVec.ofNat 6 m }
  | .f96t, [_, _, gp, gn, d, a0, a1, a2, a3, b0, b1, b2, b3, m, c0, c1, c2, c3, x] =>
    buildF96T op { h := .ofVals gp gn d, s1 := .ofVals a0 a1 a2 a3, s2 := .ofVals b0 b1 b2 b3, mod := BitVec.ofNat 6 m,
                   s3 := .ofVals c0 c1 c2 c3, xm := BitVec.ofNat 15 x }
  | .f96i, [_, _, gp, gn, d, a0, a1, a2, a3, b0, b1, b2, b3, m, x] =>
    buildF96I op { h := .ofVals gp gn d, s1 := .ofVals a0 a1 a2 a3, s2 := .ofVals b0 b1 b2 b3, mod := BitVec.ofNat 6 m,
                   imm := BitVec.ofNat 32 x }
  | .f128m, [_, _, gp, gn, d, a0, a1, a2, a3, b0, b1, b2, b3, m, c0, c1, c2, c3, fm, pg, sc, rd, od, sp, ct, rs, o] =>
    buildF128M op { h := .ofVals gp gn d, s1 := .ofVals a0 a1 a2 a3, s2 := .ofVals b0 b1 b2 b3, mod := BitVec.ofNat 6 m,
                    s3 := .ofVals c0 c1 c2 c3, fmt := BitVec.ofNat 4 fm, pg := BitVec.ofNat 1 pg, scp := BitVec.ofNat 3 sc,
                    rd := BitVec.ofNat 3 rd, ord := BitVec.ofNat 2 od, sp := BitVec.ofNat 2 sp, cnt := BitVec.ofNat 4 ct,
                    rsv := BitVec.ofNat 4 rs, off := BitVec.ofNat 24 o }
  | .f128x, [_, _, gp, gn, d, a0, a1, a2, a3, b0, b1, b2, b3, m, c0, c1, c2, c3, e0, e1, e2, e3, x] =>
    buildF128X op { h := .ofVals gp gn d, s1 := .ofVals a0 a1 a2 a3, s2 := .ofVals b0 b1 b2 b3, mod := BitVec.ofNat 6 m,
                    s3 := .ofVals c0 c1 c2 c3, s4 := .ofVals e0 e1 e2 e3, ctl := BitVec.ofNat 30 x }
  | _, _ => none

/-- The instruction at the head of a list of bytes, its guard and fields not yet checked: sub-causes 1 to 3 of R135. -/
def parse (bs : List Byte) : Except DecodeError Instr :=
  let w0 := ofBytes (bs.take 4)
  let len := w0 % 4
  let op := w0 / 4 % 1024
  if bs.length < 4 then .error .tooShort
  else if len == 3 then
    if w0 == 3 then .ok .padWord else .error (.illegal 1)
  else
    match formatOf op with
    | none => .error (.illegal 2)
    | some f =>
      if lenCode f != len then .error (.illegal 3)
      else if bs.length < lenBytes len then .error .tooShort
      else
        match buildVals op f (unpack (widths f) (ofBytes (bs.take (lenBytes len)))) with
        | none => .error (.illegal 2)
        | some i => .ok i

/-- The instruction at the head of a list of bytes and the bytes after it. Sub-causes in the order of R135. -/
def decode (bs : List Byte) : Except DecodeError (Instr × List Byte) :=
  match parse bs with
  | .error e => .error e
  | .ok i =>
    match illegalSub i with
    | some k => .error (.illegal k)
    | none => .ok (i, bs.drop (lenBytes (ofBytes (bs.take 4) % 4)))

/-- The bytes of an instruction, least significant first; an event has none. -/
def encode (i : Instr) : List Byte :=
  if i = .padWord then toBytes 4 3
  else
    match opcodeOf i with
    | none => []
    | some (op, f) => toBytes f.bytes (pack (fieldVals op f))

/-- Bytes of an instruction in memory (R126). -/
def Instr.bytes (i : Instr) : Nat :=
  match opcodeOf i with
  | none => 4
  | some (_, f) => f.bytes

/-- The bytes of an instruction whose bits are w, numbered as the opcode table numbers them: bits 31..0 are the word at
the lowest address, each word little-endian (R126, R59); the bits above nbits are zero. -/
def tableBytes (nbits w : Nat) : List Byte := toBytes 16 (w % 2 ^ nbits)

/-- The instruction that the decoder reads from a word of the opcode table. -/
def decodeTableWord (nbits w : Nat) : Option Instr :=
  match decode (tableBytes nbits w) with
  | .ok (i, _) => some i
  | .error _ => none

end Sys2Proof
end

