-- ==== Sys2Proof/Machine/Fetch.lean ====
section
/-! DEFINITION. Instruction fetch (06 R126, R127, R135, R136; 15 R293, R304): what the bytes at a PC give, and the return of a
fetch. -/
namespace Sys2Proof.Machine

/-- What a fetch at a PC gives. -/
inductive Fetched
  | ok (i : Instr)
  /-- a fault of steps 1 to 3 of R135 -/
  | trap (c : Cause) (sub : Nat)
  /-- an instruction that its encoding makes ILLEGAL with a sub-cause from 4 to 8 -/
  | bad (i : Instr) (sub : Nat)
  /-- an absent page -/
  | page (va : Nat)
  /-- a translation to look up -/
  | miss (va : Nat)
  /-- the 32-byte block at a physical address is not in the instruction cache -/
  | wait (pa : Nat)
deriving DecidableEq, Repr

/-- The instruction in a fetch block at an offset (R127, R135). -/
def readBlock (bytes : List Byte) (off : Nat) : Fetched :=
  let b := bytes.drop off
  let len := lenBytes ((ofBytes (b.take 4)) % 4)
  if off + len > 32 then .trap .ifetchSplit 0
  else
    match decode b, parse b with
    | .ok (i, _), _ => .ok i
    | .error (.illegal k), .ok i => .bad i k
    | .error (.illegal k), .error _ => .trap .illegal k
    | .error .tooShort, _ => .trap .ifetchSplit 0

/-- Translation of a PC for a fetch (R293, R298). -/
def State.fetchPa (s : State) (c : Crew) (pc : DWord) : Except Fetched Nat :=
  match decodeAddr pc.toNat with
  | .error e => .error (.trap e 0)
  | .ok (.global, a) =>
    match s.xlate c a .fetch with
    | .miss v => .error (.miss v)
    | .fault .pageAbsent => .error (.page (a / 65536 * 65536))
    | .fault e => .error (.trap e 0)
    | .ok pa _ => if s.homeOff pa then .error (.trap .layerOff 0) else .ok pa
  | .ok _ => .error (.trap .addrWindow 0)

/-- The 32-byte fetch block of an address in a core's L1 instruction cache, where its sector is valid and not poisoned, which it is in every
cache that holds it (R82, R127, R325). -/
def State.fetchBlock (s : State) (core pa : Nat) : Option (List Byte) :=
  if s.store.poison.contains (pa / 256) then none
  else match s.store.icache.find? (fun x => x.core == core && x.line == pa / 1024) with
  | none => none
  | some x => match (x.secs[pa / 256 % 4]?).getD [] with
    | [] => none
    | b :: l => some (((b :: l).drop (pa / 32 % 8 * 32)).take 32)

/-- Fetch for a crew at a PC. -/
def State.fetch (s : State) (c : Crew) (pc : DWord) : Fetched :=
  match s.fetchPa c pc with
  | .error x => x
  | .ok pa =>
    match s.fetchBlock c.core pa with
    | none => .wait (pa / 32 * 32)
    | some b => readBlock b (pa % 32)

/-- The sector of an address as it stands at package scope. -/
def State.sectorBytes (s : State) (pa : Nat) : List Byte := s.store.mem.bytes (pa / 256 * 256) 256

/-- Put a sector in a core's instruction cache: a full one gives up a line (R2, R82). The cache takes any line in any place, and which line
it gives up is free (log 9). -/
def State.fillFetch (s : State) (core pa : Nat) : State :=
  let is := fun (x : ILine) => x.core == core && x.line == pa / 1024
  let l := s.store.icache
  let mine := l.filter (fun x => x.core == core)
  let put := fun (secs : List (List Byte)) => secs.set (pa / 256 % 4) (s.sectorBytes pa)
  let l :=
    if l.any is then l.map (fun x => if is x then { x with secs := put x.secs } else x)
    else
      let keep := if mine.length < Config.l1iLines then l
        else match mine[Config.l1iVictim core (pa / 1024) s.cycle % Config.l1iLines]? with
          | some x => l.filter (· != x)
          | none => l
      { core := core, line := pa / 1024, secs := put (List.replicate 4 []) } :: keep
  { s with store := { s.store with icache := l } }

/-- The fill of a fetch: an access with no reuse distance, through its page (R87, R89). -/
def State.fetchFill (s : State) (c : Crew) (pc : DWord) : Fill :=
  let l : Leaf := match decodeAddr pc.toNat with | .ok (_, a) => (s.coreLeaf c.core c.asid c.secure a).getD default | .error _ => default
  { core := c.core, ctx := (s.teamOf c).ctx, cls := l.cls, shr := l.shr, rd := 2 }

/-- Whether a block may be read now: no engine holds its line in G, no SEEDSET of the context is in progress, and the fabric does not hold the
request (R103, R117, R342, R343). -/
def State.fetchReady (s : State) (c : Crew) (pa : Nat) : Bool :=
  !s.locInG s.nextId (.phys pa) && !s.frozen (s.teamOf c).ctx && (!s.fabricHolds (some (dieOf c.core)) pa || s.readHere c.core pa 32)

/-- FETCH_COMPLETE: the sector of the block returns through the die's caches as it stands at package scope (R82, R136), and the bundles of the
core that wait for it can issue; a poisoned one parks the crew (R321). -/
def execFetchComplete (team crew : Nat) (pc : DWord) (s : State) : Out :=
  match s.crewAt team crew with
  | none => .next s
  | some k =>
    match s.crew? k with
    | none => .next s
    | some c =>
      let waits := c.lanesWhere (fun t => t.st == .stalled && t.why == .fetch && t.pc == pc)
      match s.fetch c pc with
      | .wait pa =>
        if waits == 0 || !s.fetchReady c pa then .next s
        else if s.store.poison.contains (pa / 256) || s.upsetAt (.phys (pa / 256 * 256)) 256 then
          .next ((s.check (.phys (pa / 256 * 256)) 256).takeFault k { cause := .poison, sub := 1, lmask := waits, pc := pc, addr := pc.toNat })
        else
          let s := ((s.check (.phys (pa / 256 * 256)) 256).readL2 (s.fetchFill c pc) pa).fillFetch c.core pa
          .next ((List.range s.crews.length).foldl (fun s j => match s.crew? j with
            | none => s
            | some d =>
              if d.core != c.core then s
              else
                let go := d.lanesWhere (fun t => t.st == .stalled && t.why == .fetch
                  && match s.fetch d t.pc with | .wait _ => false | .miss _ => false | _ => true)
                if go == 0 then s else s.modCrew j (fun d => d.wake go)) s)
      | _ => .next s

end Sys2Proof.Machine
end

