-- ==== Sys2Proof/Machine/Debug.lean ====
section
/-! DEFINITION. Stops, dumps and slot counters (18 R347 to R356, R360). -/
namespace Sys2Proof.Machine

/-! ### Stops -/

/-- STOP: a write of STOP alone (R347, R348). -/
def execStop (core sched : Nat) (s : State) : Out :=
  if s.blockThere core && sched < 4 then .next (s.stopSched core sched 1) else .next s

/-- CSTOP: the four schedulers of a core stop on one cycle; the last three report a partner (R347). -/
def execCstop (core : Nat) (s : State) : Out :=
  if s.blockThere core then .next ((List.range 4).foldl (fun s k => s.stopSched core k (if k == 0 then 1 else 6)) s) else .next s

/-- Crews of a scheduler whose only park cause is DEBUG_STOP at it go on (R349). -/
def State.runCrews (s : State) (core sched : Nat) : State :=
  (List.range s.crews.length).foldl (fun s k => match s.crew? k with
    | none => s
    | some c =>
      let other := c.threads.any (fun t => t.causes.any (· != .debug core sched))
      if c.core == core && c.sched == sched && !other then s.modCrew k (fun c => c.clearCauses allLanes (· == .debug core sched)) else s) s

/-- RUN: the crews stopped only for DEBUG_STOP go on, and the stop ends (R349). -/
def execRun (core sched : Nat) (s : State) : Out :=
  if s.blockThere core && ((s.debugOf core).sched sched).stopped then
    .next ((s.modSched core sched (fun x => { x with stopped := false, stepping := false })).runCrews core sched)
  else .next s

/-- STEP: one bundle issues, and the scheduler stops on the next cycle with WHY 5 (R349); the issue rule chooses it. -/
def execStep (core sched : Nat) (s : State) : Out :=
  if s.blockThere core && sched < 4 then
    .next ((s.modSched core sched (fun x => { x with stopped := false, stepping := true })).runCrews core sched)
  else .next s

/-- A stepping scheduler whose bundle has issued stops (R349, R360). -/
def State.endStep (s : State) (core sched : Nat) : State :=
  if ((s.debugOf core).sched sched).stepping then s.stopSched core sched 5 else s

/-- SOF_WRITE: a write with STOP, RUN and STEP clear stores bit 7 (R347). -/
def execSofWrite (core sched value : Nat) (s : State) : Out :=
  if s.blockThere core && sched < 4 && value % 8 == 0 then .next (s.modSched core sched (fun x => { x with sof := bit value 7 }))
  else .next s

/-- Whether an armed comparator of a scheduler holds an address (R347). -/
def Sched.matches (x : Sched) (pc : DWord) : Bool :=
  let hit := fun (p : Nat) => bit p 0 && p / 4 == pc.toNat / 4 % 2 ^ 55
  hit x.pc0 || hit x.pc1

/-- Whether an instruction is collective: by itself, or as a write of a crew register (R19, R21). -/
def collects (i : Instr) : Bool :=
  match i with
  | .mma _ | .mmag _ | .elect _ | .vote _ | .redux _ | .gate _ | .gret _ => true
  | .wait _ => false
  | _ => isCreg (dstCode i)

/-- Whether a bundle meets an armed comparator of its scheduler where it would issue: not at a pad word, which takes no slot (R126), nor at a
collective instruction without the whole crew, where it enters CHELD (R348, R360); a bundle that takes a fault of steps 1 to 3 of R135 or an
ILLEGAL of its encoding takes a slot as well (log 31). A STEP issues its bundle wherever it stands (R349). -/
def State.meetsPc (s : State) (c : Crew) (b : Mask) : Bool :=
  let x := (s.debugOf c.core).sched c.sched
  match lanesOf b with
  | [] => false
  | l :: _ =>
    let pc := (c.thread l).pc
    !x.stopped && !x.stepping && x.matches pc && match s.fetch c pc with
      | .ok .padWord => false
      | .ok i => !(collects i && b != allLanes && c.live == allLanes)
      | .bad _ _ | .trap _ _ => true
      | _ => false

/-- A bundle that may issue: READY, or waiting for what lets it issue by an event. -/
def Crew.upNext (c : Crew) (b : Mask) : Bool :=
  b != 0 && (lanesOf b).all (fun l => (c.thread l).st == .ready || (c.thread l).st == .stalled && ((c.thread l).why == .latch || (c.thread l).why == .grant))

/-- PC_MATCH_STOP: the scheduler stops in the cycle in which a bundle would issue the instruction at an armed address (R348). -/
def execPcMatchStop (core sched : Nat) (s : State) : Out :=
  if s.crews.any (fun c => c.core == core && c.sched == sched && c.busy.isEmpty && c.bundles.any (fun b => c.upNext b && s.meetsPc c b))
  then .next (s.stopSched core sched 3) else .next s

/-! ### Dumps -/

/-- Barrier objects that the copies of a team, and those into its scratchpad, name: team and offset (R354). -/
def State.copyBars (s : State) (serial : Nat) : List (Nat × Nat) :=
  (s.copies.filter (fun c => c.granted && (c.serial == serial || c.into serial))).flatMap (fun c => c.recvs.map (fun r => (r.serial, r.off)))

/-- Each dump that drains notes the objects of the copies that it drains (R351, R354). -/
def State.noteBars (s : State) : State :=
  { s with dbg := s.dbg.map (fun (d : Debug) => match d.dump with
      | some x => if x.todo.isNone then { d with bars := (d.bars ++ s.copyBars x.team).eraseDups } else d
      | none => d) }

/-- GO: the dump of a team starts when each of its crews is resident on this core and parked, and is refused otherwise; while a dump runs
the write is ignored (R350, R351, R360). -/
def execGo (core : Nat) (s : State) : Out :=
  let d := s.debugOf core
  if !s.blockThere core || d.dstat == 1 then .next s
  else
    let ok := match s.findTeam d.dteam with
      | none => false
      | some t => t.core == core && !t.ended && !s.saving t.serial
          && s.crews.all (fun c => c.team != t.serial || c.threads.all (fun h => h.st == .parked || h.st == .exited))
    if !ok then .next (s.setDebug { d with dstat := 3 })
    else
      .next (s.setDebug { d with dstat := 1, dump := some { team := d.dteam, addr := d.dumpA / 65536 * 65536 }, events := [], told := []
                                 bars := (s.copyBars d.dteam).eraseDups })

/-- The registers of a crew's block in a dump (R352): a poisoned one is written as 0 and entered as a fault. -/
def State.dumpRegs (s : State) (c : Crew) : List Piece × List Rec :=
  let rs := c.savedRegs.map (fun x => (x, s.savedVal c x))
  let ok := rs.filterMap (fun p => match p.2 with
    | .ok v => some (areaPiece (regOff p.1.1 p.1.2.1 p.1.2.2.n) (toBytes 4 v))
    | .error _ => none)
  let bad := rs.filterMap (fun p => match p.2 with
    | .ok _ => none
    | .error e => some (s.recOf c { cause := e.1, sub := e.2.1, lmask := maskOf [p.1.2.1], pc := (c.thread p.1.2.1).pc, addr := e.2.2 } 0))
  ((0x4000, 81920, []) :: ok, bad)

/-- A memory with some words of n bytes written as 0. -/
def blankWords (n : Nat) (m : Memory) (bad : List Nat) : Memory := m.filter (fun c => !bad.contains (c.1 / n))

/-- Entries of the pending-write section of a crew (R353). -/
def State.pendEntries (s : State) (c : Crew) : List (List Byte) :=
  c.atPark.map (fun p =>
    let mine := s.accs.filter (fun a => a.group == p.1 && a.serial == c.team && a.crew == c.id)
    let log := mine.any (fun a => match a.hold with | .page _ => true | .replay => true | _ => false)
    toBytes 16 (p.2.1 % 256 + 2 ^ 8 * c.id + 2 ^ 12 * ofBool mine.isEmpty + 2 ^ 13 * ofBool log + 2 ^ 32 * p.2.2.1.toNat + 2 ^ 64 * p.2.2.2.toNat))

/-- Offsets that the BAR conditions of a thread's pending WAIT name (R354). -/
def Thread.barOffs (t : Thread) : List Nat :=
  match t.wait with
  | some p => p.conds.filterMap (fun x => match x with | .bar o _ => some o | _ => none)
  | none => []

/-- The objects of the barrier section (R354): team and offset, member number, threads that wait. -/
def State.barEntries (s : State) (t : Team) (cs : List Crew) (copied : List (Nat × Nat)) : List (Nat × Nat × Nat × Nat) :=
  let offs := cs.flatMap (fun c => c.threads.flatMap Thread.barOffs)
  let objs := ((offs.map (fun o => (t.serial, o))) ++ copied).eraseDups
  let objs := inOrder (fun a b => decide (a.2 ≤ b.2)) objs
  objs.map (fun o =>
    let u := (s.findTeam o.1).getD t
    let memb := if t.clvl == 0 then 0 else u.teamid % t.csize
    let nwait := if o.1 == t.serial then (cs.flatMap (fun c => c.threads.filter (fun h => h.barOffs.contains o.2))).length else 0
    (o.1, o.2, memb, nwait))

/-- A barrier entry with its object as it stands now (R354); a poisoned word reads as 0, as in the scratchpad section (R352). -/
def State.barEntry (s : State) (x : Nat × Nat × Nat × Nat) : List Byte :=
  let obj := match s.findTeam x.1 with | some u => (blankWords 8 u.scr u.scrBad).readN x.2.1 16 | none => 0
  toBytes 32 (x.2.1 % 2 ^ 19 + 2 ^ 19 * (x.2.2.1 % 16) + 2 ^ 64 * obj + 2 ^ 192 * x.2.2.2)

/-- An event entry of the header: DW0 to DW3 of the ring record (R314, R352). -/
def State.eventBytes (s : State) (x : Rec × Nat × Nat) : List Byte := ((s.recDws x.1 x.2.1 x.2.2).take 4).flatMap (toBytes 8)

/-- The faults of a dump: those delivered, in the order of delivery; those that still wait, with the domain to which they would go now; the
poisoned words that the dump itself meets, which stand for faults of their crew's domain and are not delivered (DESIGN CHOICE, log 108). -/
def State.dumpEvents (s : State) (d : Debug) (met : List Rec) : List (Rec × Nat × Nat) :=
  d.told ++ d.events.map (fun r => match s.recTarget r with
      | some (f, _, esc) => ({ r with escd := esc }, f, (s.ringOf r.ctx f).tail)
      | none => (r, 0xFFFF, 0)) ++ met.map (fun r => (r, r.fdom, 0))

/-- The number of events in the header, and the first four (R352). -/
def State.eventPart (s : State) (events : List (Rec × Nat × Nat)) : List Byte :=
  toBytes 4 (Nat.min 255 events.length) ++ toBytes 4 0 ++ ((events.take 4).flatMap s.eventBytes) ++ List.replicate (32 * (4 - Nat.min 4 events.length)) 0

/-- The header of a dump (R352), with the status still 0. -/
def State.dumpHeader (s : State) (t : Team) (cs : List Crew) (npend nbar : Nat) (events : List (Rec × Nat × Nat)) : List Byte :=
  let stops := cs.filterMap (fun c => let x := (s.debugOf c.core).sched c.sched; if x.stopped then some x.scyc else none)
  let scyc := match stops with | [] => 0 | a :: l => l.foldl Nat.min a
  toBytes 4 0 ++ toBytes 4 (t.serial % 2 ^ 24 + 2 ^ 24 * t.crews) ++ toBytes 4 t.teamid
    ++ toBytes 4 (s.coreNo t.core % 1024 + 2 ^ 10 * t.tiles + 2 ^ 15 * t.scrK) ++ toBytes 8 t.rcbVa ++ toBytes 8 scyc ++ toBytes 4 npend
    ++ toBytes 4 nbar ++ s.eventPart events ++ List.replicate 848 0

/-- The parts of a dump in the order in which they are written (R351, R352): the header, the crew blocks, the scratchpad, the tiles, the
pending writes, the barriers, the status word. -/
def State.dumpParts (s : State) (d : Debug) (t : Team) : List DumpPart :=
  let cs := inOrder (fun x y => decide (x.id ≤ y.id)) (s.crews.filter (fun c => c.team == t.serial))
  let pend := (cs.map s.pendEntries).flatten
  let bars := s.barEntries t cs d.bars
  let regs := cs.map (fun c => (c, s.dumpRegs c))
  let word := fun (c : Crew) => s.recOf c { cause := .poison, sub := 3, lmask := 0, pc := 0 } 0
  let met := (regs.map (fun p => p.2.2)).flatten
    ++ (match cs with | c :: _ => (t.scrBad ++ (t.tileBad.map (· / 2)).eraseDups).map (fun _ => word c) | [] => [])
    ++ cs.flatMap (fun (c : Crew) => c.cbad.map (fun _ => word c))
  let base := 0x400 + 98304 * t.crews
  let top := base + 1024 * t.scrK + 16384 * t.tiles
  let piece := fun (l : List Byte) => [areaPiece 0 l]
  { off := 0, len := 0x400, pieces := piece (s.dumpHeader t cs pend.length bars.length (s.dumpEvents d met)) }
    :: regs.map (fun p => { off := 0x400 + 98304 * p.1.id, len := 98304, pieces := s.crewBlock p.1 (s.accs.filter (fun x => x.serial == t.serial)) ++ p.2.1 })
    ++ [{ off := base, len := 1024 * t.scrK, pieces := [(0, 1024 * t.scrK, blankWords 8 t.scr t.scrBad)] }]
    ++ (List.range t.tiles).map (fun j => { off := base + 1024 * t.scrK + 16384 * j, len := 16384, pieces :=
        [(0, 16384, blankWords 4 ((t.tile[j]?).getD []) ((t.tileBad.filter (fun w => w / 4096 == j)).map (· % 4096)))] })
    ++ [{ off := top, len := 16 * pend.length, pieces := piece pend.flatten }, { off := top + 16 * pend.length, len := 32 * bars.length, pieces := [], bars := bars }
      , { off := 0, len := 0xB0, pieces := piece (toBytes 4 1), met := met }]

/-- The pieces of a part as it is written now: a barrier section reads its objects; the word that ends a dump follows the faults that were taken
up to then (R351, R354). -/
def State.partPieces (s : State) (d : Debug) (p : DumpPart) (last : Bool) : List Piece :=
  (if last then [areaPiece 0x28 (s.eventPart (s.dumpEvents d p.met))] else []) ++ p.pieces ++ [areaPiece 0 (p.bars.flatMap s.barEntry)]

/-- How many of the n bytes from an address on can be written, and whether those that follow cannot because their home is off, or their
sector is poisoned and is not covered (R320, R321, R351). What lies past the last byte of memory is dropped (log 77). -/
def State.dumpReach (s : State) (a n : Nat) : Nat × Bool :=
  match (sectorsOf a n).find? (fun k => (s.partAt (256 * k)).isNone || s.homeOff (256 * k)
      || s.store.poison.contains k && !(a ≤ 256 * k && 256 * k + 256 ≤ a + n)) with
  | some k => (256 * k - a, (s.partAt (256 * k)).isSome)
  | none => (n, false)

/-- Write a part of a dump from an address on, as far as it can be written. Bytes that no piece gives are left. -/
def State.dumpPart (s : State) (a n : Nat) (ps : List Piece) : State :=
  ps.foldl (fun s p => if p.1 ≥ n then s else s.agentPut none (a + p.1) (Nat.min p.2.1 (n - p.1)) p.2.2)
    (((sectorsOf a n).filter (fun k => a ≤ 256 * k && 256 * k + 256 ≤ a + n)).foldl State.clearPoison s)

/-- Actions that waited for the end of a dump act in their order (R351). -/
def State.releaseActs (s : State) (acts : List DumpAct) : State :=
  acts.foldl (fun s a => match a with
    | .act team (.kill c) => s.killOne team c
    | .act team (.killGate c cause) => (match s.crewAt team c with | some k => s.gateNow k cause | none => s)
    | .act team .killAll => s.killSerial team
    | .act _ _ => s
    | .save team addr asid secure op => match s.findTeam team with
      | some t => if s.saving team || s.crews.all (fun c => c.team != team || c.live == 0) then s.opFinish op else s.startSave t addr asid secure op
      | none => s.opFinish op) s

/-- End a dump with a status; what waited for its end goes on. -/
def State.endDump (s : State) (core st : Nat) : State :=
  let d := s.debugOf core
  (s.setDebug { d with dstat := st, dump := none, waiting := [], bars := [] }).releaseActs d.waiting

/-- A dump is aborted: the status word becomes 2 where it can be written (R351). -/
def State.abortDump (s : State) (core a : Nat) : State :=
  ((if (s.dumpReach a 4).1 == 4 then s.agentWrite a (toBytes 4 2) else s)).endDump core 4

/-- Whether the next write of a dump can be made: the drain is over, and no line that it writes is held (R117, R267, R351). -/
def State.dumpReady (s : State) (x : DumpRun) (t : Team) : Bool :=
  match x.todo with
  | none => s.saveReady t && !s.rangeHeld x.addr 0x400 && !(s.crews.filter (fun c => c.team == t.serial)).any s.spillsHeld
  | some (p :: _) => !s.rangeHeld (x.addr + p.off) (Nat.max 1 p.len)
  | some [] => true

/-- DUMP_WRITE: after its drain, the parts of the dump are written one after another, and the dump ends with the last (R351, R352); a write
that meets LAYER_OFF or POISON aborts it. -/
def execDumpWrite (core : Nat) (s : State) : Out :=
  let d := s.debugOf core
  match d.dump with
  | none => .next s
  | some x =>
    match s.findTeam x.team with
    | none => .next (s.abortDump core x.addr)
    | some t =>
      if !s.dumpReady x t then .next s
      else
        /- the first write reads what lies in the spill areas -/
        let s1 : State := if x.todo.isNone
          then (s.crews.filter (fun c => c.team == t.serial)).foldl State.spillsUse { s with freeCtr := s.freeCtr + 512 * t.crews } else s
        match x.todo.getD (s.dumpParts d t) with
        | [] => .next (s1.endDump core 2)
        | p :: rest =>
          let r := s1.dumpReach (x.addr + p.off) p.len
          let s2 := s1.dumpPart (x.addr + p.off) r.1 (s.partPieces d p rest.isEmpty)
          if r.2 then .next (s2.abortDump core x.addr)
          else if rest.isEmpty then .next (s2.endDump core 2)
          else .next (s2.setDebug { s2.debugOf core with dump := some { x with todo := some rest } })

/-! ### Slot counters -/

/-- FRZ: every counter of a core stops, or goes on, on one cycle (R356). -/
def execFrz (core value : Nat) (s : State) : Out :=
  if s.blockThere core then .next (s.setDebug { s.debugOf core with frz := bit value 0 }) else .next s

/-- CLR: every counter of a core becomes 0 (R356). -/
def execClr (core : Nat) (s : State) : Out :=
  if s.blockThere core then .next (s.setDebug { s.debugOf core with leaves := List.replicate 11 0, total := 0 }) else .next s

end Sys2Proof.Machine
end

