-- ==== Sys2Proof/Machine/Fabric.lean ====
section
/-! DEFINITION. The routers' time-out detectors and squall tokens, and Launo's ports (17 R339 to R341). What a packet holds is in the
accesses and copies of the state; the network changes only when they are performed (R340). -/
namespace Sys2Proof.Machine

/-- ROUTER_TIMEOUT_DETECT: the head of a router's buffer has not moved for 2,048 cycles; router 8 stands for the Launo inputs (R339,
R341). -/
def execRouterTimeoutDetect (router buffer : Nat) (s : State) : Out :=
  if router == 8 then
    .next { s with pkg := { s.pkg with launoFired := if s.pkg.launoFired.contains buffer then s.pkg.launoFired else s.pkg.launoFired ++ [buffer] } }
  else
    .next { s with pkg := { s.pkg with routers := s.pkg.routers.map (fun (r : Router) =>
      if r.stack == router && !r.fired.contains buffer then { r with fired := r.fired ++ [buffer] } else r) } }

/-- SQUALL_TOKEN_VISIT, within 20 cycles where no detector has fired: the router that holds the token drains at most 16 fired heads over the lee lane and passes the token on, in the
order of stack number (R339); in a Launo domain (any number but 0) the package drains its fired heads (R341). -/
def execSquallTokenVisit (domain : Nat) (s : State) : Out :=
  if domain == 0 then
    let k := s.pkg.token
    .next { s with pkg := { s.pkg with
      token := (k + 1) % 8
      tokenAge := 0
      routers := s.pkg.routers.map (fun (r : Router) => if r.stack == k then { r with fired := r.fired.drop 16 } else r) } }
  else .next { s with pkg := { s.pkg with launoFired := s.pkg.launoFired.drop 16 } }

/-- FLIT_REPLAY: a flit that failed its CRC is sent again, well or not; after 16 failures in a row the port is down (R341). -/
def execFlitReplay (port ok : Nat) (s : State) : Out :=
  .next { s with pkg := { s.pkg with ports := s.pkg.ports.modify port (fun n => if n ≥ 16 then 16 else if ok == 1 then 0 else n + 1) } }

end Sys2Proof.Machine
end

