-- ==== Sys2Proof/Machine/Losses.lean ====
section
/-! DEFINITION. Errors and their counts (16 R325, R326), losses of cores, dies and slices (16 R327, R328; 17 R342 to R346), the
command processors' heartbeat and takeover (16 R329, R330). -/
namespace Sys2Proof.Machine

/-! ### Errors -/

/-- SCRUB_PASS: one codeword is read; one bad symbol is corrected, more poison its sector, and an error that it already had is met (R325). An address from 2^52 up names a
byte of a partition's tensor space: partition, then 48 bits of offset (log 26). -/
def execScrubPass (addr errors : Nat) (s : State) : Out :=
  let ten := addr ≥ 2 ^ 52
  let p := addr / 2 ^ 48 % 16
  let off := addr % 2 ^ 48
  let there := if ten then s.pkg.parts.find? (fun q => q.num == p && off < q.tgranules * 65536) else (s.partAt addr).map (·.1)
  match there with
  | none => .next s
  | some q =>
    let stack := if ten then stackOfTower (s.tensorAt q off).1 else (s.homeStack addr).getD 0
    let word : Upset := if ten then ⟨some p, off / 64, errors ≥ 2⟩ else ⟨none, addr / 64, errors ≥ 2⟩
    let had := s.store.upsets.filter (fun u => u.ten == word.ten && u.line == word.line)
    let one := { word with bad := word.bad || had.any (·.bad) }
    if s.host.cur.depth ≥ 2 || s.stackOff stack || (errors == 0 && had.isEmpty) then .next s
    else .next ({ s with store := { s.store with upsets := s.store.upsets.filter (fun u => !had.contains u) } }.meet one)

/-- Change a crew of a team. -/
def State.modCrewOf (s : State) (team crew : Nat) (f : Crew → Crew) : State :=
  match s.crewAt team crew with
  | some k => s.modCrew k f
  | none => s

/-- Words of a team's arrays become poisoned: the stack of its core counts them, if they were not (R325, R326). -/
def State.strikeTeam (s : State) (team : Nat) (fresh : Team → Bool) : State :=
  match s.findTeam team with
  | some t => if fresh t then s.countErrs (s.stackOfCore t.core) 0 1 else s
  | none => s

/-- An error strikes (R324, R325). A word of an array stays poisoned until it is written; the stack of the die counts a word that becomes
poisoned when it strikes (R326, log 102). A word that is not there is not struck. -/
def State.strike (s : State) (x : Strike) : State :=
  let ofCrew := fun (team crew : Nat) (p : Crew → Bool) => match (s.crewAt team crew).bind s.crew? with | some c => p c | none => false
  match x with
  | .codeword u => { s with store := { s.store with upsets := (u :: s.store.upsets).eraseDups } }
  | .reg team crew lane n =>
    if !ofCrew team crew (fun c => (c.thread lane).regs.any (fun r => r.n == n && r.st.entry && !r.bad)) then s
    else (s.strikeTeam team (fun _ => true)).modCrewOf team crew (fun c => c.modThread lane (fun t =>
      { t with regs := t.regs.map (fun (r : Reg) => if r.n == n then { r with bad := true } else r) }))
  | .creg team crew n =>
    if n ≥ 64 || !ofCrew team crew (fun c => !c.cbad.contains n) then s
    else (s.strikeTeam team (fun _ => true)).modCrewOf team crew (fun c => { c with cbad := n :: c.cbad })
  | .scr team w =>
    (s.strikeTeam team (fun t => decide (w < 128 * t.scrK) && !t.scrBad.contains w)).modTeam team (fun t =>
      if w < 128 * t.scrK then { t with scrBad := (w :: t.scrBad).eraseDups } else t)
  | .tile team n w =>
    let pair := [4096 * n + w / 2 * 2, 4096 * n + w / 2 * 2 + 1]
    (s.strikeTeam team (fun t => decide (n < t.tiles ∧ w < 4096) && pair.any (fun k => !t.tileBad.contains k))).modTeam team (fun t =>
      if n < t.tiles ∧ w < 4096 then { t with tileBad := (t.tileBad ++ pair).eraseDups } else t)
  | .dscr ctx die w =>
    let d := s.dscrOf ctx die
    if d.poisoned w || 8 * w ≥ (s.ctxOf ctx).ways die * 2 ^ 25 then s else (s.countErrs (s.physDie die / 2) 0 1).setDscr { d with bad := w :: d.bad }
  | .entry ten line =>
    let ks := (List.range 4).map (fun k => 4 * line + k)
    match ten with
    | none =>
      match s.homeStack (1024 * line) with
      | none => s
      | some k =>
        let ks := ks.filter (fun k => !s.store.poison.contains k)
        let s := s.countErrs k 0 ks.length
        { s with store := { s.store with poison := ks ++ s.store.poison } }
    | some p =>
      match s.pkg.parts.find? (fun q => q.num == p && decide (1024 * line < q.tgranules * 65536)) with
      | none => s
      | some q =>
        let ks := ks.filter (fun k => !s.store.tpoison.contains (p, k))
        let s := s.countErrs (stackOfTower (s.tensorAt q (1024 * line)).1) 0 ks.length
        { s with store := { s.store with tpoison := ks.map (fun k => (p, k)) ++ s.store.tpoison } }

/-- The errors whose cycle has come strike. -/
def State.strikeDue (s : State) : State :=
  if s.strikes.isEmpty then s
  else
    let due := s.strikes.filter (fun x => x.1 ≤ s.cycle)
    (due.map (·.2)).foldl State.strike { s with strikes := s.strikes.filter (fun x => !(x.1 ≤ s.cycle)) }

/-- ERROR_COUNT_CLEAR: a 1 written to CLR clears both counts of a stack (R326). -/
def execErrorCountClear (stack : Nat) (s : State) : Out :=
  .next { s with pkg := { s.pkg with errs := s.pkg.errs.modify stack (fun _ => (0, 0)) } }

/-! ### Teams that are lost -/

/-- The record of DIE_LOST that a team's domain gets (R327). -/
def State.dieLost (s : State) (t : Team) (sub : Nat) : State :=
  let (rid, s) := s.fresh
  let r : Rec := { rid := rid, ctx := t.ctx, cause := .dieLost, sub := sub, fdom := t.fdom, gdepth := 0, lanes := false, escd := false
                   serial := t.serial, crew := 0, lmask := 0, pc := 0, addr := 0, info := 0, ilane := 0, core := t.core, page := none }
  { s with cp := { s.cp with faultQ := s.cp.faultQ ++ [r] } }

/-- KILL of a team with DIE_LOST (R327); a dump of the team is aborted, and what waited for its end goes on (R351). -/
def State.loseTeam (s : State) (t : Team) (sub : Nat) : State :=
  let s := s.killTeam t.serial
  (match s.dumpCore t.serial with
    | none => s
    | some core => s.abortDump core (match (s.debugOf core).dump with | some x => x.addr | none => 0)).dieLost t sub

/-- Teams with a crew on a lost core, and the rest of their cohorts, resident or saved, are killed (R327); a save of such a team ends with
it. -/
def State.loseTeams (s : State) (lost : Nat → Bool) (sub : Nat) : State :=
  let own := s.teams.filter (fun t => !t.ended && lost t.core)
  let others := (own.flatMap s.cohortOf).filter (fun t => !t.ended && !lost t.core)
  let others := others.eraseDups
  let gone := (own ++ others).map (·.serial)
  let away := s.saved.filter (fun v => v.status != 0 && own.any (fun t => v.team.clvl != 0 && v.team.ctx == t.ctx && v.team.node == t.node
    && v.team.teamid / v.team.csize == t.teamid / t.csize))
  let ops := (s.saved.filter (fun v => v.status == 0 && gone.contains v.team.serial)).map (·.op)
  let s := { s with saved := s.saved.filter (fun (v : Saved) => !(v.status == 0 && gone.contains v.team.serial)) }
  let s := ops.foldl State.opFinish s
  let s := others.foldl (fun s t => s.loseTeam t 3) (own.foldl (fun s t => s.loseTeam t sub) s)
  away.foldl (fun s v => (s.killSaved v).dieLost v.team 3) s

/-- CORE_FAILURE: a core fails (R327). -/
def execCoreFailure (core : Nat) (s : State) : Out :=
  if !s.coreAlive core then .next s
  else
    let s := { s with pkg := { s.pkg with failedCores := s.pkg.failedCores ++ [core] } }
    .next ((s.loseTeams (· == core) 2).endTeams)

/-- SPARE_CORE_MAP: once the crews of a failed core are gone, its cluster's spare takes its number; without a spare the core is lost
(R328). -/
def execSpareCoreMap (core : Nat) (s : State) : Out :=
  if !s.pkg.failedCores.contains core || s.crews.any (fun c => c.core == core) then .next s
  else
    let used := s.pkg.sparesUsed.contains (clusOf core)
    .next { s with
      pkg := { s.pkg with
        failedCores := s.pkg.failedCores.filter (· != core)
        sparesUsed := if used then s.pkg.sparesUsed else s.pkg.sparesUsed ++ [clusOf core]
        lostCores := if used then s.pkg.lostCores ++ [core] else s.pkg.lostCores }
      store := { s.store with
        l1 := s.store.l1.filter (fun x => x.core != core), icache := s.store.icache.filter (fun x => x.core != core)
        coreTlb := s.store.coreTlb.filter (fun x => x.1 != core), lookups := s.store.lookups.filter (fun x => x.core != core) } }

/-! ### Contents that are lost -/

/-- Sectors that a die's lines of a kind hold dirty, with its W sectors of that kind (R343). -/
def State.dirtyOf (s : State) (die : Nat) (p : L2Line → Bool) (w : WSec → Bool) : List Nat :=
  ((s.store.l2.filter (fun l => l.die == die && p l)).flatMap (fun l =>
      (List.range 4).filterMap (fun k => match (l.sts[k]?).getD LState.i with | .m => some (4 * l.line + k) | .o => some (4 * l.line + k) | _ => none)))
    ++ ((s.store.wsecs.filter (fun x => x.die == die && w x)).map (·.sector))

/-- Lines of a die are lost: clean ones are dropped, what was dirty or in W is poisoned (R328, R343). -/
def State.loseLines (s : State) (die : Nat) (p : L2Line → Bool) (w : WSec → Bool) : State :=
  let bad := s.dirtyOf die p w
  let s := s.countErrs (s.physDie die / 2) 0 (bad.filter (fun k => !s.store.poison.contains k)).eraseDups.length
  { s with store := { s.store with
      poison := (s.store.poison ++ bad).eraseDups
      l2 := s.store.l2.filter (fun l => !(l.die == die && p l))
      wsecs := s.store.wsecs.filter (fun x => !(x.die == die && w x)) } }

/-- SPARE_SLICE_MAP: a failed slice of a logical die loses its contents, and a spare takes its number (R328). -/
def execSpareSliceMap (die slice : Nat) (s : State) : Out :=
  match s.pkg.dies.find? (fun d => d.log == some die && !d.failed) with
  | none => .next s
  | some d =>
    let seed := fun (ctx : Nat) (shr : Bool) => (s.ctxOf ctx).seedFor shr
    let line := fun (l : L2Line) => sliceOf (1024 * l.line) (seed l.ctx l.shr) == slice
    let wsec := fun (x : WSec) =>
      let shr := match s.store.l2.find? (fun l => l.die == die && l.line == x.sector / 4) with | some l => l.shr | none => false
      sliceOf (256 * x.sector) (seed x.ctx shr) == slice
    let s := s.loseLines die line wsec
    let dscr := s.store.dscr.map (fun (x : DScr) => if x.die != die then x else
      { x with
        lost := (slice, (s.ctxOf x.ctx).ways die * 2 ^ 25) :: x.lost.filter (fun p => p.1 != slice)
        fresh := x.fresh.filter (fun w => w / 128 % 64 != slice) })
    let more := (s.ctxs.filter (fun x => x.ways die != 0 && !s.store.dscr.any (fun y => y.ctx == x.id && y.die == die))).map (fun (x : Ctx) =>
      ({ ctx := x.id, die := die, mem := [], bad := [], lost := [(slice, x.ways die * 2 ^ 25)], fresh := [] } : DScr))
    let s := { s with store := { s.store with dscr := dscr ++ more } }
    .next (if d.spareSlices.length < 2 then s.modDie d.phys (fun d => { d with spareSlices := slice :: d.spareSlices.filter (· != slice) }) else s)

/-! ### Dies -/

/-- The default answer to a heartbeat (DESIGN CHOICE, log 119): a die that has missed one does not answer, 0; a link that did not wake when it should has not
woken, 2; else the die answers, 1. -/
def Die.answer (d : Die) : Nat :=
  if d.hbMiss.isSome then 0 else match d.wakeAge with | some n => if n == 0 then 1 else 2 | none => 1

/-- VERTICAL_LINK_HEARTBEAT: a heartbeat goes to a die, which answers, 1, or does not, 0, and the time to its declaration then runs from the
first that it did not answer (R342). On a sleeping link there is none. One that is answered wakes a link that is waking; of such a link any
other number says that it has not woken yet. -/
def execVerticalLinkHeartbeat (die answered : Nat) (s : State) : Out :=
  let d := s.die die
  if d.log.isNone || d.failed || (d.asleep && d.wakeAge.isNone) then .next s
  else
    .next (s.modDie die (fun d =>
      let d := { d with hbAt := s.cycle }
      if answered == 1 then { d with asleep := false, wakeAge := none }
      else if answered == 0 || !d.asleep then { d with hbMiss := some (d.hbMiss.getD 0) } else d))

/-- The effects of a die's declaration as failed (R327, R342, R343): its teams are killed, what its cores and engines had under way is
lost with its die scratch, and its shards are to be rebuilt. -/
def State.loseDie (s : State) (phys cause : Nat) : State :=
  match (s.die phys).log with
  | none => s
  | some k =>
    let s := s.modDie phys (fun d => { d with failed := true, rebuilding := true, rebuildAge := 0, asleep := false, hbMiss := none, wakeAge := none })
    let s := { s with pkg := { s.pkg with dfail := if bit s.pkg.dfail phys then s.pkg.dfail else s.pkg.dfail + 2 ^ phys
                                          dcause := if cause == 1 && !bit s.pkg.dcause phys then s.pkg.dcause + 2 ^ phys else s.pkg.dcause } }
    let s := s.loseTeams (fun c => dieOf c == k) 1
    let here := fun (core : Nat) => dieOf core == k
    let s := { s with
      accs := s.accs.filter (fun a => !here a.core), accq := s.accq.filter (fun e => !here e.core)
      copies := s.copies.filter (fun c => !here c.core), dictlds := s.dictlds.filter (fun d => !here d.core)
      store := { s.store with
        dscr := s.store.dscr.filter (fun d => d.die != k), l1 := s.store.l1.filter (fun x => !here x.core)
        icache := s.store.icache.filter (fun x => !here x.core), coreTlb := s.store.coreTlb.filter (fun x => !here x.1)
        llTlb := s.store.llTlb.filter (fun x => x.1 != k), lookups := s.store.lookups.filter (fun x => !here x.core) } }
    s.endTeams

/-- LINK_LOST: 5 µs after the first heartbeat that a die did not answer (R342). -/
def execLinkLost (die : Nat) (s : State) : Out :=
  match (s.die die).hbMiss with
  | some n => if n ≥ 5 * Config.microsecond && !(s.die die).failed then .next (s.loseDie die 0) else .next s
  | none => .next s

/-- The link wake limit in µs (R342). -/
def Package.wakeLimit (p : Package) : Nat := Nat.min 1000 (Nat.max 10 p.lwl)

/-- LINK_WAKE_EXPIRED: a link has been waking for the wake limit (R342). -/
def execLinkWakeExpired (die : Nat) (s : State) : Out :=
  match (s.die die).wakeAge with
  | some n => if n ≥ Config.microsecond * s.pkg.wakeLimit && !(s.die die).failed then .next (s.loseDie die 1) else .next s
  | none => .next s

/-- The shards that lay on a die move to the other die of its stack, if that one has not failed (R343, R346). -/
def Package.moveShards (p : Package) (die : Nat) : Package :=
  let stack := die / 2
  let other := 2 * stack + (1 - die % 2)
  let lay := [0, 1].filterMap (fun j => if p.shardOf stack (1024 * j) == die then some (2 * stack + j, other) else none)
  if p.dies.any (fun d => d.phys == other && d.log.isSome && !d.failed)
  then { p with shardAt := lay ++ p.shardAt.filter (fun x => !lay.any (fun y => y.1 == x.1)) } else p

/-- SHARD_REBUILD: the failed die leaves every directory, what it held in M, O or W is poisoned, its shards move to the other die of the
stack, and the held requests go on (R343). It happens within 10 µs of the declaration. -/
def execShardRebuild (die : Nat) (s : State) : Out :=
  let d := s.die die
  if !d.rebuilding then .next s
  else
    match d.log with
    | none => .next s
    | some k =>
      let s := s.loseLines k (fun _ => true) (fun _ => true)
      let s := s.modDie die (fun d => { d with rebuilding := false })
      .next { s with pkg := s.pkg.moveShards die }

/-! ### The command processors -/

/-- CP_HEARTBEAT: the active command processor tells the standby that it runs (R329). -/
def execCpHeartbeat (s : State) : Out :=
  if s.cp.failed then .next s else .next { s with cp := { s.cp with hbAge := 0 } }

/-- The kind and scope of a journal record. -/
def State.journalAt (s : State) (k : Nat) : Nat := s.store.mem.readN (s.cp.jbase * 4096 + 32 * (k % s.cp.records)) 32

/-- The journal records from CONS to WSEQ − 1, oldest first (R329). -/
def State.openRecords (s : State) : List Nat := (List.range (s.cp.wseq - s.cp.cons)).map (fun k => s.journalAt (s.cp.cons + k))

/-- Edges onto a node from the finished nodes of the store. -/
def State.edgesOnto (s : State) (ctx node : Nat) : Nat :=
  ((s.cp.nstore.filter (fun c => c.st == NodeSt.done && c.ctx == ctx)).map (fun c => (c.succs.filter (· == node)).length)).sum

/-- Pending counts and states of the nodes, rebuilt from the node store and the journal (R329): a node has started where the journal says so,
or where its START record is no longer open; decrements for nodes that have not been accepted are held again. -/
def State.rebuildNodes (s : State) : State :=
  let started := fun (c : Node) => s.openRecords.any (fun v => field v 64 8 == 3 && field v 80 12 == c.ctx && field v 96 32 == c.id
    && decide (field v 0 64 ≥ c.seq))
  let nodes := s.cp.nodes.map (fun (n : Node) =>
    match s.cp.nstore.find? (fun c => c.ctx == n.ctx && c.id == n.id && c.seq == n.seq) with
    | some c => { c with pred := c.pred - s.edgesOnto c.ctx c.id, st := if started c then NodeSt.started else n.st, bad := n.bad, ran := n.ran }
    | none => n)
  let held := (s.cp.nstore.filter (fun c => c.st == NodeSt.done)).flatMap (fun c =>
    (c.succs.filter (fun k => !nodes.any (fun n => n.ctx == c.ctx && n.id == k))).map (fun k => (c.ctx, k, c.id)))
  { s with cp := { s.cp with nodes := nodes, heldDecs := held } }

/-- What SAVED, RESTORED and LOST records say is confirmed from the status words of the save areas: 1 or 4 of a saved team is taken from
the area (R260, R329). -/
def State.confirmSaved (s : State) : State :=
  let named := fun (v : Saved) => s.openRecords.any (fun r => 6 ≤ field r 64 8 && field r 64 8 ≤ 8 && field r 128 24 == v.team.serial % 2 ^ 24)
  { s with saved := s.saved.map (fun (v : Saved) =>
    if v.status == 0 || !named v then v
    else match s.saveRead v 1 0 4 with
      | .ok m => let w := m.readN 0 4; if w == 1 || w == 4 then { v with status := w } else v
      | .error _ => v) }

/-- The actions whose records were written are completed by the new processor (R329): MAINT by a push of every die, which any push may
be (R109), COPY and SIGNAL again and whole; teams that no queue engine holds are dealt again by TEAM_DEAL. -/
def State.redoRecords (s : State) : State :=
  let maint := s.openRecords.any (fun v => field v 64 8 == 0x0B && decide (field v 160 3 ≥ 3))
  let s := if maint then s.pushIf (fun w => !s.fabricHolds (some w.die) (256 * w.sector)) else s
  (s.cp.nodes.filter (fun n => n.st == NodeSt.started)).foldl (fun (s : State) n =>
    if n.kind == 2 && n.arg2 != 0 && s.located n.arg0 && s.located (n.arg0 + n.arg2 - 1) && s.located n.arg1 && s.located (n.arg1 + n.arg2 - 1) then
      if s.rangeHeld n.arg1 n.arg2 then s.post { place := .at n.arg1, data := s.store.mem.bytes n.arg0 n.arg2 } else s.cpCopy n.arg0 n.arg1 n.arg2
    else if n.kind == 3 && s.located n.arg0 then s.post { place := .at n.arg0, data := toBytes 8 n.arg1 }
    else s) s

/-- CP_HEARTBEAT_TIMEOUT: after 5 µs without a heartbeat the standby takes over from the journal and the node store, and TAKEOVER is
written (R329, R330); without a standby every context is lost, and the
management function reports it (R330; the report's form is not given, log 103). -/
def execCpHeartbeatTimeout (s : State) : Out :=
  if s.cp.hbAge < 5 * Config.microsecond then .next s
  else if !s.cp.standby then
    if s.cp.failed then
      let s := (s.ctxs.filter (fun x => !x.lost)).foldl (fun s x => s.markLost x.id) s
      .next { s with cp := { s.cp with lossReport := true } }
    else .next s
  else
    let found := s.cp.wseq
    let now := 4 - s.cp.active
    let s := s.rebuildNodes.redoRecords.confirmSaved
    let s := s.journal 0x0C 0 0 0 (now / 4 + 2 ^ 64 * (found % 2 ^ 64))
    .next { s with cp := { s.cp with active := now, standby := false, failed := false, hbAge := 0, takeovers := s.cp.takeovers + 1 } }

end Sys2Proof.Machine
end

