-- ==== Sys2Proof/Machine/Sha.lean ====
section
/-! DEFINITION. SHA-384, with which responses are hashed (20 R371). The spec names it and does not give it: FIPS 180-4 (PRESUMED, log 109).
Its constants are computed from what they stand for, the fractions of roots of the first primes. -/
namespace Sys2Proof.Machine

/-- The primes below 410, smallest first: there are eighty. -/
def shaPrimes : List Nat := (List.range 410).filter (fun p => 2 ≤ p && (List.range p).all (fun d => d < 2 || p % d != 0))

/-- The largest number whose k-th power is at most x, that has the bits of r and others below bit n. -/
def rootFrom (k x : Nat) : Nat → Nat → Nat
  | 0, r => r
  | n + 1, r => rootFrom k x n (if (r + 2 ^ n) ^ k ≤ x then r + 2 ^ n else r)

/-- The first 64 bits of the fraction of the k-th root of a prime. -/
def rootFraction (k p : Nat) : DWord := BitVec.ofNat 64 (rootFrom k (p * 2 ^ (64 * k)) 69 0)

/-- The constants of the eighty rounds, from cube roots; the value a digest starts from, from square roots of the ninth prime and on. -/
def shaSteps : List DWord := shaPrimes.map (rootFraction 3)
def shaStart : List DWord := ((shaPrimes.drop 8).take 8).map (rootFraction 2)

def beBytes (n v : Nat) : List Byte := (toBytes n v).reverse

/-- A message with its padding: a one bit, zeros, its length in 128 bits. -/
def shaPad (m : List Byte) : List Byte := m ++ (0x80 : Byte) :: List.replicate ((239 - m.length % 128) % 128) 0 ++ beBytes 16 (8 * m.length)

/-- The sum without carry of a word turned right by each of some counts. -/
def spin (x : DWord) (turns : List Nat) : DWord := turns.foldl (fun y n => y ^^^ x.rotateRight n) 0

/-- The eight values that a round reads lie in two histories, newest first, to which it adds one value each: `fore` is the standard's a with
what it passes on, `back` its e. -/
structure ShaTrail where
  fore : List DWord
  back : List DWord

def ShaTrail.round (h : ShaTrail) (kw : DWord) : ShaTrail :=
  match h.fore, h.back with
  | a :: b :: c :: d :: _, e :: f :: g :: z :: _ =>
    let carried := kw + z + spin e [14, 18, 41] + (g ^^^ (e &&& (f ^^^ g)))
    { fore := (carried + spin a [28, 34, 39] + (a &&& (b ||| c) ||| b &&& c)) :: h.fore, back := (carried + d) :: h.back }
  | _, _ => h

/-- Rounds over their constants. The words of the message still to be used slide along: each round takes the first of sixteen, and what the
standard makes of four of them comes after the last. -/
def ShaTrail.rounds : List DWord → List DWord → ShaTrail → ShaTrail
  | [], _, h => h
  | k :: ks, ws, h =>
    let word := fun n => (ws[n]?).getD 0
    let next := word 0 + (spin (word 1) [1, 8] ^^^ word 1 >>> 7) + word 9 + (spin (word 14) [19, 61] ^^^ word 14 >>> 6)
    ShaTrail.rounds ks (ws.drop 1 ++ [next]) (h.round (k + word 0))

/-- The value after a block of sixteen words. -/
def shaBlock (v : List DWord) (ws : List DWord) : List DWord :=
  let h := ShaTrail.rounds shaSteps ws { fore := v.take 4, back := v.drop 4 }
  v.zipWith (· + ·) (h.fore.take 4 ++ h.back.take 4)

/-- The blocks of a padded message, n of them. -/
def shaBlocks (p : List Byte) : Nat → List DWord
  | 0 => shaStart
  | n + 1 => shaBlock (shaBlocks p n) ((List.range 16).map fun k => BitVec.ofNat 64 (ofBytes ((p.drop (128 * n + 8 * k)).take 8).reverse))

/-- The digest of bytes: 48 bytes. -/
def sha384 (m : List Byte) : List Byte :=
  ((shaBlocks (shaPad m) ((shaPad m).length / 128)).take 6).flatMap fun v => beBytes 8 v.toNat

end Sys2Proof.Machine
end

