-- ==== Sys2Proof/Machine/Link.lean ====
section
/-! DEFINITION. The host link: functions and their reset (20 R367 to R369), attestation (20 R370, R371), bring-up (20 R372 to R374;
17 R332, R345, R382; 13 R248, R250). -/
namespace Sys2Proof.Machine

/-! ### Functions -/

/-- A clean line in place of a dirty one. -/
def LState.clean : LState → LState | .m => .e | .o => .s | x => x

/-- SPLITs in progress do nothing more on dies that are reset; one with no other die left has ended (R369). -/
def State.dropSplits (s : State) (ds : List Nat) : State :=
  s.drains.foldl (fun (s : State) d => match d.kind with
    | .split w dies =>
      let left := dies.filter (fun k => !ds.contains k)
      if left.isEmpty then s.endDrain d.id
      else { s with drains := s.drains.map (fun (e : Drain) => if e.id == d.id then { e with kind := .split w left } else e) }
    | _ => s) s

/-- Steps 3 to 5 of a function-level reset for a partition's logical dies (R369). -/
def State.resetDies (s : State) (ds : List Nat) : State :=
  let s := (s.loseTeams (fun core => ds.contains (dieOf core)) 1).endTeams
  let s := s.pushIf (fun w => ds.contains w.die)
  let s := s.dropSplits ds
  { s with
    ctxs := s.ctxs.map (fun (x : Ctx) => { x with split := x.split.filter (fun p => !ds.contains p.1) })
    store := { s.store with
      l2 := s.store.l2.map (fun (l : L2Line) => if ds.contains l.die then { l with sts := l.sts.map LState.clean } else l)
      dscr := s.store.dscr.filter (fun x => !ds.contains x.die) } }

/-- FUNCTION_LEVEL_RESET (R369, R380). The whole order of R369 is one step: nothing else comes between ERROR and CONFIG_UNLOCKED. -/
def execFunctionLevelReset (fn : Nat) (s : State) : Out :=
  if fn == 0 then .next (({ s with host := { s.host with busMaster := false } } : State).modFn 0 (fun f => { f with conf := [] }))
  else if !s.visible fn then .next s
  else
    let ds := match s.pkg.parts.find? (fun p => p.fn == fn) with | some p => s.partDies p | none => []
    let deep := s.host.cur.depth ≥ 2 || (match s.host.entering with | some t => t.depth ≥ 2 | none => false)
    if deep then .next (s.wakeFor (.functionLevelReset fn))
    else .next ((s.resetDies ds).modFn fn (fun f => { f with tdisp := .unlocked, streams := [], conf := [] }))

/-! ### Attestation -/

/-- Give a response on a function's mailbox. -/
def State.respond (s : State) (fn : Nat) (r : Response) : State := s.modFn fn (fun f => { f with responses := f.responses ++ [r] })

/-- A response whose bytes the spec leaves to the standards it names, or to keys it does not give (log 10). -/
def State.respondFree (s : State) (fn : Nat) (request : String) (arg : Nat) : State :=
  s.respond fn (.bytes request (Config.payload request arg (s.fn fn).responses.length))

/-- A request on the mailbox of a function that is visible; in every power state (R371, R380). -/
def spdm (fn : Nat) (s : State) (f : State → State) : Out := if s.visible fn then .next (f s) else .next s

/-- A message of the two vendor-defined sets: refused outside a secure session (R371). -/
def vendor (fn : Nat) (request : String) (s : State) (f : State → State) : Out :=
  spdm fn s (fun s => if (s.fn fn).session then f s else s.respond fn (.unsupported request))

/-- A TDISP message: the management function is outside TDISP, and refuses it (R368, DEDUCED, log 28). -/
def tdispMsg (fn : Nat) (request : String) (s : State) (f : State → State) : Out :=
  vendor fn request s (fun s => if fn == 0 then s.respond fn (.unsupported request) else f s)

def execGetVersion (fn : Nat) (s : State) : Out := spdm fn s (fun s => s.respond fn (.bytes "GET_VERSION" [0x12, 0x13]))
def execGetCapabilities (fn : Nat) (s : State) : Out := spdm fn s (fun s => s.respondFree fn "GET_CAPABILITIES" 0)
def execNegotiateAlgorithms (fn : Nat) (s : State) : Out := spdm fn s (fun s => s.respond fn (.algorithms "ECDSA P-384" "SHA-384"))
def execGetDigests (fn : Nat) (s : State) : Out := spdm fn s (fun s => s.respondFree fn "GET_DIGESTS" 0)
def execGetCertificate (fn : Nat) (s : State) : Out := spdm fn s (fun s => s.respondFree fn "GET_CERTIFICATE" 0)
def execChallenge (fn nonce : Nat) (s : State) : Out := spdm fn s (fun s => s.respondFree fn "CHALLENGE" nonce)

/-- A digest as the numbers of a response. -/
def digest (l : List Byte) : List Nat := (sha384 l).map BitVec.toNat

/-- The measurement blocks (R371). -/
def State.measured (s : State) (index : Nat) : Option (List Nat) :=
  match index with
  | 1 => some (digest s.host.firmware)
  | 2 => some (digest Config.bootRom)
  | 3 => some (digest (s.host.applied.bytes 0 4096))
  | 4 => some ((toBytes 2 s.pkg.dfail ++ toBytes 4 s.pkg.units).map BitVec.toNat)
  | _ => none

/-- GET_MEASUREMENTS: the four blocks of R371; any other index is not a request that the table lists. -/
def execGetMeasurements (fn index : Nat) (s : State) : Out :=
  spdm fn s (fun s => match s.measured index with
    | some l => s.respond fn (.bytes "GET_MEASUREMENTS" l)
    | none => s.respond fn (.unsupported "GET_MEASUREMENTS"))

/-- KEY_EXCHANGE opens the establishment of a session, and FINISH completes it (R371). -/
def execKeyExchange (fn nonce : Nat) (s : State) : Out :=
  spdm fn s (fun s => (s.respondFree fn "KEY_EXCHANGE" nonce).modFn fn (fun f => { f with handshake := true }))
def execFinish (fn : Nat) (s : State) : Out :=
  spdm fn s (fun s => if (s.fn fn).handshake then
      (s.respondFree fn "FINISH" 0).modFn fn (fun f => { f with handshake := false, session := true })
    else s.respond fn (.unsupported "FINISH"))
def execHeartbeat (fn : Nat) (s : State) : Out :=
  spdm fn s (fun s => s.respond fn (if (s.fn fn).session then .ok "HEARTBEAT" else .unsupported "HEARTBEAT"))
def execKeyUpdate (fn : Nat) (s : State) : Out :=
  spdm fn s (fun s => s.respond fn (if (s.fn fn).session then .ok "KEY_UPDATE" else .unsupported "KEY_UPDATE"))
def execEndSession (fn : Nat) (s : State) : Out :=
  spdm fn s (fun s => if (s.fn fn).session then (s.respond fn (.ok "END_SESSION")).modFn fn (fun f => { f with session := false })
    else s.respond fn (.unsupported "END_SESSION"))

/-- IDE key management (R368, R371): a stream holds the key last programmed, and runs between K_SET_GO and K_SET_STOP. -/
def execQuery (fn : Nat) (s : State) : Out := vendor fn "QUERY" s (fun s => s.respondFree fn "QUERY" 0)
def execKeyProg (fn stream key : Nat) (s : State) : Out :=
  vendor fn "KEY_PROG" s (fun s => (s.respond fn (.ok "KEY_PROG")).modFn fn (fun f =>
    { f with streams := (stream, key, false) :: f.streams.filter (fun x => x.1 != stream) }))
def setStream (fn stream : Nat) (request : String) (on : Bool) (s : State) : State :=
  (s.respond fn (.ok request)).modFn fn (fun f =>
    { f with streams := f.streams.map (fun (x : Nat × Nat × Bool) => if x.1 == stream then (x.1, x.2.1, on) else x) })
def execKSetGo (fn stream : Nat) (s : State) : Out := vendor fn "K_SET_GO" s (setStream fn stream "K_SET_GO" true)
def execKSetStop (fn stream : Nat) (s : State) : Out := vendor fn "K_SET_STOP" s (setStream fn stream "K_SET_STOP" false)

/-- Number of a TDISP state, in the order of R368. -/
def Tdisp.num : Tdisp → Nat | .unlocked => 0 | .locked => 1 | .run => 2 | .error => 3

/-- A TDISP request that moves the interface from one of some states to another (R368); in any other state it changes nothing, and
the response is an error of TDISP's own (log 10). -/
def tdispMove (fn : Nat) (request : String) (ok : Tdisp → Bool) (dest : Tdisp) (s : State) : State :=
  if ok (s.fn fn).tdisp then (s.respond fn (.ok request)).modFn fn (fun f => { f with tdisp := dest }) else s.respondFree fn request 0

def execGetTdispVersion (fn : Nat) (s : State) : Out := tdispMsg fn "GET_TDISP_VERSION" s (fun s => s.respondFree fn "GET_TDISP_VERSION" 0)
def execGetTdispCapabilities (fn : Nat) (s : State) : Out :=
  tdispMsg fn "GET_TDISP_CAPABILITIES" s (fun s => s.respondFree fn "GET_TDISP_CAPABILITIES" 0)
def execLockInterfaceRequest (fn : Nat) (s : State) : Out :=
  tdispMsg fn "LOCK_INTERFACE_REQUEST" s (tdispMove fn "LOCK_INTERFACE_REQUEST" (· == .unlocked) .locked)
def execGetDeviceInterfaceReport (fn : Nat) (s : State) : Out :=
  tdispMsg fn "GET_DEVICE_INTERFACE_REPORT" s (fun s => s.respondFree fn "GET_DEVICE_INTERFACE_REPORT" 0)
def execGetDeviceInterfaceState (fn : Nat) (s : State) : Out :=
  tdispMsg fn "GET_DEVICE_INTERFACE_STATE" s (fun s => s.respond fn (.value "GET_DEVICE_INTERFACE_STATE" (s.fn fn).tdisp.num))
def execStartInterfaceRequest (fn : Nat) (s : State) : Out :=
  tdispMsg fn "START_INTERFACE_REQUEST" s (tdispMove fn "START_INTERFACE_REQUEST" (· == .locked) .run)
def execStopInterfaceRequest (fn : Nat) (s : State) : Out :=
  tdispMsg fn "STOP_INTERFACE_REQUEST" s (tdispMove fn "STOP_INTERFACE_REQUEST" (fun _ => true) .unlocked)
def execUnsupportedRequest (fn : Nat) (s : State) : Out := spdm fn s (fun s => s.respond fn (.unsupported "UNSUPPORTED_REQUEST"))

/-! ### Bring-up -/

/-- A little-endian field of the configuration window (R373). -/
def State.cfg (s : State) (off n : Nat) : Nat := s.host.config.readN off n

/-- Partition p of the configuration: first die and log2 (R373). -/
def State.cfgPart (s : State) (p : Nat) : Nat × Nat := let w := s.cfg (0x10 + 4 * p) 4; (field w 0 4, field w 4 3)

/-- The bytes that the table requires to be zero (R373). -/
def State.cfgZeros (s : State) : Bool :=
  let n := s.cfg 4 4
  field n 5 27 == 0 && s.cfg 8 4 < 2 ^ 20 && s.cfg 0xC 4 == 0 && s.cfg 0x54 12 == 0
    && (List.range (Nat.min 16 (n % 32))).all (fun p => s.cfg (0x10 + 4 * p) 4 < 128)
    && (List.range 16).all (fun t => field (s.cfg (0x60 + 8 * t) 8) 6 10 == 0)
    && (List.range 64).all (fun q => s.cfg (0xE0 + q) 1 < 32)
    && s.host.config.all (fun c => c.1 < 0x120 || c.1 ≥ 0x1000)

/-- Whether partitions are aligned groups that do not overlap (R250, R373). -/
def partsFit (ps : List (Nat × Nat)) : Bool :=
  ps.all (fun p => p.2 ≤ 4 && p.1 % 2 ^ p.2 == 0)
    && (List.range 16).all (fun d => (ps.filter (fun p => p.1 ≤ d && d < p.1 + 2 ^ p.2)).length ≤ 1)

/-- Whether the configuration is accepted (R372, R373). The number of partitions must be 1 to 16 (log 29). -/
def State.cfgGood (s : State) : Bool :=
  let n := s.cfg 4 4 % 32
  let ps := (List.range n).map s.cfgPart
  s.cfg 0 4 == 1 && 1 ≤ n && n ≤ 16 && s.cfgZeros && partsFit ps
    && (List.range 16).all (fun d => field (s.cfg 0x50 4) (2 * d) 2 != 3)
    && (List.range 16).all (fun t => field (s.cfg (0x60 + 8 * t) 8) 0 6 ≤ 48)
    && (List.range 64).all (fun q =>
        let f := s.cfg (0xE0 + q) 1
        f == 0 || (f ≤ 16 && ps.any (fun p => p.1 + 1 == f) && (s.die (f - 1)).log.isSome))

/-- A 64-entry table over towers in ascending order: the entries run round them (R332). -/
def roundTable (ts : List Nat) : List Nat := if ts.isEmpty then [] else (List.range 64).map (fun k => (ts[k % ts.length]?).getD 0)

/-- The least, over the towers of a table, of what each entry of it can hold, in granules of 64 KiB: B(p) of R332, BT(p) of R382. -/
def tableDepth (tab ts : List Nat) (room : Nat → Nat) : Nat :=
  match ts.map (fun t => room t / Nat.max 1 ((tab.filter (· == t)).length)) with
  | [] => 0
  | a :: l => l.foldl Nat.min a

/-- The present towers of a partition (R332): those of its stacks, or the one of its die's parity. -/
def State.cfgTowers (s : State) (p : Nat × Nat) : List Nat :=
  let ts := if p.2 == 0 then [p.1] else (List.range (2 ^ p.2)).map (p.1 + ·)
  ts.filter (fun t => (s.tower t).present)

/-- A partition as bring-up sets it (R332, R382), its flat range starting at an address. -/
def State.cfgBuild (s : State) (num base : Nat) (p : Nat × Nat) : Part :=
  let ts := s.cfgTowers p
  let tt := ts.filter (fun t => (s.tower t).tsh != 0)
  let itab := roundTable ts
  let ttab := roundTable tt
  { num := num, first := p.1, log2 := p.2, fn := p.1 + 1, base := base, itab := itab, ttab := ttab
    granules := 64 * tableDepth itab ts (fun t => Config.towerGranules - 16384 * (s.tower t).tsh)
    tgranules := 64 * tableDepth ttab tt (fun t => 16384 * (s.tower t).tsh) }

/-- The partitions, with consecutive physical ranges in ascending order of their first die (R332). -/
def State.cfgParts (s : State) : List Part :=
  let ps := (List.range (s.cfg 4 4 % 32)).map (fun k => (k, s.cfgPart k))
  let ps := inOrder (fun a b => decide (a.2.1 ≤ b.2.1)) ps
  (ps.foldl (fun (acc : Nat × List Part) p =>
    let x := s.cfgBuild p.1 acc.1 p.2
    (acc.1 + 65536 * x.granules, acc.2 ++ [x])) (0, [])).2

/-- Steps 2 to 4 (R345, R372): bits 0 to 15 of `bad` are dies whose link fails training, bits 16 to 31 towers that fail their test; a
failing tower removes its base die, with both dies and both towers. Bits 33 and up, 64 to a physical die, are cores that their cluster's
spare does not replace (R328): they get no number, nor does a cluster that has lost all of its own. -/
def State.numberUnits (s : State) (bad : Nat) : State :=
  let gone := fun (stack : Nat) => bit bad (16 + 2 * stack) || bit bad (17 + 2 * stack)
  let up := (List.range 16).filter (fun k => !bit bad k && !gone (k / 2))
  let dies := (List.range 16).map (fun (k : Nat) =>
    let d := Die.reset k
    { d with log := if up.contains k then some ((up.filter (· < k)).length) else none, hbAt := s.cycle, out := !up.contains k
             temp := (s.die k).temp, limit := (s.die k).limit, scald := (s.die k).scald })
  let towers := (List.range 16).map (fun (t : Nat) => let w := Tower.reset t; { w with present := !gone (t / 2) })
  let nstk := ((List.range 8).filter (fun k => !gone k)).length
  let n := up.length
  let lost := (List.range (64 * n)).filter (fun c => bit bad (33 + 64 * ((up[c / 64]?).getD 0) + c % 64))
  let dead := (List.range (4 * n)).filter (fun u => (List.range 16).all (fun k => lost.contains (16 * u + k)))
  { s with pkg := { s.pkg with
      dies := dies, towers := towers, parts := [], off := [], leftOut := lost, sparesUsed := (lost.map clusOf).eraseDups
      units := (64 * n - lost.length) + 2 ^ 11 * (4 * n - dead.length) + 2 ^ 18 * n + 2 ^ 23 * nstk + 2 ^ 27 * ((2 * nstk) % 32) } }

/-- Step 5: the configuration is applied (R248, R250, R372, R373, R378). -/
def State.applyConfig (s : State) : State :=
  let dies := s.pkg.dies.map (fun (d : Die) => { d with cls := field (s.cfg 0x50 4) (2 * d.phys) 2 })
  let towers := s.pkg.towers.map (fun (t : Tower) =>
    let w := s.cfg (0x60 + 8 * t.num) 8
    { t with tsh := field w 0 6, wmask := field w 16 48 })
  let s := { s with pkg := { s.pkg with dies := dies, towers := towers } }
  let parts := s.cfgParts
  let used := fun (stack : Nat) => parts.any (fun p => p.holds (2 * stack) || p.holds (2 * stack + 1))
  let towers := s.pkg.towers.map (fun (t : Tower) =>
    { t with off := !parts.any (fun p => p.itab.contains t.num || p.ttab.contains t.num) || !used (t.num / 2) })
  { s with
    pkg := { s.pkg with parts := parts, towers := towers, off := (List.range 8).filter (fun k => !used k) }
    cp := { s.cp with queues := s.cp.queues.mapIdx (fun q (x : Queue) => { x with fn := s.cfg (0xE0 + q) 1 }) }
    host := { s.host with hlt := s.cfg 8 4 % 2 ^ 20, applied := s.host.config } }

/-- Steps 2 to 6 of bring-up (R372). Bit 32 of `bad`: the command processor does not start. It runs on base die 0, or on base die 4 where
0 has been left out; the standby is armed where both are there (log 30). -/
def State.bringUp (s : State) (bad : Nat) : State :=
  let stop := fun (s : State) (k : Nat) => { s with host := { s.host with bstat := k } }
  let s := s.numberUnits bad
  if s.pkg.dies.all (fun d => d.log.isNone) then stop s 2
  else if !s.cfgGood then stop s 3
  else
    let s := s.applyConfig
    let has0 := (s.tower 0).present
    let has4 := (s.tower 8).present
    if bit bad 32 || !(has0 || has4) then stop s 4
    else
      { s with
        cp := { s.cp with active := if has0 then 0 else 4, standby := has0 && has4, hbAge := 0, failed := false }
        host := { s.host with bstat := 0, ready := true } }

/-- BRINGUP_GO: bring-up, or a recovery attempt after a refused image (R370, R372, R374). What training and tests find is given from
outside. -/
def execBringupGo (untrained : Nat) (s : State) : Out :=
  let h := s.host
  if h.ready then .next s
  else if h.bstat == 1 then
    if !h.busMaster || h.imglen < 4096 || h.imglen > 2 ^ 26 then .next s
    else
      let img := s.store.hostMem.bytes (4096 * h.imga) h.imglen
      if Config.imageVerifies img then .next (({ s with host := { h with firmware := img, bstat := 0 } } : State).bringUp untrained)
      else .next s
  else if h.bstat == 0 && !Config.imageVerifies h.firmware then .next { s with host := { h with bstat := 1 } }
  else .next (s.bringUp untrained)

end Sys2Proof.Machine
end

