-- ==== Sys2Proof/Machine/Percolator.lean ====
section
/-! DEFINITION. The percolator (02 R49, R52 to R54; 16 R323): victims, spills, refills. -/
namespace Sys2Proof.Machine

/-! ### What a stalled bundle needs -/

/-- Registers that a destination class takes for a code (R43). -/
def DUse.words : DUse → Nat
  | .gen two | .noCrew two => if two then 2 else 1
  | .run n _ => n
  | .none | .discard => 0
  | _ => 1

/-- Lanes whose registers an instruction reads: one lane for what acts once per bundle, every lane of the bundle for a crossbar
operation, else the lanes whose guard is true. -/
def readersOf (i : Instr) (mask em : Mask) : Mask :=
  let low := maskOf ((lanesOf em).take 1)
  match i with
  | .perm _ | .redux _ | .quant _ => mask
  | .mma _ => 1
  | .mmag _ => em
  | .ald _ | .ast _ | .aepi _ | .swr _ | .tlbinv _ | .tlbinva _ | .ctxsave _ | .ctxrest _ | .park _ | .resume _ | .kill _ | .split _
  | .seedset _ | .eret _ | .gtwr _ | .htwr _ | .gtinv _ | .htinv _ => low
  | _ => em

/-- Coordinate registers that an instruction reads beside its sources (R215, R226). -/
def State.coordRegs (s : State) (c : Crew) (mask em : Mask) (i : Instr) : List (Nat × Nat) :=
  let x := s.ctxOf (s.teamOf c).ctx
  let rank := fun (h : Nat) => match s.handle x h with | .ok h => h.rank | .error _ => 0
  match i with
  | .mma f | .mmag f =>
    if bit f.ctl.toNat 8 then
      let ga := match i with | .mmag _ => true | _ => false
      let v := val (mmaOnly s c mask f ga) (if ga then 0 else 1)
      (mmaCoords s c mask f ga (rank v)).regs
    else []
  | .tcopy f =>
    let q := tcFields f
    if q.sk != 1 && q.dk != 1 then []
    else (lanesOf em).flatMap (fun l =>
      let rd := readLane s c mask (tcSrcs f) l
      let v := if q.sk == 1 then val rd.vals 1 else val rd.vals (1 + ofBool (q.sk != 0))
      if tcLogged c f l (rank v) then [] else (List.range (rank v)).map (fun j => (l, q.cr + j)))
  | _ => []

/-- Registers of current maps that an instruction reads, as (lane, register). -/
def State.readRegs (s : State) (c : Crew) (mask : Mask) (i : Instr) : List (Nat × Nat) :=
  match opcodeOf i with
  | none => []
  | some (_, f) =>
    let em := guardMask c mask f.hdr
    let ls := lanesOf (readersOf i mask em)
    let base := match memDesc i with
      | some d => ls.flatMap (fun l => (readLane s c mask (d.uses (fmtOfLane s c mask d l)) l).regs)
      | none => match shape i with
        | some p => ls.flatMap (fun l => (readLane s c mask p.srcs l).regs)
        | none => []
    match i with
    | .gate _ => (List.range 32).flatMap (fun l => (c.thread l).regs.map (fun r => (l, r.n)))
    | .gret _ => match c.frames with
      | fr :: _ => (List.range 32).flatMap (fun l => ((c.thread l).regs.filter (fun r => r.n < fr.nres)).map (fun r => (l, r.n)))
      | [] => []
    | _ => base ++ s.coordRegs c mask em i

/-- Whether a register of a thread is spilled, with no value still to come. -/
def spilledReg (l : List Reg) (n : Nat) : Bool := l.any (fun r => r.n == n && r.st == .spilled && !r.pend)

/-- The spilled registers of a frame's snapshot with no value still to come, as (lane, register). -/
def Frame.refills (f : Frame) : List (Nat × Nat) :=
  (List.range 32).flatMap (fun l =>
    ((((f.lanes[l]?).getD default).regs).filter (fun r => r.st == .spilled && !r.pend)).map (fun r => (l, r.n)))

/-- Those that the end of a gate call must have refilled (R169, R170), while no record of a refill that failed is open. -/
def State.endRefills (s : State) (c : Crew) : List (Nat × Nat) :=
  let hit := fun (r : Rec) => r.serial == c.team && r.crew == c.id && (r.cause == .pinFault || r.cause == .poison && r.sub == 1)
  match c.ending, c.frames with
  | some _, f :: _ => if s.cp.faultQ.any hit || s.cp.rings.any (fun g => g.recs.any (fun x => !x.ended && hit x.fault)) then [] else f.refills
  | _, _ => []

/-- Spilled registers that an instruction must have refilled, as (lane, register) (R53, R167, R169). -/
def State.refills (s : State) (c : Crew) (mask : Mask) (i : Instr) : List (Nat × Nat) :=
  let cur := (s.readRegs c mask i).filter (fun p => spilledReg (c.thread p.1).regs p.2)
  match i, c.frames with
  | .gret _, fr :: _ => cur ++ fr.refills
  | _, _ => cur

/-- Lanes whose bank cannot give an instruction the entries it takes (R46, R51), refills among them. -/
def State.blockedBanks (s : State) (c : Crew) (mask : Mask) (i : Instr) : Mask :=
  match opcodeOf i with
  | none => 0
  | some (_, f) =>
    let em := guardMask c mask f.hdr
    let d := f.hdr.dst.toNat
    let more := fun (srcs : List (Use × Src)) (n : Nat) (l : Nat) =>
      let t := c.thread l
      let x := newEntries t (releasedRegs t srcs) (dstRegs t d n)
      x.1 - x.2
    let need := fun (l : Nat) => match i with
      | .gate g => match gateFault s c g.imm.toNat with
        | .ok e => (calleeRegs e.narg (c.thread l).regs).length
        | .error _ => 0
      | i => if !em.getLsbD l then 0 else match memDesc i with
        | some m => let st := fmtOfLane s c mask m l; more (m.uses st) (m.dk st) l
        | none => match shape i with | some p => more p.srcs p.dst.words l | none => 0
    let back := (s.refills c mask i).map (·.1)
    maskOf ((List.range 32).filter (fun l =>
      (need l > 0 && !s.canTake c l (need l)) || (back.contains l && !s.canTake c l 1)))

/-- The instruction that a stalled bundle waits to issue. -/
def State.stalledInstr (s : State) (c : Crew) (mask : Mask) : Option Instr :=
  match lanesOf mask with
  | [] => none
  | l :: _ =>
    if (c.thread l).st == .stalled && !(c.thread l).why.event then
      match s.fetch c (c.thread l).pc with | .ok i => some i | _ => none
    else none

/-- The lane banks in which an allocation of a crew cannot go on. -/
def State.crewBlocked (s : State) (c : Crew) : Mask :=
  (c.bundles.map (fun b => match s.stalledInstr c b with | some i => s.blockedBanks c b i | none => 0)).foldl (· ||| ·)
    ((if c.bundles.isEmpty then 0 else s.unbacked c)
      ||| maskOf (((s.endRefills c).filter (fun p => !s.canTake c p.1 1)).map (·.1)))

/-! ### Victims -/

/-- Whether a PIN_FAULT record of a crew is open: it is no victim again (R323). -/
def State.pinFaulted (s : State) (c : Crew) : Bool :=
  let hit := fun (r : Rec) => r.serial == c.team && r.crew == c.id && r.cause == .pinFault
  s.cp.faultQ.any hit || s.cp.rings.any (fun g => g.recs.any (fun x => !x.ended && hit x.fault))

/-- The registers of a lane in the order in which a spill keeps them (R52): the current map from the lowest, then snapshots, the innermost
kept longest (DESIGN CHOICE, log 112); as (map level, register). -/
def Crew.keepOrder (c : Crew) (l : Nat) : List (Nat × Reg) :=
  let up := fun (g : Nat) (rs : List Reg) =>
    (inOrder (fun a b => decide (a.n ≤ b.n)) (rs.filter (fun r => r.st == .mapped))).map (fun r => (g, r))
  up 0 (c.thread l).regs ++ (c.frames.mapIdx (fun j f => up (c.gdepth - j) ((f.lanes[l]?).getD default).regs)).flatten

/-- Entries of a lane that a spill takes (R52). -/
def Crew.excess (c : Crew) (regmin l : Nat) : List (Nat × Nat) := ((c.keepOrder l).drop regmin).map (fun p => (p.1, p.2.n))

/-- The victim for a requester whose banks are blocked (R52, R54): below it in priority, or equal and more recent; the lowest priority,
then the most recent. -/
def State.victim (s : State) (k : Nat) (banks : Mask) : Option Nat :=
  match s.crew? k with
  | none => none
  | some c =>
    let prio := fun (d : Crew) => (s.teamOf d).prio
    let cand := (List.range s.crews.length).filter (fun j => match s.crew? j with
      | none => false
      | some d => j != k && d.core == c.core && d.live != 0
          && (prio d < prio c || prio d == prio c && d.order > c.order)
          && !s.pinFaulted d && !s.saving d.team && (s.dumpCore d.team).isNone
          && !d.threads.any (fun t => t.causes.contains .spill)
          && (lanesOf banks).any (fun l => !(d.excess (s.teamOf d).regmin l).isEmpty))
    cand.foldl (fun best j => match best, s.crew? j with
      | none, _ => some j
      | some b, some d => match s.crew? b with
        | some e => if prio d < prio e || prio d == prio e && d.order > e.order then some j else some b
        | none => some j
      | some b, none => some b) none

/-- Take the excess entries of a list of registers (R49, R52): a pending one is spilled at once. -/
def takeEntries (g : Nat) (out : List (Nat × Nat)) (l : List Reg) : List Reg :=
  l.map (fun (r : Reg) => if r.st == .mapped && out.contains (g, r.n)
    then { r with st := if r.pend && !r.keep then .spilled else .spilling, lvl := g } else r)

/-- A crew gives up its excess entries. -/
def Crew.spill (c : Crew) (regmin : Nat) : Crew :=
  let outs := (List.range 32).map (c.excess regmin)
  let out := fun (l : Nat) => (outs[l]?).getD []
  { c with
    threads := c.threads.mapIdx (fun l (t : Thread) => { t with regs := takeEntries 0 (out l) t.regs })
    frames := c.frames.mapIdx (fun j (f : Frame) => { f with
      lanes := f.lanes.mapIdx (fun l (x : LaneFrame) => { x with regs := takeEntries (c.gdepth - j) (out l) x.regs }) }) }

/-- Whether spill writes of a crew are under way. -/
def Crew.spilling (c : Crew) : Bool := c.savedRegs.any (fun x => x.2.2.st == .spilling)

/-- A victim whose spill writes are complete goes on (R52). -/
def Crew.spillDone (c : Crew) : Crew := if c.spilling then c else c.clearCauses allLanes (fun p => p == .spill)

/-- PERCOLATOR_SPILL: for a crew whose allocation is blocked, the percolator parks a victim and takes its excess entries (R52). -/
def execPercolatorSpill (team crew : Nat) (s : State) : Out :=
  match s.crewAt team crew with
  | none => .next s
  | some k =>
    match s.crew? k with
    | none => .next s
    | some c =>
      let banks := s.crewBlocked c
      if banks == 0 then .next s
      else
        match s.victim k banks with
        | none => .next s
        | some j =>
          .next ((s.parkCrew j .spill).modCrew j (fun d => (d.spill (s.teamOf d).regmin).spillDone))

/-! ### Spill writes and refills -/

/-- Change the registers of a lane at a map level. -/
def Crew.modRegs (c : Crew) (lane level : Nat) (f : List Reg → List Reg) : Crew :=
  if level == 0 then c.modThread lane (fun t => { t with regs := f t.regs })
  else { c with frames := c.frames.modify (c.gdepth - level) (fun fr =>
    { fr with lanes := fr.lanes.modify lane (fun x => { x with regs := f x.regs }) }) }

/-- Registers of a lane at a map level. -/
def Crew.regsAt (c : Crew) (lane level : Nat) : List Reg :=
  if level == 0 then (c.thread lane).regs
  else match c.frames[c.gdepth - level]? with
    | some f => ((f.lanes[lane]?).getD default).regs
    | none => []

/-- Change one register of a list. -/
def onReg (n : Nat) (f : Reg → Reg) (l : List Reg) : List Reg := l.map (fun r => if r.n == n then f r else r)

/-- Whether a register's value has still to be written to the spill area. -/
def RegSt.leaving (x : RegSt) : Bool := x == .spilling || x == .late

/-- SPILL_WRITE_COMPLETE: a value reaches the spill area, and its entry, where it has one, becomes FREE; a PIN_FAULT abandons the spill, and
parks the victim (R49, R52, R323). -/
def execSpillWriteComplete (team crew lane level reg : Nat) (s : State) : Out :=
  match s.crewAt team crew with
  | none => .next s
  | some k =>
    match s.crew? k with
    | none => .next s
    | some c =>
      match (c.regsAt lane level).find? (fun r => r.n == reg && r.st.leaving) with
      | none => .next s
      | some r =>
        if s.spillHeld c r.lvl reg lane .write then .next s
        else
        match s.spillPa c r.lvl reg lane .write with
        | .ok pa =>
          .next (((s.spillUse c r.lvl reg lane).pkgWrite (some (s.spillFill c r.lvl reg lane).writer) pa (toBytes 4 r.v.toNat)).modCrew k (fun c =>
            (c.modRegs lane level (onReg reg (fun r => if r.st.leaving then { r with st := .spilled } else r))).spillDone))
        | .error _ =>
          let keep := fun (l : List Reg) => l.map (fun (r : Reg) => if r.st.leaving then { r with st := .mapped } else r)
          let s := (s.spillUse c r.lvl reg lane).modCrew k (fun (c : Crew) =>
            { c with
              threads := c.threads.map (fun (t : Thread) => { t with regs := keep t.regs })
              frames := c.frames.map (fun (f : Frame) => { f with lanes := f.lanes.map (fun (x : LaneFrame) => { x with regs := keep x.regs }) }) })
          let s := s.modCrew k Crew.spillDone
          .next (s.takeFault k { cause := .pinFault, lmask := maskOf [lane], pc := (c.thread lane).pc
                                 addr := spillVa (s.teamOf c) crew r.lvl reg lane })

/-- Map level at which a register of a lane is spilled: the current map first, then the innermost snapshot. -/
def Crew.spilledLevel (c : Crew) (lane reg : Nat) : Option Nat :=
  (0 :: (List.range c.gdepth).map (fun j => c.gdepth - j)).find? (fun g => spilledReg (c.regsAt lane g) reg)

/-- Whether the refill of a register waits (R103, R117, R300). -/
def State.refillHeld (s : State) (c : Crew) (lane reg : Nat) : Bool :=
  match c.spilledLevel lane reg with
  | none => false
  | some g => (c.regsAt lane g).any (fun r => r.n == reg && s.spillHeld c r.lvl reg lane .read)

/-- REGISTER_REFILL_COMPLETE: a spilled register's value returns from the spill area to a fresh entry (R53). -/
def execRegisterRefillComplete (team crew lane reg : Nat) (s : State) : Out :=
  match s.crewAt team crew with
  | none => .next s
  | some k =>
    match s.crew? k with
    | none => .next s
    | some c =>
      match c.spilledLevel lane reg with
      | none => .next s
      | some g =>
        match (c.regsAt lane g).find? (fun r => r.n == reg) with
        | none => .next s
        | some r =>
          if !s.canTake c lane 1 || s.spillHeld c r.lvl reg lane .read then .next s
          else
            let s := s.spillUse c r.lvl reg lane
            match s.spillPa c r.lvl reg lane .read with
            | .ok pa =>
              if (s.poisonRead (dieOf c.core) (.phys pa) 4).isSome then
                .next ((s.check (.phys pa) 4).takeFault k { cause := .poison, sub := 1, lmask := maskOf [lane], pc := (c.thread lane).pc })
              else
                .next (((s.check (.phys pa) 4).cacheRead (s.spillFill c r.lvl reg lane) 1 pa).modCrew k (fun c => c.modRegs lane g (onReg reg (fun r =>
                  { r with v := BitVec.ofNat 32 (s.memRead pa 4), st := .mapped }))))
            | .error _ =>
              .next (s.takeFault k { cause := .pinFault, lmask := maskOf [lane], pc := (c.thread lane).pc
                                     addr := spillVa (s.teamOf c) crew r.lvl reg lane })

end Sys2Proof.Machine
end

