-- ==== Sys2Proof/Machine/Dispatch.lean ====
section
/-! DEFINITION. The dispatch of every step to its meaning: one arm per constructor of Instr, in the order of the opcode
table. -/
namespace Sys2Proof.Machine

/-- The effect of one step of the part: an instruction for the bundle in `cur`, or an event. -/
def exec (i : Instr) (s : State) : Host.Outcome State Fault Refusal :=
  match i with
  | .add f => Sys2Proof.Machine.execAdd f s
  | .sub f => Sys2Proof.Machine.execSub f s
  | .mul f => Sys2Proof.Machine.execMul f s
  | .mulhi f => Sys2Proof.Machine.execMulhi f s
  | .min f => Sys2Proof.Machine.execMin f s
  | .max f => Sys2Proof.Machine.execMax f s
  | .abs f => Sys2Proof.Machine.execAbs f s
  | .neg f => Sys2Proof.Machine.execNeg f s
  | .and f => Sys2Proof.Machine.execAnd f s
  | .or f => Sys2Proof.Machine.execOr f s
  | .xor f => Sys2Proof.Machine.execXor f s
  | .not f => Sys2Proof.Machine.execNot f s
  | .shl f => Sys2Proof.Machine.execShl f s
  | .shr f => Sys2Proof.Machine.execShr f s
  | .sar f => Sys2Proof.Machine.execSar f s
  | .rol f => Sys2Proof.Machine.execRol f s
  | .popc f => Sys2Proof.Machine.execPopc f s
  | .clz f => Sys2Proof.Machine.execClz f s
  | .brev f => Sys2Proof.Machine.execBrev f s
  | .adda f => Sys2Proof.Machine.execAdda f s
  | .mov f => Sys2Proof.Machine.execMov f s
  | .div f => Sys2Proof.Machine.execDiv f s
  | .rem f => Sys2Proof.Machine.execRem f s
  | .setp f => Sys2Proof.Machine.execSetp f s
  | .pand f => Sys2Proof.Machine.execPand f s
  | .por f => Sys2Proof.Machine.execPor f s
  | .pxor f => Sys2Proof.Machine.execPxor f s
  | .pnot f => Sys2Proof.Machine.execPnot f s
  | .flclr f => Sys2Proof.Machine.execFlclr f s
  | .mad f => Sys2Proof.Machine.execMad f s
  | .sel f => Sys2Proof.Machine.execSel f s
  | .bfx f => Sys2Proof.Machine.execBfx f s
  | .bfi f => Sys2Proof.Machine.execBfi f s
  | .wsh f => Sys2Proof.Machine.execWsh f s
  | .ixset f => Sys2Proof.Machine.execIxset f s
  | .movi f => Sys2Proof.Machine.execMovi f s
  | .addi f => Sys2Proof.Machine.execAddi f s
  | .muli f => Sys2Proof.Machine.execMuli f s
  | .andi f => Sys2Proof.Machine.execAndi f s
  | .ori f => Sys2Proof.Machine.execOri f s
  | .xori f => Sys2Proof.Machine.execXori f s
  | .setpi f => Sys2Proof.Machine.execSetpi f s
  | .bra f => Sys2Proof.Machine.execBra f s
  | .call f => Sys2Proof.Machine.execCall f s
  | .meet f => Sys2Proof.Machine.execMeet f s
  | .gate f => Sys2Proof.Machine.execGate f s
  | .jmp f => Sys2Proof.Machine.execJmp f s
  | .callx f => Sys2Proof.Machine.execCallx f s
  | .ret f => Sys2Proof.Machine.execRet f s
  | .exit f => Sys2Proof.Machine.execExit f s
  | .elect f => Sys2Proof.Machine.execElect f s
  | .vote f => Sys2Proof.Machine.execVote f s
  | .trap f => Sys2Proof.Machine.execTrap f s
  | .bkpt f => Sys2Proof.Machine.execBkpt f s
  | .gret f => Sys2Proof.Machine.execGret f s
  | .nop f => Sys2Proof.Machine.execNop f s
  | .wait f => Sys2Proof.Machine.execWait f s
  | .padWord => Sys2Proof.Machine.execPadWord s
  | .ld f => Sys2Proof.Machine.execLd f s
  | .st f => Sys2Proof.Machine.execSt f s
  | .ldm f => Sys2Proof.Machine.execLdm f s
  | .stm f => Sys2Proof.Machine.execStm f s
  | .aadd f => Sys2Proof.Machine.execAadd f s
  | .amin f => Sys2Proof.Machine.execAmin f s
  | .amax f => Sys2Proof.Machine.execAmax f s
  | .aand f => Sys2Proof.Machine.execAand f s
  | .aor f => Sys2Proof.Machine.execAor f s
  | .axor f => Sys2Proof.Machine.execAxor f s
  | .axch f => Sys2Proof.Machine.execAxch f s
  | .acas f => Sys2Proof.Machine.execAcas f s
  | .afadd f => Sys2Proof.Machine.execAfadd f s
  | .amaxswap f => Sys2Proof.Machine.execAmaxswap f s
  | .ainc f => Sys2Proof.Machine.execAinc f s
  | .adec f => Sys2Proof.Machine.execAdec f s
  | .afmin f => Sys2Proof.Machine.execAfmin f s
  | .afmax f => Sys2Proof.Machine.execAfmax f s
  | .fence f => Sys2Proof.Machine.execFence f s
  | .stsig f => Sys2Proof.Machine.execStsig f s
  | .binit f => Sys2Proof.Machine.execBinit f s
  | .bexpb f => Sys2Proof.Machine.execBexpb f s
  | .barr f => Sys2Proof.Machine.execBarr f s
  | .binv f => Sys2Proof.Machine.execBinv f s
  | .pref f => Sys2Proof.Machine.execPref f s
  | .clwb f => Sys2Proof.Machine.execClwb f s
  | .clevict f => Sys2Proof.Machine.execClevict f s
  | .clrrv f => Sys2Proof.Machine.execClrrv f s
  | .fadd f => Sys2Proof.Machine.execFadd f s
  | .fsub f => Sys2Proof.Machine.execFsub f s
  | .fmul f => Sys2Proof.Machine.execFmul f s
  | .fdiv f => Sys2Proof.Machine.execFdiv f s
  | .fmin f => Sys2Proof.Machine.execFmin f s
  | .fmax f => Sys2Proof.Machine.execFmax f s
  | .fabs f => Sys2Proof.Machine.execFabs f s
  | .fneg f => Sys2Proof.Machine.execFneg f s
  | .fsqrt f => Sys2Proof.Machine.execFsqrt f s
  | .frcp f => Sys2Proof.Machine.execFrcp f s
  | .frsq f => Sys2Proof.Machine.execFrsq f s
  | .fexp2 f => Sys2Proof.Machine.execFexp2 f s
  | .flog2 f => Sys2Proof.Machine.execFlog2 f s
  | .ftanh f => Sys2Proof.Machine.execFtanh f s
  | .fscl f => Sys2Proof.Machine.execFscl f s
  | .frnd f => Sys2Proof.Machine.execFrnd f s
  | .fclass f => Sys2Proof.Machine.execFclass f s
  | .fsetp f => Sys2Proof.Machine.execFsetp f s
  | .cvt f => Sys2Proof.Machine.execCvt f s
  | .perm f => Sys2Proof.Machine.execPerm f s
  | .redux f => Sys2Proof.Machine.execRedux f s
  | .pack f => Sys2Proof.Machine.execPack f s
  | .upk f => Sys2Proof.Machine.execUpk f s
  | .hadd2 f => Sys2Proof.Machine.execHadd2 f s
  | .hsub2 f => Sys2Proof.Machine.execHsub2 f s
  | .hmul2 f => Sys2Proof.Machine.execHmul2 f s
  | .hmin2 f => Sys2Proof.Machine.execHmin2 f s
  | .hmax2 f => Sys2Proof.Machine.execHmax2 f s
  | .hsetp2 f => Sys2Proof.Machine.execHsetp2 f s
  | .ffma f => Sys2Proof.Machine.execFfma f s
  | .hfma2 f => Sys2Proof.Machine.execHfma2 f s
  | .fsel f => Sys2Proof.Machine.execFsel f s
  | .quant f => Sys2Proof.Machine.execQuant f s
  | .cvpk f => Sys2Proof.Machine.execCvpk f s
  | .faddi f => Sys2Proof.Machine.execFaddi f s
  | .fmuli f => Sys2Proof.Machine.execFmuli f s
  | .mma f => Sys2Proof.Machine.execMma f s
  | .mmag f => Sys2Proof.Machine.execMmag f s
  | .aclr f => Sys2Proof.Machine.execAclr f s
  | .amov f => Sys2Proof.Machine.execAmov f s
  | .ald f => Sys2Proof.Machine.execAld f s
  | .ast f => Sys2Proof.Machine.execAst f s
  | .aepi f => Sys2Proof.Machine.execAepi f s
  | .tcopy f => Sys2Proof.Machine.execTcopy f s
  | .seal f => Sys2Proof.Machine.execSeal f s
  | .waitb f => Sys2Proof.Machine.execWaitb f s
  | .dictld f => Sys2Proof.Machine.execDictld f s
  | .srd f => Sys2Proof.Machine.execSrd f s
  | .swr f => Sys2Proof.Machine.execSwr f s
  | .tlbinv f => Sys2Proof.Machine.execTlbinv f s
  | .tlbinva f => Sys2Proof.Machine.execTlbinva f s
  | .ctxsave f => Sys2Proof.Machine.execCtxsave f s
  | .ctxrest f => Sys2Proof.Machine.execCtxrest f s
  | .park f => Sys2Proof.Machine.execPark f s
  | .resume f => Sys2Proof.Machine.execResume f s
  | .kill f => Sys2Proof.Machine.execKill f s
  | .split f => Sys2Proof.Machine.execSplit f s
  | .seedset f => Sys2Proof.Machine.execSeedset f s
  | .eret f => Sys2Proof.Machine.execEret f s
  | .gtwr f => Sys2Proof.Machine.execGtwr f s
  | .htwr f => Sys2Proof.Machine.execHtwr f s
  | .ldphys f => Sys2Proof.Machine.execLdphys f s
  | .stphys f => Sys2Proof.Machine.execStphys f s
  | .gtinv f => Sys2Proof.Machine.execGtinv f s
  | .htinv f => Sys2Proof.Machine.execHtinv f s
  | .regroupBoundary => Sys2Proof.Machine.execRegroupBoundary s
  | .holdLimitExpiry team crew m => Sys2Proof.Machine.execHoldLimitExpiry team crew m s
  | .convergeTimeout team crew => Sys2Proof.Machine.execConvergeTimeout team crew s
  | .waitMemRepoll team crew lane => Sys2Proof.Machine.execWaitMemRepoll team crew lane s
  | .waitTimeout team crew lane => Sys2Proof.Machine.execWaitTimeout team crew lane s
  | .teamAdmit core => Sys2Proof.Machine.execTeamAdmit core s
  | .cohortAdmit core => Sys2Proof.Machine.execCohortAdmit core s
  | .scratchRelease team => Sys2Proof.Machine.execScratchRelease team s
  | .percolatorSpill team crew => Sys2Proof.Machine.execPercolatorSpill team crew s
  | .spillWriteComplete team crew lane level reg => Sys2Proof.Machine.execSpillWriteComplete team crew lane level reg s
  | .registerRefillComplete team crew lane reg => Sys2Proof.Machine.execRegisterRefillComplete team crew lane reg s
  | .loadComplete id unit => Sys2Proof.Machine.execLoadComplete id unit s
  | .fetchComplete team crew pc => Sys2Proof.Machine.execFetchComplete team crew pc s
  | .wSectorRegistration id unit => Sys2Proof.Machine.execWSectorRegistration id unit s
  | .wSectorPush die sector => Sys2Proof.Machine.execWSectorPush die sector s
  | .cacheDieTempUpdate die temp => Sys2Proof.Machine.execCacheDieTempUpdate die temp s
  | .splitDieApply id => Sys2Proof.Machine.execSplitDieApply id s
  | .seedsetApply id => Sys2Proof.Machine.execSeedsetApply id s
  | .operandLatchFill team crew => Sys2Proof.Machine.execOperandLatchFill team crew s
  | .tensorReadComplete id => Sys2Proof.Machine.execTensorReadComplete id s
  | .accEntryStart core => Sys2Proof.Machine.execAccEntryStart core s
  | .accEntryComplete id => Sys2Proof.Machine.execAccEntryComplete id s
  | .copyElementRead id => Sys2Proof.Machine.execCopyElementRead id s
  | .copyDataWrite id unit => Sys2Proof.Machine.execCopyDataWrite id unit s
  | .copyArrival id receiver => Sys2Proof.Machine.execCopyArrival id receiver s
  | .copyComplete id => Sys2Proof.Machine.execCopyComplete id s
  | .copyFault id => Sys2Proof.Machine.execCopyFault id s
  | .batchFinish team crew lane => Sys2Proof.Machine.execBatchFinish team crew lane s
  | .dictldSlotRequest id stack => Sys2Proof.Machine.execDictldSlotRequest id stack s
  | .dictldSlotWrite id stack => Sys2Proof.Machine.execDictldSlotWrite id stack s
  | .stsigSignal id => Sys2Proof.Machine.execStsigSignal id s
  | .binvClear id => Sys2Proof.Machine.execBinvClear id s
  | .handleEntryWrite id => Sys2Proof.Machine.execHandleEntryWrite id s
  | .ctxHtabWrite id => Sys2Proof.Machine.execCtxHtabWrite id s
  | .trNext team crew => Sys2Proof.Machine.execTrNext team crew s
  | .tailWrite queue value => Sys2Proof.Machine.execTailWrite queue value s
  | .registerWrite off value => Sys2Proof.Machine.execRegisterWrite off value s
  | .commandAccept queue => Sys2Proof.Machine.execCommandAccept queue s
  | .nopCommand ctx node => Sys2Proof.Machine.execNopCommand ctx node s
  | .launch ctx node => Sys2Proof.Machine.execLaunch ctx node s
  | .copyCommand ctx node => Sys2Proof.Machine.execCopyCommand ctx node s
  | .signalCommand ctx node => Sys2Proof.Machine.execSignalCommand ctx node s
  | .nodeFinish ctx node => Sys2Proof.Machine.execNodeFinish ctx node s
  | .teamDeal ctx node => Sys2Proof.Machine.execTeamDeal ctx node s
  | .stealRequest core => Sys2Proof.Machine.execStealRequest core s
  | .stealAnswer victim thief => Sys2Proof.Machine.execStealAnswer victim thief s
  | .stealBackoffExpiry core => Sys2Proof.Machine.execStealBackoffExpiry core s
  | .preemptionStart core => Sys2Proof.Machine.execPreemptionStart core s
  | .teamSaveWriteOut team => Sys2Proof.Machine.execTeamSaveWriteOut team s
  | .teamRestore team core => Sys2Proof.Machine.execTeamRestore team core s
  | .tableWalkComplete core asid va => Sys2Proof.Machine.execTableWalkComplete core asid va s
  | .pageFaultReplay id => Sys2Proof.Machine.execPageFaultReplay id s
  | .faultRecordDelivery => Sys2Proof.Machine.execFaultRecordDelivery s
  | .cpHeartbeatTimeout => Sys2Proof.Machine.execCpHeartbeatTimeout s
  | .cpHeartbeat => Sys2Proof.Machine.execCpHeartbeat s
  | .scrubPass addr errors => Sys2Proof.Machine.execScrubPass addr errors s
  | .spareCoreMap core => Sys2Proof.Machine.execSpareCoreMap core s
  | .spareSliceMap die slice => Sys2Proof.Machine.execSpareSliceMap die slice s
  | .verticalLinkHeartbeat die answered => Sys2Proof.Machine.execVerticalLinkHeartbeat die answered s
  | .linkLost die => Sys2Proof.Machine.execLinkLost die s
  | .linkWakeExpired die => Sys2Proof.Machine.execLinkWakeExpired die s
  | .shardRebuild die => Sys2Proof.Machine.execShardRebuild die s
  | .routerTimeoutDetect router buffer => Sys2Proof.Machine.execRouterTimeoutDetect router buffer s
  | .squallTokenVisit domain => Sys2Proof.Machine.execSquallTokenVisit domain s
  | .flitReplay port ok => Sys2Proof.Machine.execFlitReplay port ok s
  | .stop core sched => Sys2Proof.Machine.execStop core sched s
  | .run core sched => Sys2Proof.Machine.execRun core sched s
  | .step core sched => Sys2Proof.Machine.execStep core sched s
  | .sofWrite core sched value => Sys2Proof.Machine.execSofWrite core sched value s
  | .cstop core => Sys2Proof.Machine.execCstop core s
  | .pcMatchStop core sched => Sys2Proof.Machine.execPcMatchStop core sched s
  | .go core => Sys2Proof.Machine.execGo core s
  | .dumpWrite core => Sys2Proof.Machine.execDumpWrite core s
  | .frz core value => Sys2Proof.Machine.execFrz core value s
  | .clr core => Sys2Proof.Machine.execClr core s
  | .replayAccessRelease id => Sys2Proof.Machine.execReplayAccessRelease id s
  | .errorCountClear stack => Sys2Proof.Machine.execErrorCountClear stack s
  | .functionLevelReset fn => Sys2Proof.Machine.execFunctionLevelReset fn s
  | .idleTimerExpiry => Sys2Proof.Machine.execIdleTimerExpiry s
  | .powerEntryComplete => Sys2Proof.Machine.execPowerEntryComplete s
  | .wake => Sys2Proof.Machine.execWake s
  | .packageWakeEvent => Sys2Proof.Machine.execPackageWakeEvent s
  | .powerExitComplete => Sys2Proof.Machine.execPowerExitComplete s
  | .incomingLaunoRequest addr write data => Sys2Proof.Machine.execIncomingLaunoRequest addr write data s
  | .hostDeviceMemoryAccess addr write data => Sys2Proof.Machine.execHostDeviceMemoryAccess addr write data s
  | .queueRegisterWrite queue off value => Sys2Proof.Machine.execQueueRegisterWrite queue off value s
  | .consWrite value => Sys2Proof.Machine.execConsWrite value s
  | .lcpWrite value => Sys2Proof.Machine.execLcpWrite value s
  | .homeAcknowledgement id unit => Sys2Proof.Machine.execHomeAcknowledgement id unit s
  | .tlbAcknowledgement id => Sys2Proof.Machine.execTlbAcknowledgement id s
  | .lastLevelTlbLookup core asid va => Sys2Proof.Machine.execLastLevelTlbLookup core asid va s
  | .destinationLinesHeldInG team crew lane => Sys2Proof.Machine.execDestinationLinesHeldInG team crew lane s
  | .getVersion fn => Sys2Proof.Machine.execGetVersion fn s
  | .getCapabilities fn => Sys2Proof.Machine.execGetCapabilities fn s
  | .negotiateAlgorithms fn => Sys2Proof.Machine.execNegotiateAlgorithms fn s
  | .getDigests fn => Sys2Proof.Machine.execGetDigests fn s
  | .getCertificate fn => Sys2Proof.Machine.execGetCertificate fn s
  | .challenge fn nonce => Sys2Proof.Machine.execChallenge fn nonce s
  | .getMeasurements fn index => Sys2Proof.Machine.execGetMeasurements fn index s
  | .keyExchange fn nonce => Sys2Proof.Machine.execKeyExchange fn nonce s
  | .finish fn => Sys2Proof.Machine.execFinish fn s
  | .heartbeat fn => Sys2Proof.Machine.execHeartbeat fn s
  | .keyUpdate fn => Sys2Proof.Machine.execKeyUpdate fn s
  | .endSession fn => Sys2Proof.Machine.execEndSession fn s
  | .query fn => Sys2Proof.Machine.execQuery fn s
  | .keyProg fn stream key => Sys2Proof.Machine.execKeyProg fn stream key s
  | .kSetGo fn stream => Sys2Proof.Machine.execKSetGo fn stream s
  | .kSetStop fn stream => Sys2Proof.Machine.execKSetStop fn stream s
  | .getTdispVersion fn => Sys2Proof.Machine.execGetTdispVersion fn s
  | .getTdispCapabilities fn => Sys2Proof.Machine.execGetTdispCapabilities fn s
  | .lockInterfaceRequest fn => Sys2Proof.Machine.execLockInterfaceRequest fn s
  | .getDeviceInterfaceReport fn => Sys2Proof.Machine.execGetDeviceInterfaceReport fn s
  | .getDeviceInterfaceState fn => Sys2Proof.Machine.execGetDeviceInterfaceState fn s
  | .startInterfaceRequest fn => Sys2Proof.Machine.execStartInterfaceRequest fn s
  | .stopInterfaceRequest fn => Sys2Proof.Machine.execStopInterfaceRequest fn s
  | .unsupportedRequest fn => Sys2Proof.Machine.execUnsupportedRequest fn s
  | .bringupGo untrained => Sys2Proof.Machine.execBringupGo untrained s
  | .towerTempPoll tower temps => Sys2Proof.Machine.execTowerTempPoll tower temps s
  | .limitWrite die value => Sys2Proof.Machine.execLimitWrite die value s
  | .hltWrite value => Sys2Proof.Machine.execHltWrite value s
  | .coreFailure core => Sys2Proof.Machine.execCoreFailure core s

end Sys2Proof.Machine
end

