-- ==== Sys2Proof/Machine/Issue.lean ====
section
/-! DEFINITION. What happens next (01 R12 to R20; 14 R286, R287; 18 R348, R349, R355): the issue of bundles, the events whose time has
come, the events that may come, the passage of a cycle. -/
namespace Sys2Proof.Machine

/-! ### One attempt to issue -/

/-- Whether a cause of a fetch names an address of a page or a space, which ADDR then gives (R314). -/
def Cause.ofFetch (c : Cause) : Bool :=
  match c with
  | .illegal => false
  | .ifetchSplit => false
  | _ => true

/-- A fetch of a bundle meets an absent page: its lanes wait, with a record (R304). -/
def State.fetchPage (s : State) (k : Nat) (c : Crew) (b : Mask) (pc : DWord) (va : Nat) : State :=
  ((s.dropFailed c).modCrew k (fun c => c.modLanes b (fun _ t =>
    { t with st := .stalled, why := .page, page := va }))).pageRecords c pc ((lanesOf b).map (fun l => (l, va, pc.toNat)))

/-- The issue of a decoded instruction for a bundle: `cur` names the bundle while its meaning acts. -/
def State.issueInstr (s : State) (k : Nat) (b : Mask) (pc : DWord) (i : Instr) : Out :=
  match exec i { s with cur := some { crew := k, mask := b, pc := pc } } with
  | .next t => .next { t with cur := none }
  | o => o

/-- The sub-cause that an ILLEGAL instruction records for a bundle: that of its encoding, or a lower one that the state gives: 6 for an
odd pair in a lane that executes, 7 for a tile above the team's (R135). -/
def State.lowestSub (s : State) (c : Crew) (b : Mask) (i : Instr) (sub : Nat) : Nat :=
  match opcodeOf i, shape i with
  | some (_, f), some p =>
    if 6 < sub && oddAt c (guardMask c b f.hdr) p.srcs f.hdr.dst.toNat p.dst.regs p.dst.pair then 6
    else if 7 < sub && (namedTiles i).any (fun n => decide ((s.teamOf c).tiles ≤ n)) then 7
    else sub
  | _, _ => sub

/-- A bundle tries to issue: its instruction is fetched and decoded, and acts, or the bundle stalls or faults at the fetch. -/
def State.attempt (s : State) (k : Nat) (b : Mask) : Out :=
  match s.crew? k, lanesOf b with
  | some c, l :: _ =>
    let pc := (c.thread l).pc
    match s.fetch c pc with
    | .ok i => (s.tlbHits c [pc.toNat]).issueInstr k b pc i
    | .wait _ => .next (s.modCrew k (fun c => c.stall b .fetch))
    | .miss v => .next ((s.lookup c v).modCrew k (fun c => c.stall b .fetch))
    | .page va => .next (s.fetchPage k c b pc va)
    | .bad i sub => .next ((s.dropFailed c).takeFault k
        { cause := .illegal, sub := s.lowestSub c b i sub, lmask := b, pc := pc })
    | .trap e sub => .next ((s.dropFailed c).takeFault k
        { cause := e, sub := sub, lmask := b, pc := pc, addr := if e.ofFetch then pc.toNat else 0 })
  | _, _ => .next s

/-- Whether every lane of a bundle is STALLED for a reason that is tried again. -/
def State.stalledAt (s : State) (k : Nat) (b : Mask) : Bool :=
  match s.crew? k with
  | none => false
  | some c => (lanesOf b).all (fun l => (c.thread l).st == .stalled && !(c.thread l).why.event)

/-- A STALLED bundle tries again: what an attempt that leaves it STALLED has begun (a lookup) stands, and one that would not adds the
bundle to those that go on. -/
def State.retry (k : Nat) (acc : State × Mask) (b : Mask) : State × Mask :=
  match acc.1.attempt k b with
  | .next t => if t.stalledAt k b then (t, acc.2) else (acc.1, acc.2 ||| b)
  | _ => (acc.1, acc.2 ||| b)

/-- Whether a bundle at an address is before a pad word. -/
def State.atPad (s : State) (k : Nat) (b : Mask) : Bool :=
  match s.crew? k, lanesOf b with
  | some c, l :: _ => (match s.fetch c (c.thread l).pc with | .ok .padWord => true | _ => false)
  | _, _ => false

/-- Whether a bundle that has tried has issued: some lane of it neither stands STALLED at its instruction, its CALL or RET apart, nor
entered CHELD. -/
def State.hasIssued (s : State) (k : Nat) (b : Mask) : Bool :=
  match s.crew? k with
  | none => true
  | some c => (lanesOf b).any (fun l =>
      let t := c.thread l
      !(t.st == .cheld || t.st == .stalled && t.why != .call))

/-! ### The choice of a bundle (R287) -/

/-- Whether a crew's bundles may issue: no serialising operation or drain holds it, its team is not being saved, its reservation is
there (R256, R92, R103, R289, R50). -/
def State.issuable (s : State) (c : Crew) : Bool :=
  c.busy.isEmpty && !s.issueStopped (s.teamOf c).ctx c.core && !s.saving c.team && s.unbacked c == 0

/-- Whether a scheduler can take a bundle in this cycle. -/
def State.slotFree (s : State) (core sched : Nat) : Bool :=
  !((s.debugOf core).sched sched).stopped && !s.slotsUsed.any (fun x => x.core == core && x.sched == sched)

/-- Whether a bundle may issue by an event: its crew may issue, and its scheduler has its slot of the cycle. -/
def State.eventIssuable (s : State) (w : Crew) : Bool := s.issuable w && s.slotFree w.core w.sched

/-- A bundle that may issue. -/
structure Cand where
  crew : Nat
  mask : Mask
  core : Nat
  sched : Nat
  slot : Nat
  prio : Nat
  last : Nat
  low : Nat
deriving DecidableEq, Repr

/-- The READY bundles of a crew as candidates. -/
def State.crewCands (s : State) (k : Nat) (c : Crew) : List Cand :=
  if s.issuable c && s.slotFree c.core c.sched then
    (c.bundles.filter (fun b => (lanesOf b).all (fun l => (c.thread l).st == .ready) && b != 0)).map (fun (b : Mask) =>
      let ls := lanesOf b
      { crew := k, mask := b, core := c.core, sched := c.sched, slot := c.slot, prio := (s.teamOf c).prio
        last := (ls.map (fun l => (c.thread l).lastIssue)).foldl Nat.min s.cycle, low := ls.head?.getD 0 })
  else []

/-- Every candidate. -/
def State.cands (s : State) : List Cand := (s.crews.zipIdx.map (fun p => s.crewCands p.2 p.1)).flatten

/-- Whether a bundle goes before another of the same scheduler (R287). -/
def Cand.before (cycle : Nat) (a b : Cand) : Bool :=
  let old := fun (x : Cand) => decide (x.last + 65536 ≤ cycle)
  let tie := if a.crew == b.crew then decide (a.low < b.low) else decide (a.slot < b.slot)
  let recent := decide (a.last < b.last) || a.last == b.last && tie
  if old a != old b then old a
  else if old a then recent
  else decide (a.prio > b.prio) || a.prio == b.prio && recent

/-- The bundle that issues next: the first scheduler that has one chooses it. -/
def State.choice (s : State) : Option Cand :=
  s.cands.foldl (fun best x => match best with
    | none => some x
    | some y =>
      if x.core == y.core && x.sched == y.sched then (if x.before s.cycle y then some x else some y)
      else if x.core < y.core || x.core == y.core && x.sched < y.sched then some x else some y) none

/-- The comparator of a chosen bundle's scheduler meets its PC (R348). -/
def State.pcMatched (s : State) (x : Cand) : Bool := match s.crew? x.crew with | some c => s.meetsPc c x.mask | none => false

/-! ### What follows from a change of state -/

/-- Change every crew by its position. -/
def State.eachCrew (s : State) (f : State → Nat → Crew → State) : State :=
  (List.range s.crews.length).foldl (fun s k => match s.crew? k with | some c => f s k c | none => s) s

/-- Bundles whose stall has ended are READY; those of one crew at one PC form one bundle (R13, R15). -/
def State.wakeStalled (s : State) : State :=
  s.eachCrew (fun s k c =>
    let stalled := c.bundles.filter (fun b => (lanesOf b).all (fun l => (c.thread l).st == .stalled && !(c.thread l).why.event))
    if stalled.isEmpty || !s.issuable c then s
    else
      let r := stalled.foldl (State.retry k) (s, 0)
      if r.2 == 0 then r.1 else r.1.modCrew k (fun c => c.wake r.2))

/-- Bundles that cannot issue in this cycle are STALLED (R13). The threads of a team that is being saved keep their states (R289). -/
def State.assess (s : State) : State :=
  s.eachCrew (fun s k c =>
    let ready := c.bundles.filter (fun b => (lanesOf b).all (fun l => (c.thread l).st == .ready))
    if s.saving c.team || ((s.debugOf c.core).sched c.sched).stopped then s
    else if !s.issuable c then
      s.modCrew k (fun c => c.stall (ready.foldl (· ||| ·) 0) (if s.unbacked c != 0 then .regs else .serial))
    else
      ready.foldl (fun s b =>
        match s.attempt k b with
        | .next t => if t.stalledAt k b then t else s
        | _ => s) s)

/-- V and M of a thread as they count toward meetings in this cycle (R16, R158). -/
def Thread.meet (t : Thread) : Bool × DWord := t.mrOld.getD (t.mrv, t.mrm)

/-- Whether a thread has V = 1 with M = m. -/
def Thread.meetsAt (t : Thread) (m : DWord) : Bool := t.meet.1 && t.meet.2 == m

/-- Threads whose PC is their meeting address are HELD (R16), and meetings that are complete release theirs. A thread that has executed MEET
in this cycle is not held in it: what it wrote counts from the next (R158). -/
def Crew.meetings (c : Crew) : Crew :=
  let here := c.lanesWhere (fun t => (t.st == .ready || t.st == .stalled && !t.why.event) && t.mrOld.isNone && t.meetsAt t.pc)
  let c1 := c.enter here .held .none
  let ms := ((lanesOf here).map (fun l => (c.thread l).pc)).eraseDups
  let c2 := { c1 with holds := c1.holds ++ ((ms.filter (fun m => !c1.holds.any (fun h => h.1 == m))).map (fun m => (m, 0))) }
  (c2.holds.map (·.1)).foldl (fun c m =>
    if c.threads.all (fun t => t.st == .exited || t.st == .held && t.pc == m || !t.meetsAt m) then c.releaseHeld m 0 else c) c2

/-- CHELD threads: the whole crew at one PC forms a bundle (R19); a crew that has lost a thread takes ILL_CONVERGE (R20), at the collective
whose count began first where its lanes stand at several (DESIGN CHOICE, log 111). -/
def State.converge (s : State) (k : Nat) (c : Crew) : State :=
  let held := c.lanesWhere (fun t => t.st == .cheld)
  match lanesOf held with
  | [] => s
  | l :: _ =>
    let pc := match c.coll with | (p, _) :: _ => p | [] => (c.thread l).pc
    if c.threads.any (fun t => t.st == .exited) then
      s.takeFault k { cause := .illConverge, sub := 1, lmask := c.lanesWhere (fun t => t.st == .cheld && t.pc == pc), pc := pc }
    else if held == allLanes && c.threads.all (fun t => t.pc == (c.thread l).pc) then
      s.modCrew k (fun c => { (c.rebundle allLanes) with coll := [] })
    else s

/-- What follows at once from a step: parks and teams that end, waits, stalls, meetings and collectives, rings, queues, accesses that
waited for the package. -/
def State.settle (s : State) : State :=
  let s := s.flush.settleParks.endTeams.settleOwed
  let s := (List.range s.crews.length).foldl State.gateEnd s
  let s := s.eachCrew (fun s k c => if c.threads.any (fun t => t.st == .waiting) then s.wakeWaits k (fun _ => false) else s)
  let s := s.wakeStalled
  let s := { s with crews := s.crews.map Crew.meetings }
  let s := s.eachCrew (fun s k c => s.converge k c)
  ((s.raiseHeads.setJstall).releaseHeld).noteBars

/-! ### The passage of a cycle -/

/-- Destination registers of an instruction in a lane. -/
def State.dstCount (s : State) (c : Crew) (b : Mask) (i : Instr) (l : Nat) : Nat :=
  match memDesc i, shape i with
  | some d, _ => d.dk (fmtOfLane s c b d l)
  | none, some p => p.dst.regs
  | none, none => 1

/-- Whether a thread is held back by a page fault (R20): its own page or its fetch's, or a register that the replay of an access which has
waited for a page has still to write, until it is written. -/
def State.pageHeld (s : State) (c : Crew) (l : Nat) : Bool :=
  let t := c.thread l
  let mine := s.accs.filter (fun a => a.serial == c.team && a.crew == c.id)
  let late := mine.filter (·.paged)
  late.any (fun a => a.lane == l && match a.hold with | .page _ => true | .replay => true | _ => false) || t.st == .stalled && (t.why == .page || t.why == .dep &&
    /- the registers of an instruction are written when every lane of it has performed (R173) -/
    let waits := fun (p : Nat × Nat) => mine.any (fun a => a.lane == p.1 && late.any (fun b => b.group == a.group) && match a.dst with
      | some d => d ≤ p.2 && p.2 < d + a.nreg
      | none => false)
    match c.bundles.find? (fun b => b.getLsbD l) with
    | none => false
    | some b => match s.stalledInstr c b with
      | none => false
      | some i => (s.readRegs c b i).any waits || (lanesOf b).any (fun j => (dstRegs (c.thread j) (dstCode i) (s.dstCount c b i j)).any (fun n => waits (j, n))))

/-- A cycle passes for a crew (R18, R20, R23, R26): the counts of WAITs, meetings and collectives. -/
def State.tickCrew (s : State) (c : Crew) : Crew :=
  if s.saving c.team then c
  else
    let stands := fun (p : DWord) => (List.range 32).filter (fun l => (c.thread l).st == .cheld && (c.thread l).pc == p)
    let free := fun (p : DWord) => !(stands p).isEmpty
      && (List.range 32).all (fun l => (stands p).contains l || (c.thread l).st != .parked && !s.pageHeld c l)
    { c with
      ended := []
      threads := c.threads.map (fun (t : Thread) =>
        let t := { t with woke := false, mrOld := none }
        if t.st == .waiting || (t.st == .stalled || t.st == .ready) && t.wait.isSome then
          { t with wait := t.wait.map (fun (p : Pending) => { p with elapsed := p.elapsed + 1, polled := p.polled + 1 }) } else t)
      holds := c.holds.map (fun h => if c.threads.any (fun t => t.st == .held && t.pc == h.1) then (h.1, h.2 + 1) else h)
      coll := c.coll.map (fun x => if free x.1 then (x.1, x.2 + 1) else x) }

/-- Whether a crew is held by a full accumulator queue (R212, R355): what it waits for is a latch to enter it, or grants for an entry. -/
def State.queueFull (s : State) (c : Crew) : Bool :=
  decide (s.queued c.core ≥ Config.accQueue) && c.threads.any (fun t => t.st == .stalled && (t.why == .latch || t.why == .grant))
    && (c.latch.isSome || s.accq.any (fun e => e.serial == c.team && e.crew == c.id && !e.granted))

/-- Whether a stalled bundle of a crew awaits register entries, for what it writes or to refill what it reads (R46, R52, R53). -/
def State.entriesAwaited (s : State) (c : Crew) : Bool :=
  c.bundles.any (fun b => match s.stalledInstr c b with | some i => s.blockedBanks c b i != 0 | none => false)

/-- The leaf that a scheduler's slot of this cycle is charged to (R355). -/
def State.leafNo (s : State) (core sched : Nat) : Nat :=
  let mine := s.crews.filter (fun c => c.core == core && c.sched == sched)
  let ts := (mine.flatMap (·.threads)).filter (fun t => t.st != .exited)
  let why := fun (p : Why → Bool) => ts.any (fun t => t.st == .stalled && p t.why)
  match s.slotsUsed.find? (fun x => x.core == core && x.sched == sched) with
  | some x => if x.full then 0 else 1
  | none =>
    if ((s.debugOf core).sched sched).stopped then 9
    else if ts.isEmpty then 10
    else if why (· == .struct) || mine.any s.queueFull then 2
    else if why (· == .regs) || mine.any s.entriesAwaited || mine.any (fun c => s.unbacked c != 0 && c.threads.any (fun t => t.st == .ready)) then 3
    else if why (· != .fetch) || ts.any (fun t => t.st == .ready) then 4
    else if why (· == .fetch) then 5
    else if ts.any (fun t => t.st == .waiting) then 6
    else if ts.any (fun t => t.st == .held || t.st == .cheld) then 7
    else 8

/-- Cores whose counters are kept one by one. -/
def State.countedCores (s : State) : List Nat := (s.crews.map (·.core) ++ s.dbg.map (·.core)).eraseDups

/-- Charge the four slots of a core (R355, R356). -/
def State.charge (s : State) (core : Nat) : State :=
  let d := s.debugOf core
  if d.frz then s.setDebug d
  else
    let leaves := (List.range 4).foldl (fun (l : List Nat) k => l.modify (s.leafNo core k) (fun n => (n + 1) % 2 ^ 64)) d.leaves
    s.setDebug { d with leaves := leaves, total := (d.total + 4) % 2 ^ 64 }

/-- Raise BUSY or IDLE of a tag on a core; the counters saturate at 48 bits (R286). -/
def bumpProf (l : List Prof) (core tag : Nat) (busy : Bool) : List Prof :=
  let hit := fun (p : Prof) => p.core == core && p.tag == tag
  let p := (l.find? hit).getD { core := core, tag := tag, busy := 0, idle := 0 }
  let up := fun (n : Nat) => Nat.min (2 ^ 48 - 1) (n + 1)
  (if busy then { p with busy := up p.busy } else { p with idle := up p.idle }) :: l.filter (fun p => !hit p)

/-- BUSY and IDLE of this cycle (R286). -/
def State.profile (s : State) : List Prof :=
  let busy := (s.slotsUsed.map (fun x => (x.core, x.tag))).eraseDups
  let idle := (((s.teams.filter (fun t => !t.ended)).map (fun t => (t.core, t.ptag))).eraseDups).filter (fun p =>
    !s.slotsUsed.any (fun x => x.core == p.1))
  idle.foldl (fun l p => bumpProf l p.1 p.2 false) (busy.foldl (fun l p => bumpProf l p.1 p.2 true) s.cp.prof)

/-- A cycle passes for a queue engine (R284, R288). -/
def QEngine.tick (e : QEngine) : QEngine :=
  { e with headWait := if e.entries.isEmpty then 0 else e.headWait + 1, backoff := if e.backoff > 1 then e.backoff - 1 else e.backoff }

/-- A cycle passes for a die (R342). -/
def Die.tick (d : Die) : Die :=
  { d with hbMiss := d.hbMiss.map (· + 1), wakeAge := d.wakeAge.map (· + 1), rebuildAge := if d.rebuilding then d.rebuildAge + 1 else 0 }

/-- A cycle passes for the power states (R377) and for the standby's watch (R329). -/
def State.tickHost (s : State) : HostLink :=
  let h := s.host
  { h with
    timer := h.timer - 1
    idle := if s.pkgIdle && h.entering.isNone && h.exiting.isNone then h.idle + 1 else 0 }

/-- The cycle ends: slots are charged, time passes, stops that are due and schedulers that have done a STEP stop. -/
def State.tickCycle (s : State) : State :=
  let prof := s.profile
  let s1 := (s.countedCores.foldl State.charge s).strikeDue
  let crews := s1.crews.map s1.tickCrew
  let s2 : State := { s1 with
    cycle := s1.cycle + 1
    regrouped := (s1.cycle + 1) % 8 != 0
    slotsUsed := []
    crews := crews
    cp := { s1.cp with
      prof := prof
      engines := s1.cp.engines.map QEngine.tick
      hbAge := if s1.host.ready && s1.host.cur != .calm then s1.cp.hbAge + 1 else s1.cp.hbAge }
    pkg := { s1.pkg with dies := s1.pkg.dies.map Die.tick, tokenAge := s1.pkg.tokenAge + 1 }
    host := s1.tickHost }
  let s3 := s.slotsUsed.foldl (fun s x => s.endStep x.core x.sched) s2.stopDue
  { s3.settle.assess with cur := none, cycle := s.cycle + 1, slotsUsed := [], closing := false }

/-! ### Events whose time has come -/

/-- The first element that gives an answer. -/
def firstOf {α β : Type} (l : List α) (f : α → Option β) : Option β := l.findSome? f

def orThen {α : Type} (a : Option α) (b : Unit → Option α) : Option α := match a with | some x => some x | none => b ()

/-- A count of a crew that has run out (R18, R20, R23). -/
def State.crewTimer (s : State) (c : Crew) : Option Instr :=
  let limit := holdLimit (s.teamOf c).holdcfg
  orThen ((c.holds.find? (fun h => h.2 ≥ limit && c.threads.any (fun t => t.st == .held && t.pc == h.1))).map (fun h =>
    Instr.holdLimitExpiry c.team c.id h.1)) fun _ =>
  orThen (if c.coll.any (fun x => x.2 ≥ limit && c.threads.any (fun t => t.st == .cheld && t.pc == x.1)) then
      some (.convergeTimeout c.team c.id) else none) fun _ =>
  (List.range 32).findSome? (fun l =>
    let t := c.thread l
    match t.st, t.wait with
    | .waiting, some p => if p.polled ≥ 256 then some (.waitMemRepoll c.team c.id l) else none
    | _, _ => none)

/-- A time-out of a WAIT of a crew that has expired: it ends the wait when no event of the cycle is left, so that a completion of that cycle
comes before it (R23). -/
def State.waitTimer (s : State) (c : Crew) : Option Instr :=
  (List.range 32).findSome? (fun l =>
    let t := c.thread l
    match t.st, t.wait with
    | .waiting, some p => if s.waitExpired p then some (.waitTimeout c.team c.id l) else none
    | _, _ => none)

/-- A link's timer that has run out, its next heartbeat (R342), or the rebuilding of a lost die's shards, 10 µs after its declaration (R343). -/
def State.dieTimer (s : State) (d : Die) : Option Instr :=
  if d.rebuilding && d.log.isSome && decide (d.rebuildAge ≥ 10 * Config.microsecond) then some (.shardRebuild d.phys)
  else if d.log.isNone || d.failed then none
  else if (match d.hbMiss with | some n => decide (n ≥ 5 * Config.microsecond) | none => false) then some (.linkLost d.phys)
  else if (match d.wakeAge with | some n => decide (n ≥ Config.microsecond * s.pkg.wakeLimit) | none => false) then some (.linkWakeExpired d.phys)
  else if s.cycle ≥ d.hbAt + Config.microsecond && !(d.asleep && d.wakeAge.isNone) then some (.verticalLinkHeartbeat d.phys d.answer)
  else none

/-- A timer of a queue engine that has run out (R284, R288). -/
def State.engineTimer (s : State) (e : QEngine) : Option Instr :=
  if e.backoff == 1 then some (.stealBackoffExpiry e.core)
  else if e.headWait ≥ 4096 && !s.cp.failed && (match e.entries.head? with | some q => (s.entryTeam q).isSome | none => false)
      && (s.tryAdmit e.core).isNone then some (.preemptionStart e.core)
  else none

/-- A timer of the command processors (R329). -/
def State.cpTimer (s : State) : Option Instr :=
  if s.cp.hbAge ≥ 5 * Config.microsecond && (s.cp.standby || s.cp.failed && s.ctxs.any (fun x => !x.lost)) then some .cpHeartbeatTimeout
  else if s.host.ready && s.host.cur != .calm && !s.cp.failed && s.cp.hbAge ≥ Config.microsecond then some .cpHeartbeat
  else none

/-- A timer of the power states (R377). -/
def State.powerTimer (s : State) : Option Instr :=
  let h := s.host
  if h.entering.isSome then some .powerEntryComplete
  else if h.exiting.isSome then (if h.timer == 0 then some .powerExitComplete else none)
  else if h.idle ≥ Config.microsecond * h.idlet && (deepest h.hlt).depth > h.cur.depth && s.pkgIdle then some .idleTimerExpiry
  else none

/-- The squall token of the package network moves on within 20 cycles (R339). -/
def State.tokenTimer (s : State) : Option Instr :=
  if s.host.ready && s.host.cur != .calm && s.pkg.tokenAge ≥ 20 then some (.squallTokenVisit 0) else none

/-- The event whose time has come, if any: it happens before anything else. -/
def State.forced (s : State) : Option Instr :=
  orThen (if s.cycle % 8 == 0 && !s.regrouped then some .regroupBoundary else none) fun _ =>
  orThen (firstOf s.crews s.crewTimer) fun _ =>
  orThen (firstOf s.pkg.dies s.dieTimer) fun _ =>
  orThen s.cpTimer fun _ =>
  orThen (firstOf s.cp.engines s.engineTimer) fun _ =>
  orThen s.tokenTimer fun _ => s.powerTimer

/-! ### Events that may happen -/

/-- The replay of an access that waits for it, when no lookup that its crew has asked for is in progress (R303, R306). -/
def State.replayEvent (s : State) (a : Acc) : List Instr :=
  match (s.crewAt a.serial a.crew).bind s.crew? with
  | some c => if !s.store.lookups.any (fun q => q.failed.isNone && q.core == c.core && q.waiters.contains (c.team, c.id)) && s.replayReady c a
      then [.pageFaultReplay a.id] else []
  | none => []

/-- Events that perform the units of an access, or let it go on. -/
def State.accEvents (s : State) (a : Acc) : List Instr :=
  match a.hold with
  | .replay => if s.saving a.serial then [] else s.replayEvent a
  | .predict => s.replayEvent a
  | .clock =>
    (match s.findTeam a.serial with
    | some t => if s.replayOk t a.crew a.lane then [.replayAccessRelease a.id] else []
    | none => [.replayAccessRelease a.id])
  | .none =>
    (List.range a.units.length).flatMap (fun k =>
      if !s.mayPerform a k then []
      else
        match a.units[k]? with
        | none => []
        | some u =>
          let home : Instr := if s.createsW a u then .wSectorRegistration a.id k else .homeAcknowledgement a.id k
          match a.kind with
          | .load => [.loadComplete a.id k]
          | .atomic => [.loadComplete a.id k]
          | .pop => [.loadComplete a.id k]
          | .bar => [.loadComplete a.id k]
          | .store => [home]
          | .push _ _ => [home]
          | .stsig => if k + 1 == a.units.length then [.stsigSignal a.id] else [home]
          | .fence => [.homeAcknowledgement a.id k]
          | .clwb => [.homeAcknowledgement a.id k]
          | .clevict => [.homeAcknowledgement a.id k]
          | .binv => if s.namedByCopy u.loc then [] else [.binvClear a.id]
          | .tile => [.homeAcknowledgement a.id k]
          | .epi => []
          | .copy => [])
  | _ => []

/-- Events of a lookup (R300). -/
def State.lookupEvents (s : State) (q : Lookup) : List Instr :=
  if q.failed.isSome then []
  else if !q.walking then [.lastLevelTlbLookup q.core q.asid q.va]
  else if s.walkWaits q then [] else [.tableWalkComplete q.core q.asid q.va]

/-- Events of a crew: its fetches, its latch, its batches, its registers (R136, R219, R237, R49 to R53). -/
def State.crewEvents (s : State) (c : Crew) : List Instr :=
  let fetches := (List.range 32).filterMap (fun l =>
    let t := c.thread l
    if t.st == .stalled && t.why == .fetch then
      (match s.fetch c t.pc with | .wait pa => if s.fetchReady c pa then some (Instr.fetchComplete c.team c.id t.pc) else none | _ => none)
    else none)
  let latch := if s.latchReady c && s.eventIssuable c then [Instr.operandLatchFill c.team c.id] else []
  let batches := (List.range 32).filterMap (fun l => match (c.thread l).batches with
    | [] :: _ => some (Instr.batchFinish c.team c.id l)
    | _ => none)
  let spills := c.savedRegs.filterMap (fun x => if x.2.2.st.leaving && !s.spillHeld c x.2.2.lvl x.2.2.n x.2.1 .write
    then some (Instr.spillWriteComplete c.team c.id x.2.1 x.1 x.2.2.n) else none)
  let waits := c.bundles.filter (fun b => (lanesOf b).all (fun l => (c.thread l).st == .stalled && !(c.thread l).why.event))
  let refills := waits.flatMap (fun b => match s.stalledInstr c b with
    | some i => ((s.refills c b i).filter (fun p => s.canTake c p.1 1 && !s.refillHeld c p.1 p.2)).map (fun p => Instr.registerRefillComplete c.team c.id p.1 p.2)
    | none => [])
  let ends := if s.saving c.team || (s.dumpCore c.team).isSome then [] else
    ((s.endRefills c).filter (fun p => s.canTake c p.1 1 && !s.refillHeld c p.1 p.2)).map (fun p => Instr.registerRefillComplete c.team c.id p.1 p.2)
  let refills := refills ++ ends
  let blocked := !s.saving c.team && (!waits.isEmpty || s.unbacked c != 0 || !(s.endRefills c).isEmpty) && s.crewBlocked c != 0
  let perc := match (if blocked then (s.crewAt c.team c.id).bind (fun k => s.victim k (s.crewBlocked c)) else none) with
    | some _ => [Instr.percolatorSpill c.team c.id]
    | none => []
  fetches.eraseDups ++ latch ++ batches ++ spills ++ refills ++ perc

/-- The lane or bundle that waits for grants of an operation, when they can all be made (R117, R224, R232). -/
def State.grantEvent (s : State) (id serial crew lane : Nat) (lines : List Nat) : List Instr :=
  match (s.crewAt serial crew).bind s.crew? with
  | some w => if (w.thread lane).st == .stalled && (w.thread lane).why == .grant && s.linesFree id serial crew lane lines && s.eventIssuable w
      then [.destinationLinesHeldInG serial crew lane] else []
  | none => []

/-- Events of a copy (R232 to R234). -/
def State.copyEvents (s : State) (c : Copy) : List Instr :=
  if !c.granted then s.grantEvent c.id c.serial c.crew c.lane c.lines
  else if c.failed.isSome && c.moves.all (·.done) then [.copyFault c.id]
  else
    let live := s.copyLive c
    let elem := if live && c.elem.isSome && !s.elemWaits c then [Instr.copyElementRead c.id] else []
    let data := if live && s.dictReady c.ctx c.dict c.gen then
        (c.moves.zipIdx.filter (fun p => !p.1.done && !s.moveWaits c p.1)).map (fun p => Instr.copyDataWrite c.id p.2) else []
    let all := fun (j : Nat) => c.moves.all (fun m => m.done || !(c.targets.length ≤ 1 || m.recv == j))
    let arr := (List.range c.recvs.length).filterMap (fun j => match c.recvs[j]? with
      | some r => if !r.arrived && c.elem.isNone && c.failed.isNone && !s.frozen c.ctx && all j then some (Instr.copyArrival c.id j) else none
      | none => none)
    elem ++ data ++ arr ++ (if c.finished then [.copyComplete c.id] else [])

/-- Events of a dictionary load (R239). -/
def State.loadEvents (s : State) (d : DictLoad) : List Instr :=
  if d.failed.isSome then [.copyFault d.id]
  else
    (if !s.frozen d.ctx && s.engineReady d.serial d.crew d.lane d.id then d.todo.map (fun k => Instr.dictldSlotRequest d.id k) else [])
      ++ d.reached.filterMap (fun r => if s.slotReady d r.1 r.2 then some (Instr.dictldSlotWrite d.id r.1) else none)

/-- Events of the accumulator queues (R212, R218, R224). -/
def State.accqEvents (s : State) : List Instr :=
  let reads := s.accq.filterMap (fun e =>
    if !e.bsrc.isEmpty && s.dictReady e.ctx e.dict e.gen && !s.frozen e.ctx then some (Instr.tensorReadComplete e.id) else none)
  let starts := ((s.accq.map (·.core)).eraseDups).filterMap (fun k =>
    if s.accq.any (fun e => e.core == k && s.mayStart e) then some (Instr.accEntryStart k) else none)
  let ends := s.accq.filterMap (fun e => if e.started && s.entryWritten e.id then some (Instr.accEntryComplete e.id) else none)
  let grants := s.accq.flatMap (fun e =>
    if e.granted || s.queued e.core ≥ Config.accQueue then [] else s.grantEvent e.id e.serial e.crew e.lane e.lines)
  reads ++ starts ++ ends ++ grants

/-- Events of the privileged operations in progress (R92, R103, R253, R258, R265, R266). -/
def State.drainEvents (s : State) (d : Drain) : List Instr :=
  match d.kind with
  | .handle h _ => if s.handleBusy d (some h) then [] else [.handleEntryWrite d.id]
  | .handleAll => if s.handleBusy d none then [] else [.handleEntryWrite d.id]
  | .htab _ => if s.handleBusy d none then [] else [.ctxHtabWrite d.id]
  | .split w dies =>
    if s.firstSplit d && (match dies with | k :: _ => s.splitReady d.ctx k w | [] => true)
    then [.splitDieApply d.id] else []
  | .seed _ => if s.seedReady d then [.seedsetApply d.id] else []
  | .tlb _ _ _ _ _ ids =>
    if s.tlbSettled ids then [.tlbAcknowledgement d.id] else []
  | .park _ _ => []

/-- Events of the nodes: acceptance, starts, dealing, finishes (R271, R278, R283). -/
def State.nodeEvents (s : State) : List Instr :=
  let accept := if s.awake && !s.cp.failed && s.accepting then
      (match s.nextQueue with | some q => [Instr.commandAccept q] | none => []) else []
  let starts := s.cp.nodes.filterMap (fun n =>
    match s.startable n.ctx n.id n.kind with
    | none => none
    | some m =>
      if m != n then none
      else match n.kind with
        | 0 => some (Instr.nopCommand n.ctx n.id)
        | 1 => some (.launch n.ctx n.id)
        | 2 => if s.rangeHeld n.arg0 n.arg2 || s.rangeHeld n.arg1 n.arg2 then none else some (.copyCommand n.ctx n.id)
        | _ => if s.rangeHeld n.arg0 8 then none else some (.signalCommand n.ctx n.id))
  let ends := if s.journalRoom && !s.cp.failed then
      s.cp.nodes.filterMap (fun n => if s.nodeOver n then some (Instr.nodeFinish n.ctx n.id) else none) else []
  let deals := s.cp.launches.filterMap (fun l =>
    let n := Nat.min (groupSize l.team) (l.team.teams - l.dealt)
    let more := n != 0 && (s.dealTo l.team n).isSome
    let again := s.cp.engines.any (fun e => match s.stuckOf l.team.ctx l.team.node e with
      | q :: _ => (match s.entryTeam q with
        | some t => (s.dealTo t (q.teamids.length + q.saved.length)).isSome
        | none => false)
      | [] => false)
    let stray := (s.strayGroups l.team.ctx l.team.node).any (fun t => (s.requeue t).cp.orderNext != s.cp.orderNext)
    if more || again || stray then some (Instr.teamDeal l.team.ctx l.team.node) else none)
  accept ++ starts ++ ends ++ deals

/-- Events of the queue engines: admission, restore, stealing (R282, R284, R285, R291). -/
def State.engineEvents (s : State) : List Instr :=
  let heads := s.cp.engines.filterMap (fun e =>
    match e.entries.head? with
    | none => none
    | some q =>
      if s.cp.failed && (match s.entryTeam q with | some t => t.clvl != 0 | none => false) then none
      else if (s.tryAdmit e.core).isNone then none
      else match q.saved with
        | k :: _ => some (Instr.teamRestore k e.core)
        | [] => if s.headIs e.core true false then some (.cohortAdmit e.core) else some (.teamAdmit e.core))
  let refused := s.saved.filterMap (fun v => if s.restRefused v || (s.tryHanded v).isSome then some (Instr.teamRestore v.team.serial v.team.core) else none)
  let answers := s.cp.engines.filterMap (fun e => if s.host.cur.depth ≥ 2 then none else e.asked.map (fun v => Instr.stealAnswer v e.core))
  let asks := (s.allCores.filter s.maySteal).map (fun k => Instr.stealRequest k)
  heads ++ refused ++ answers ++ asks

/-- Events of the package: saves, dumps, fault records, losses, tokens, pushes (R27, R289, R313, R328, R339, R343, R351, R336). -/
def State.packageEvents (s : State) : List Instr :=
  let frees := s.teams.filterMap (fun t => if t.ended && !t.released && !s.copies.any (fun c => c.into t.serial) then some (Instr.scratchRelease t.serial) else none)
  let saves := s.saved.filterMap (fun v => match s.findTeam v.team.serial with
    | some t => if v.status == 0 && s.saveReady t && s.journalRoom && !s.saveHeld v t then some (Instr.teamSaveWriteOut t.serial) else none
    | none => none)
  let dumps := s.dbg.filterMap (fun d => match d.dump with
    | some x => (match s.findTeam x.team with
      | some t => if s.dumpReady x t then some (Instr.dumpWrite d.core) else none
      | none => some (.dumpWrite d.core))
    | none => none)
  let faults := if s.journalRoom && s.cpRuns && (s.cp.faultQ.find? s.deliverable).isSome then [Instr.faultRecordDelivery] else []
  let spares := s.pkg.failedCores.filterMap (fun k => if s.crews.any (fun c => c.core == k) then none else some (Instr.spareCoreMap k))
  let shards := s.pkg.dies.filterMap (fun d => if d.rebuilding && d.log.isSome then some (Instr.shardRebuild d.phys) else none)
  let tokens := (if s.pkg.routers.any (fun r => !r.fired.isEmpty) then [Instr.squallTokenVisit 0] else [])
    ++ (if s.pkg.launoFired.isEmpty then [] else [.squallTokenVisit 1])
  let pushes := (s.store.wsecs.filter (fun w => s.host.cur.depth < 2 && !s.dieGone w.die && !s.fabricHolds (some w.die) (256 * w.sector))).map (fun w => Instr.wSectorPush w.die w.sector)
  frees ++ saves ++ dumps ++ faults ++ spares ++ shards ++ tokens ++ pushes

/-- Every event that may happen now. -/
def State.pool (s : State) : List Instr :=
  s.accs.flatMap s.accEvents ++ (s.store.lookups.flatMap s.lookupEvents ++ (s.crews.flatMap s.crewEvents
    ++ (s.copies.flatMap s.copyEvents ++ (s.dictlds.flatMap s.loadEvents ++ (s.accqEvents ++ (s.drains.flatMap s.drainEvents
    ++ (s.nodeEvents ++ (s.engineEvents ++ s.packageEvents))))))))

/-! ### One step -/

/-- What the next step does. -/
inductive Action
  /-- an input or event that the outside has placed in the agenda -/
  | input (i : Instr) (rest : List Instr)
  /-- an event whose time has come, or one that happens by choice -/
  | event (i : Instr)
  | issue (x : Cand)
  | cycle
deriving DecidableEq, Repr

/-- What is left of a cycle when no event comes first: WAITs time out, so that the completions of the cycle have come before and the lanes
that end in it wake together (R23); then the next bundle issues, or stops its scheduler; then the cycle ends. -/
def State.bundleAction (s : State) : Action :=
  match firstOf s.crews s.waitTimer, s.choice with
  | some i, _ => .event i
  | none, none => .cycle
  | none, some x => if s.pcMatched x then .event (.pcMatchStop x.core x.sched) else .issue x

/-- The bundle that issues by an event, when the event is the end of its wait for a latch or for grants of G (R219, R224, R232). -/
def State.eventCand (s : State) (i : Instr) : Option Cand :=
  let cand := fun (serial crew : Nat) (mask : Crew → Mask) =>
    (s.crewAt serial crew).bind (fun k => (s.crew? k).map (fun c =>
      ({ crew := k, mask := mask c, core := c.core, sched := c.sched, slot := c.slot, prio := 0, last := 0, low := 0 } : Cand)))
  match i with
  | .operandLatchFill t c => cand t c (fun _ => allLanes)
  | .destinationLinesHeldInG t c l =>
    cand t c (fun w => if s.copies.any (fun x => x.serial == t && x.crew == c && x.lane == l && !x.granted) then maskOf [l]
      else (w.bundles.find? (fun b => b.getLsbD l)).getD (maskOf [l]))
  | _ => none

/-- The next action (log 1): the agenda first, then what the time forces; else one of the events that may happen, or a bundle, as the
n-th choice falls. Once a WAIT has timed out in a cycle, or a bundle has tried to issue, no further event happens in it. -/
def State.action (s : State) : Action :=
  match s.agenda with
  | i :: rest => .input i rest
  | [] =>
    match s.forced with
    | some i => .event i
    | none =>
      if s.closing then s.bundleAction
      else match s.pool with
      | [] => s.bundleAction
      | i :: p =>
        match (i :: p)[Config.pick s.freeCtr % (p.length + 2)]? with
        | some j => (match s.eventCand j with
          | some x => if s.pcMatched x then .event (.pcMatchStop x.core x.sched) else .event j
          | none => .event j)
        | none => s.bundleAction

/-- Apply a change to the next state of an outcome. -/
def Outcome.map (f : State → State) : Out → Out
  | .next s => .next (f s)
  | .fault e => .fault e
  | .refused r => .refused r

/-- The tag of a candidate's launch. -/
def State.tagOf (s : State) (x : Cand) : Nat := match s.crew? x.crew with | some c => (s.teamOf c).ptag | none => 0

/-- The slot that a bundle takes when it has issued (R12); a pad word takes none (R126). -/
def State.slotTaken (s : State) (x : Cand) (t : State) : List Slot :=
  if s.atPad x.crew x.mask || !t.hasIssued x.crew x.mask || !s.slotFree x.core x.sched then []
  else [{ core := x.core, sched := x.sched, full := x.mask == allLanes, tag := s.tagOf x }]

/-- The state after an instruction or an event that began in `s` and left `t`: what follows at once, in the same cycle, with the slots
that have been taken. No bundle is half issued between steps. -/
def State.after (s : State) (new : List Slot) (t : State) : State :=
  { t.settle with cur := none, cycle := s.cycle, slotsUsed := s.slotsUsed ++ new, closing := s.closing }

/-- The slot of the bundle that issues by an event. -/
def State.eventSlot (s : State) (i : Instr) (t : State) : List Slot :=
  match s.eventCand i with | some x => s.slotTaken x t | none => []

/-- Whether an event ends the events of its cycle. -/
def lateEvent (i : Instr) : Bool := match i with | .waitTimeout _ _ _ => true | _ => false

/-- One step of the package. -/
def State.advance (s : State) : Out :=
  let s1 : State := { s with freeCtr := s.freeCtr + 1 }
  let s2 : State := { s1 with closing := true }
  match s.action with
  | .input i rest => Outcome.map (s1.after []) (exec i { s1 with agenda := rest })
  | .event i => let s1 := if lateEvent i then s2 else s1
                Outcome.map (fun t => s1.after (s1.eventSlot i t) t) (exec i s1)
  | .issue x => Outcome.map (fun t => s2.after (s2.slotTaken x t) t) (s2.attempt x.crew x.mask)
  | .cycle => .next s1.tickCycle

end Sys2Proof.Machine
end

