-- ==== Sys2Proof/Machine/Step.lean ====
section
/-! DEFINITION. The step of the package, and the placing of an instruction where the next step fetches it. -/
namespace Sys2Proof.Machine

/-- One step: an input, an event, the issue of one bundle, or the end of the cycle. -/
def step (s : State) : Host.Outcome State Fault Refusal := s.advance

/-- Where the placed instruction lies: virtual and physical address of a sector. -/
def placeVa : Nat := 0x10000
def placePa : Nat := 0x10000

/-- The translation of the placed page, for user and privileged fetches. -/
def placeLeaf : Leaf :=
  { asid := 0, secure := false, va := placeVa, pa := placePa, size := 65536, wr := true, ex := true, usr := true, cls := 0, shr := false
    pin := true, wld := false, sfmt := 0, csoff := 0 }

/-- A team of one crew on core 0, at privilege level F, in its first cycle. -/
def placeTeam (serial : Nat) : Team :=
  { (default : Team) with serial := serial, teams := 1, csize := 1, crews := 1, level := 2, holdcfg := 0x1000 }

def placeCrew (serial cycle : Nat) : Crew :=
  startCrew { (default : Ctx) with secure := false } (placeTeam serial) 0 0 cycle 0

/-- The machine with one resident crew whose threads stand READY at an instruction, with that instruction in memory, in core 0's
instruction cache and its page in core 0's TLB, and with nothing else under way (log 27): registers, memories, contexts and the package
are as they were. -/
def State.withFetchWord (s : State) (nbits w : Nat) : State :=
  let code := tableBytes nbits w
  let sector := code ++ List.replicate (256 - code.length) 0
  { s with
    agenda := [], slotsUsed := [], regrouped := true, closing := true, cur := none
    teams := [placeTeam 0]
    crews := [{ placeCrew 0 s.cycle with threads := List.replicate 32 (startThread (BitVec.ofNat 64 placeVa) s.cycle) }]
    saved := [], accs := [], accq := [], copies := [], dictlds := [], drains := []
    store := { s.store with
      mem := s.store.mem.putBytes placePa sector
      wsecs := [], lookups := []
      icache := [{ core := 0, line := placePa / 1024, secs := (List.replicate 4 []).set (placePa / 256 % 4) sector }]
      coreTlb := [(0, placeLeaf)] }
    cp := { s.cp with queues := s.cp.queues.map (fun (q : Queue) => { q with en := false }), nodes := [], launches := [], engines := []
                      faultQ := [], hbAge := 0 }
    pkg := { s.pkg with
      dies := s.pkg.dies.map (fun (d : Die) => { d with hbAt := s.cycle, hbMiss := none, wakeAge := none, rebuilding := false })
      failedCores := [], launoFired := [], routers := s.pkg.routers.map (fun (r : Router) => { r with fired := [] }) }
    dbg := []
    host := { s.host with cur := .gale, entering := none, exiting := none } }

end Sys2Proof.Machine
end

