-- ==== Sys2Proof/Safety.lean ====
section
/-! DEFINITION. The terms in which claims are stated: what a safe state keeps, what an instruction that works lane by lane leaves behind,
what an access, a control transfer and a trap leave behind. -/
namespace Sys2Proof.Machine

/-! ### Rounding (03 R60, R69, R71) -/

/-- The number that a finite value stands for. -/
def FVal.rat : FVal → ℚ
  | .fin s m e => (if s then -1 else 1) * m * 2 ^ e
  | _ => 0

/-- The magnitude that code k stands for; the code after the largest finite one stands for the next that the format would have. -/
def codeMag (F : FFmt) (k : Nat) : ℚ :=
  if k = F.max + 1 then 2 * (fdecode F F.max).rat - (fdecode F (F.max - 1)).rat else (fdecode F k).rat

/-- What a number of magnitude q rounds to under R69, with the flags of R71: the nearest code, of two equally near the even one in a format of 16
bits or more and the larger one in a narrower format; past the largest finite code, infinity or that code, with OF and NX; NX where the result
differs, and UF too where q, rounded to the format's precision, is below its least normal magnitude. -/
def RoundsTo (F : FFmt) (neg : Bool) (q : ℝ) (r : FRes) : Prop :=
  let off := fun (k : Nat) => |q - (codeMag F k : ℝ)|
  ∃ n ≤ F.max + 1,
    (∀ k ≤ F.max + 1, k ≠ n → off n < off k ∨ off n = off k ∧ if F.narrow then k < n else n % 2 = 0)
    ∧ r.1 = (if F.narrow then min n F.max else n) + (if neg ∧ F.signed then 2 ^ F.mw else 0)
    ∧ (n = F.max + 1 → r.2 = flOF + flNX)
    ∧ (n ≤ F.max → off n = 0 → r.2 = 0)
    ∧ (n ≤ F.max → off n ≠ 0 → r.2 = flNX + if q < 2 ^ (1 - (F.bias : Int)) * (1 - 2 ^ (-(F.m : Int) - 2)) then flUF else 0)

/-! ### Lane instructions (02 R43, R47; 07 R143) -/

/-- The registers that a thread of the issuing bundle loses to last uses (R47): to every source if it executes, to a permuted source, or one
that `wide` treats as permuted (R206, R208), even if it does not; a lane that re-executes loses none to a source that it has logged (R305). -/
def lostRegs (th : Thread) (executes : Bool) (wide : Src → Bool) (srcs : List (Use × Src)) : List Nat :=
  srcs.flatMap (fun p =>
    if p.2.last == 1 && isXreg p.2.code.toNat && (executes || wide p.2 || p.2.pat != 0) && th.reads p.2
    then (List.range p.1.regs).map (fun j => namedReg th p.2.code.toNat + j) else [])

/-- Register n of a thread after a lane instruction: the word of the result if it is a destination register, nothing if its last use
released it, else what it was. -/
def regAfter (th : Thread) (executes : Bool) (wide : Src → Bool) (srcs : List (Use × Src)) (d k v n : Nat) : Option Reg :=
  if executes && (dstRegs th d k).contains n then
    some { n := n, v := BitVec.ofNat 32 (v / 2 ^ (32 * (n - namedReg th d)) % 2 ^ 32), st := .mapped, pend := false, bad := false, lvl := 0 }
  else if (lostRegs th executes wide srcs).contains n then none
  else th.reg? n

/-- A thread of the issuing bundle after a lane instruction of `len` bytes: it stands READY at the next instruction; where it executes,
the destination holds the result and the flags are raised; nothing else of it changes. -/
def LaneAfter (th th' : Thread) (executes : Bool) (wide : Src → Bool) (srcs : List (Use × Src)) (d k len cycle v fl : Nat) : Prop :=
  (∀ n, th'.reg? n = regAfter th executes wide srcs d k v n)
  ∧ th' = { th with
      regs := th'.regs
      preds := if executes && decide (200 ≤ d) && decide (d < 208) then (th.setPred (d - 200) (v % 2 == 1)).preds else th.preds
      idx := if executes && decide (208 ≤ d) && decide (d < 216) then th.idx.set (d - 208) (BitVec.ofNat 32 v) else th.idx
      flags := if executes then th.flags ||| BitVec.ofNat 32 (fl % 1024) else th.flags
      pc := th.pc + BitVec.ofNat 64 len
      st := .ready
      why := .none
      lastIssue := cycle
      woke := false
      relog := none }

/-- The state after a lane instruction of a bundle: of the whole state only the issuing crew changes; of the crew, its threads as
`LaneAfter` says (those outside the bundle not at all), its bundles, and the crew register that is the destination, which takes the
result of the lowest lane that executes (R21). -/
def LaneDone (s t : State) (iss : Issue) (c : Crew) (em : Mask) (h : Hdr) (srcs : List (Use × Src)) (k len : Nat) (wide : Src → Bool)
    (v fl : Nat → Nat) : Prop :=
  ∃ c' : Crew,
    t = { s with crews := s.crews.set iss.crew c' }
    ∧ c' = { c with
        threads := c'.threads
        bundles := c'.bundles
        creg := (c.deliverCreg h.dst.toNat k em v).creg
        cbad := (c.deliverCreg h.dst.toNat k em v).cbad }
    ∧ c'.threads.length = c.threads.length
    ∧ ∀ (l : Nat) (th : Thread), c.threads[l]? = some th →
        ∃ th', c'.threads[l]? = some th'
          ∧ (iss.mask.getLsbD l = false → th' = th)
          ∧ (iss.mask.getLsbD l = true →
              LaneAfter th th' (em.getLsbD l) wide srcs h.dst.toNat k len s.cycle (v l) (fl l))

/-- What the issue of a bundle needs: `cur` names a crew and lanes of it. -/
def Issues (s : State) (iss : Issue) (c : Crew) : Prop := s.cur = some iss ∧ s.crew? iss.crew = some c

/-- The conditions under which a lane instruction executes: a collective one, or one that writes a crew register, finds the whole crew in
its bundle (R19), the former, unless it writes a crew register, with one guard for every lane (R20, R21); no check of the operands stops
it (R135, R45, R46, R48, R325). -/
def LaneRuns (s : State) (iss : Issue) (c : Crew) (h : Hdr) (srcs : List (Use × Src)) (k : Nat) (coll : Bool) : Prop :=
  let em := guardMask c iss.mask h
  let d := h.dst.toNat
  Issues s iss c
  ∧ (coll = true ∨ isCreg d = true → iss.mask = allLanes ∧ c.live = allLanes)
  ∧ (coll = true → isCreg d = true ∨ em = 0 ∨ em = allLanes)
  ∧ operandCheck s c iss.mask em (readLanes coll iss.mask em) iss.pc srcs d k (k == 2) = none
  ∧ boundLanes c em srcs d k = 0

/-- The law of a lane instruction: under `LaneRuns` it completes, and each lane that executes receives `res` of the values that the lanes
read, with its flags and those of the reads. A collective instruction whose guard is false in every lane releases nothing (R20). -/
def LaneLaw (i : Instr) (h : Hdr) (srcs : List (Use × Src)) (k len : Nat) (coll : Bool)
    (res : (Nat → List Nat) → Nat → Nat × Nat) : Prop :=
  ∀ (s : State) (iss : Issue) (c : Crew), LaneRuns s iss c h srcs k coll →
    let em := guardMask c iss.mask h
    let rd := fun l => readLane s c iss.mask srcs l
    let r := res (fun l => (rd l).vals)
    ∃ t, exec i s = .next t
      ∧ LaneDone s t iss c em h (takenSrcs coll h.dst.toNat em srcs) k len (fun _ => false) (fun l => (r l).1) (fun l => orF (r l).2 (readFlags (rd l)))

/-- A result that depends on the first value of the lane itself, on its first two, on its first three. -/
def own1 (g : Nat → Nat × Nat) : (Nat → List Nat) → Nat → Nat × Nat := fun vals l => g (val (vals l) 0)
def own2 (g : Nat → Nat → Nat × Nat) : (Nat → List Nat) → Nat → Nat × Nat := fun vals l => g (val (vals l) 0) (val (vals l) 1)
def own3 (g : Nat → Nat → Nat → Nat × Nat) : (Nat → List Nat) → Nat → Nat × Nat :=
  fun vals l => g (val (vals l) 0) (val (vals l) 1) (val (vals l) 2)

/-- A value and no flag. -/
def quiet (v : Nat) : Nat × Nat := (v, 0)

/-! ### Control transfers (07 R143, R156, R157) -/

/-- A thread of the issuing bundle after a control transfer of `len` bytes: it stands READY, at `target` and changed by `f` if it executes,
at the next instruction if it does not; of its registers only last uses are gone. -/
def CtlAfter (th th' : Thread) (executes : Bool) (srcs : List (Use × Src)) (len cycle fl : Nat) (target : DWord) (f : Thread → Thread) : Prop :=
  (∀ n, th'.reg? n = if (lostRegs th executes (fun _ => false) srcs).contains n then none else th.reg? n)
  ∧ th' = { (if executes then f { th with flags := th.flags ||| BitVec.ofNat 32 (fl % 1024) } else th) with
      regs := th'.regs
      pc := if executes then target else th.pc + BitVec.ofNat 64 len
      st := .ready
      why := .none
      lastIssue := cycle
      woke := false
      relog := none }

/-- The law of a control transfer: where no check of the operands stops it and every lane that executes has a target, each goes there.
Of the whole state only the issuing crew changes (and the counter of identifiers); of the crew, its threads and bundles. -/
def CtlLaw (i : Instr) (h : Hdr) (srcs : List (Use × Src)) (len : Nat) (go : Thread → List Nat → Option (DWord × (Thread → Thread))) : Prop :=
  ∀ (s : State) (iss : Issue) (c : Crew),
    let em := guardMask c iss.mask h
    let rd := fun l => readLane s c iss.mask srcs l
    Issues s iss c →
    operandCheck s c iss.mask em em iss.pc srcs 255 1 false = none → boundLanes c em srcs 255 1 = 0 →
    (∀ l ∈ lanesOf em, (go (c.thread l) (rd l).vals).isSome = true) →
    ∃ t c', exec i s = .next t
      ∧ t = { s with crews := s.crews.set iss.crew c', nextId := t.nextId }
      ∧ c' = { c with threads := c'.threads, bundles := c'.bundles }
      ∧ c'.threads.length = c.threads.length
      ∧ ∀ (l : Nat) (th : Thread), c.threads[l]? = some th →
          ∃ th', c'.threads[l]? = some th'
            ∧ (iss.mask.getLsbD l = false → th' = th)
            ∧ (iss.mask.getLsbD l = true →
                CtlAfter th th' (em.getLsbD l) srcs len s.cycle (readFlags (rd l)) (((go th (rd l).vals).map (·.1)).getD 0)
                  (((go th (rd l).vals).map (·.2)).getD id))

/-- Lanes that a CALL, CALLX or RET leaves STALLED with their access to the private window under way (R58): one access for each lane that
executes, of the kind, the place and the datum that `acc` gives; the other lanes of the bundle go on. Nothing else changes but the order of
use of the core's TLB entries (R300). -/
def CallAccesses (s t : State) (c c' : Crew) (iss : Issue) (h : Hdr) (srcs : List (Use × Src)) (len : Nat)
    (acc : Nat → AccKind × (Loc × Option Leaf) × Nat) : Prop :=
  let em := guardMask c iss.mask h
  t = { s with crews := s.crews.set iss.crew c', accs := t.accs, nextId := t.nextId
               store := { s.store with coreTlb := t.store.coreTlb } }
  ∧ (∀ e, e ∈ t.store.coreTlb ↔ e ∈ s.store.coreTlb)
  ∧ (∃ new : List Acc, t.accs = s.accs ++ new ∧ new.map (·.lane) = lanesOf em
    ∧ ∀ a ∈ new, a.serial = c.team ∧ a.crew = c.id ∧ a.pc = iss.pc ∧ a.hold = .none ∧ a.kind = (acc a.lane).1
      ∧ a.units = [AUnit.on (acc a.lane).2.1.2 { loc := (acc a.lane).2.1.1, size := 8, data := (acc a.lane).2.2, done := false }])
  ∧ c' = { c with threads := c'.threads, bundles := c'.bundles }
  ∧ ∀ (l : Nat) (th : Thread), c.threads[l]? = some th →
      c'.threads[l]? = some (
        if !iss.mask.getLsbD l then th
        else if em.getLsbD l then
          { th with st := .stalled, why := .call
                    flags := th.flags ||| BitVec.ofNat 32 (readFlags (readLane s c iss.mask srcs l) % 1024) }
        else { th with pc := th.pc + BitVec.ofNat 64 len, st := .ready, why := .none, lastIssue := s.cycle, woke := false, relog := none })

/-- No codeword in error lies where a wait reads (R324). -/
def ReadsClean (s : State) (p : Pending) : Prop :=
  ∀ x ∈ s.store.upsets, ∀ y ∈ p.conds, match y with | .mem loc _ _ => x.at loc p.msz = false | _ => True

/-! ### Threads that go on, threads that park (01 R13, R15; 13 R259; 14 R287) -/

/-- A thread of an issuing bundle goes on: it stands READY at `pc`, has issued in this cycle, and holds no operand log. -/
def onward (pc : DWord) (cycle : Nat) (th : Thread) : Thread :=
  { th with pc := pc, st := .ready, why := .none, lastIssue := cycle, woke := false, relog := none }

/-- A thread that records a park cause: PARKED, with the state it goes back to; an exited thread records none. -/
def parkedBy (p : ParkCause) (th : Thread) : Thread :=
  if th.st = .exited then th
  else { th with st := .parked, back := if th.st = .parked then th.back else th.st, causes := th.causes ++ [p] }

/-- A thread that has ended (R159): nothing of its registers, its wait or its causes is left. -/
def ended (th : Thread) : Thread :=
  { th with st := .exited, why := .none, regs := [], wait := none, causes := [], relog := none }

/-- Of the state only the crew at k changes, of the crew only its threads and bundles: lane l becomes `f l`. -/
def CrewGoes (s t : State) (k : Nat) (c : Crew) (f : Nat → Thread → Thread) : Prop :=
  ∃ b, t = { s with crews := s.crews.set k { c with threads := c.threads.mapIdx f, bundles := b } }

/-- A whole crew records a park cause. -/
def CrewParks (c c' : Crew) (p : ParkCause) : Prop :=
  c' = { c with threads := c.threads.mapIdx (fun l th => if l < 32 then parkedBy p th else th), bundles := c'.bundles, left := c'.left
                atPark := c'.atPark }

/-- The record of a fault of kind P or E that a crew takes (R314). -/
def faultRec (s : State) (c : Crew) (tr : Trap) (r : Rec) : Prop :=
  r.rid = s.nextId ∧ r.cause = tr.cause ∧ r.sub = tr.sub ∧ r.ctx = (s.teamOf c).ctx ∧ r.fdom = c.fdom ∧ r.gdepth = c.frames.length
  ∧ r.serial = c.team ∧ r.crew = c.id ∧ r.core = c.core ∧ r.lmask = tr.lmask ∧ r.pc = tr.pc ∧ r.addr = BitVec.ofNat 64 tr.addr
  ∧ r.info = tr.info ∧ r.ilane = tr.ilane ∧ r.group = tr.group ∧ r.page = none ∧ r.escd = false

/-- The crew at k takes a fault: it is parked with the identifier of its record, which is handed to the command processor; nothing else
changes but the counter of identifiers (R310, R313, R314). -/
def FaultTaken (s t : State) (k : Nat) (tr : Trap) : Prop :=
  ∃ (c c' : Crew) (r : Rec), s.crews[k]? = some c ∧ CrewParks c c' (.fault s.nextId) ∧ faultRec s c tr r
    ∧ t = { s with nextId := s.nextId + 1, crews := s.crews.set k c', cp := { s.cp with faultQ := s.cp.faultQ ++ [r] } }

/-- Neither a stop on faults nor a dump concerns a crew (R347, R351). -/
def Undebugged (s : State) (c : Crew) : Prop :=
  (∀ j, ((s.debugOf c.core).sched j).sof = false) ∧ s.dumpCore c.team = none

/-! ### Accesses (05 R106 to R112; 08 R173, R381) -/

/-- A thread of the issuing bundle after a memory instruction: READY at the next instruction; where it executes, the registers that the
access is still to write are taken and pending, and the flags of its operands and of its conversions are raised (R173, R177). -/
def MemAfter (th th' : Thread) (executes : Bool) (srcs : List (Use × Src)) (dst : List Nat) (cycle fl : Nat) : Prop :=
  (∀ n, if executes = true ∧ n ∈ dst
    then ∃ r, th'.reg? n = some r ∧ r.st = .mapped ∧ r.pend = true ∧ r.bad = false
    else th'.reg? n = if (lostRegs th executes (fun _ => false) srcs).contains n then none else th.reg? n)
  ∧ th' = { onward (th.pc + 16) cycle th with
      regs := th'.regs
      flags := if executes then th.flags ||| BitVec.ofNat 32 (fl % 1024) else th.flags }

/-- The kinds of access that record and replay count (R358). -/
def recKind (k : AccKind) : Bool :=
  match k with
  | .load | .store | .atomic | .bar | .binv | .stsig | .push _ _ | .pop | .tile => true
  | .fence | .epi | .copy | .clwb | .clevict => false

/-- The law of a memory instruction: where no check stops it, no lane waits at it for its page and each lane that executes has a plan (or,
for a hint, nothing to do), one access enters for each plan, in lane order, with the lane's units, its order and its destination, and the
lanes go on. Nothing else changes but the order of use of the core's TLB entries, and, for a hint, the failed lookups that the crew has met.
`uses` and `nreg` are the sources and the destination registers by the storage format of the lane's page. -/
def MemLaw (i : Instr) (f : F128M) (kind : AccKind) (uses : Nat → List (Use × Src)) (nreg : Nat → Nat) (acq rel phys : Bool)
    (plan : State → Crew → Nat → List Nat → LaneRes) : Prop :=
  ∃ d, memDesc i = some d ∧ ∀ (s : State) (iss : Issue) (c : Crew) (p : Nat → Option LanePlan),
    let em := guardMask c iss.mask f.h
    let st := fun l => fmtOfLane s c iss.mask d l
    let rd := fun l => readLane s c iss.mask (uses (st l)) l
    let dst := fun l => dstRegs (c.thread l) f.h.dst.toNat (nreg (st l))
    let res := fun l => match p l with | some q => LaneRes.ok q | none => .drop
    let slots := ((lanesOf em).map (fun l => 1 + ((((uses (st l)).drop 1).map (fun u => 4 * u.1.regs)).sum + 7) / 8)).foldl Nat.max 0
    Issues s iss c → em ≠ 0 → pageWait s c iss em d = none → pageLanes s c iss.mask em d = [] → memOut s c iss.mask em d = 0 →
    (d.hint = true → hintDrop s c iss.mask em d = 0) → memCheck s c iss.mask em 0 iss.pc d = none →
    blockRule ((lanesOf em).map (fun l => (l, plan s c l (rd l).vals))) = (lanesOf em).map (fun l => (l, res l)) →
    s.slotsHeld c.team c.id + slots ≤ 11 → (phys = true → 1 ≤ (s.teamOf c).level) →
    ∃ t c', exec i s = .next t
      ∧ t = { s with nextId := t.nextId, accs := t.accs, crews := s.crews.set iss.crew c'
                     store := { s.store with coreTlb := t.store.coreTlb, lookups := t.store.lookups } }
      ∧ (∀ e, e ∈ t.store.coreTlb ↔ e ∈ s.store.coreTlb)
      ∧ t.store.lookups = (if d.hint then (s.dropFailed c).store.lookups else s.store.lookups)
      ∧ t.accs = s.accs ++ ((lanesOf em).filterMap (fun l => (p l).map (fun q => (l, q)))).mapIdx (fun j x =>
          { id := s.nextId + 1 + j, group := s.nextId, serial := c.team, crew := c.id, lane := x.1, core := c.core
            ctx := (s.teamOf c).ctx, pc := iss.pc, ins := i, kind := kind, units := x.2.units, addr := x.2.addr, foot := x.2.foot
            acq := acq, rel := rel, scope := f.scp.toNat, sfmt := x.2.sfmt, rd := f.rd.toNat
            dst := if isXreg f.h.dst.toNat then some (namedReg (c.thread x.1) f.h.dst.toNat) else none
            nreg := nreg (st x.1), vals := (rd x.1).vals
            hold := if s.recMode (s.teamOf c) = 2 ∧ !phys ∧ recKind kind ∧ (x.2.units.any (fun u => (recUnit c.team u.loc).isSome)) then .clock else .none
            slots := slots, gdepth := c.frames.length, phys := phys })
      ∧ c' = { c with threads := c'.threads, bundles := c'.bundles } ∧ c'.threads.length = c.threads.length
      ∧ ∀ (l : Nat) (th : Thread), c.threads[l]? = some th →
          ∃ th', c'.threads[l]? = some th'
            ∧ (iss.mask.getLsbD l = false → th' = th)
            ∧ (iss.mask.getLsbD l = true →
                MemAfter th th' (em.getLsbD l) (uses (if em.getLsbD l then st l else 0)) (dst l) s.cycle
                  (orF (((p l).map (·.flags)).getD 0) (readFlags (rd l))))

/-- The accesses after unit k of the access `a` is done with its datum: where every access of the instruction has then finished, all of
them leave (R173). -/
def accsAfter (s : State) (a : Acc) (k data : Nat) : List Acc :=
  let m := s.accs.map (fun b => if b.id = a.id then { b with units := b.units.modify k (fun u => { u with data := data, done := true }) } else b)
  let g := m.filter (fun b => b.group == a.group && !(b.isCall && b.held))
  if g.all Acc.done then m.filter (fun b => !(b.group == a.group && !(b.isCall && b.held))) else m

/-- Unit k of the access with an identifier may be performed: the access, the unit; no poison and no codeword in error, no recording of its
launch; the accesses of its instruction are of its kind. -/
def Performs (s : State) (id k : Nat) (a : Acc) (u : AUnit) : Prop :=
  s.accs.find? (fun b => b.id == id) = some a ∧ a.units[k]? = some u ∧ s.mayPerform a k = true ∧ s.lanePoison a = none
  ∧ (∀ x ∈ s.store.upsets, x.at u.loc u.size = false) ∧ s.rr.run = none
  ∧ ∀ b ∈ s.accs, b.group = a.group → b.isCall = a.isCall ∧ (a.isCall = true ∨ b.kind = a.kind)

/-- No register of the lanes that an instruction's accesses write is in the percolator's hands (R52). -/
def NoSpill (s : State) (a : Acc) : Prop :=
  ∀ b ∈ s.accs, b.group = a.group → ∀ k c, s.crewAt b.serial b.crew = some k → s.crews[k]? = some c →
    b.dst = none ∨ ∀ r ∈ (c.thread b.lane).regs, r.st = .mapped

/-- A release at stack scope or wider (R109). -/
def wideRelease (a : Acc) : Bool := a.rel && decide (3 ≤ a.scope)

/-- The form of the W sectors that every push and every narrow store keeps: one for each die and sector, each byte once, in its sector. -/
def WForm (s : State) : Prop :=
  (s.store.wsecs.map (fun w => (w.die, w.sector))).Nodup
  ∧ ∀ w ∈ s.store.wsecs, (w.bytes.map (·.1)).Nodup ∧ ∀ c ∈ w.bytes, c.1 / 256 = w.sector

/-- Every die reads at every address but the n from `lo` on what it read before (R107), but for a byte that a W sector of another die holds: its
push makes it visible (R109). -/
def SeenBut (s t : State) (lo n : Nat) : Prop :=
  s.store.mem.wf = true → WForm s → ∀ die x, x < lo ∨ lo + n ≤ x → (∀ w ∈ s.store.wsecs, w.die ≠ die → ∀ b ∈ w.bytes, b.1 ≠ x) →
    t.byteAt die x = s.byteAt die x

/-- Of flat memory and its caches only what a write of n bytes from `lo` on, or an ownership of sectors, touches: lines of the caches, and, where a
die's W sectors are pushed, their bytes and the poison of sectors that they cover. Every die reads outside those n bytes what it read. Without W
sectors memory is `mem`. -/
def FlatWritten (s t : State) (lo n : Nat) (mem : Memory → Memory) : Prop :=
  t.store = { s.store with
    mem := t.store.mem, wsecs := t.store.wsecs, l1 := t.store.l1, l2 := t.store.l2, llc := t.store.llc, poison := t.store.poison
    upsets := t.store.upsets }
  ∧ (∃ m, t.store.mem = mem m ∧ (s.store.wsecs = [] → m = s.store.mem)) ∧ (s.store.wsecs = [] → t.store.wsecs = [])
  ∧ SeenBut s t lo n

/-- Bytes written at a location that the whole package sees: those bytes and no others, of the caches the states of their sectors, and, by
a store, the poison of an 8-byte word that it covers. -/
def BytesWritten (s t : State) (store : Bool) (l : Loc) (bytes : List Byte) : Prop :=
  match l with
  | .phys pa => t.teams = s.teams ∧ FlatWritten s t pa bytes.length (fun m => m.putBytes pa bytes)
  | .scr ser o => t.store = s.store ∧ t.teams = s.teams.map (fun x => if x.serial = ser
      then { x with scr := x.scr.putBytes o bytes
                    scrBad := if store = true ∧ o % 8 = 0 ∧ bytes.length = 8 then x.scrBad.filter (· != o / 8) else x.scrBad } else x)
  | .dscr c d o => t.teams = s.teams ∧ t.store = { s.store with dscr := t.store.dscr }
      ∧ (t.dscrOf c d).mem = (s.dscrOf c d).mem.putBytes o bytes
      ∧ ∀ x y, (x, y) ≠ (c, d) → t.dscrOf x y = s.dscrOf x y
  | .ten p o => t.teams = s.teams ∧ t.store = { s.store with tensor := t.store.tensor, llc := t.store.llc, upsets := t.store.upsets }
      ∧ t.tensorOf p = (s.tensorOf p).putBytes o bytes ∧ ∀ x, x ≠ p → t.tensorOf x = s.tensorOf x

/-- No W sector is one of a range of physical memory, or holds a byte of it. -/
def NoW (s : State) (l : Loc) (n : Nat) : Prop :=
  ∀ pa, l = .phys pa → ∀ w ∈ s.store.wsecs,
    (w.sector < pa / 256 ∨ (pa + n - 1) / 256 < w.sector) ∧ ∀ c ∈ w.bytes, c.1 < pa ∨ pa + n ≤ c.1

/-- W sectors of a die, and of no other, have been pushed: their bytes are in memory, the registrations are gone, and each die sees what it saw but
for those bytes (R109, R336). -/
def PushedBy (s t : State) (die : Nat) : Prop :=
  t = { s with store := { s.store with
    mem := t.store.mem, wsecs := t.store.wsecs, l1 := t.store.l1, l2 := t.store.l2, poison := t.store.poison, upsets := t.store.upsets } }
  ∧ (∀ w ∈ t.store.wsecs, w ∈ s.store.wsecs) ∧ (∀ w ∈ s.store.wsecs, w.die ≠ die → w ∈ t.store.wsecs)
  ∧ SeenBut s t 0 0 ∧ (s.store.mem.wf = true → t.store.mem.wf = true) ∧ ((∀ w ∈ s.store.wsecs, w.die ≠ die) → t = s)

/-- What an access with a release at stack scope or wider does first: it leaves its die no W sector (R109). Any other does nothing first. -/
def Released (s t : State) (a : Acc) : Prop :=
  if wideRelease a then PushedBy s t (dieOf a.core) ∧ (s.dieGone (dieOf a.core) = false → ∀ w ∈ t.store.wsecs, w.die ≠ dieOf a.core) else t = s

/-- The law of a unit that stores: it writes its bytes where the whole package sees them, or, where it is narrow and homed in another stack, in the W
sector of its die, which its die sees at once (R109, R116, R334, R336). -/
def StoreLaw (s : State) (id k : Nat) (a : Acc) (u : AUnit) (first : State → Prop) : Prop :=
  let narrow := match u.loc with
    | .phys pa => s.inW { core := a.core, ctx := a.ctx, scope := a.scope } pa
        && !(s.store.poison.contains (pa / 256) && s.coversSector a.group (pa / 256))
    | _ => false
  let datum := fun (n : Nat) => BitVec.ofNat 8 (u.data / 2 ^ (8 * n))
  (narrow = false → u.size ≤ 8 →
    ∃ s' t, first s' ∧ exec (.homeAcknowledgement id k) s = .next t ∧ BytesWritten s' t true u.loc (toBytes u.size u.data)
      ∧ t = { s with accs := accsAfter s a k u.data, teams := t.teams, store := t.store }
      ∧ (∀ pa, u.loc = .phys pa → s.store.mem.wf = true → NoW s u.loc u.size → ∀ die, ∀ j < u.size, t.byteAt die (pa + j) = datum j))
  ∧ (∀ pa, narrow = true → u.loc = .phys pa →
    let create := !(s.store.wsecs.any (fun x => x.die == dieOf a.core && x.sector == pa / 256))
    ∃ t, exec (if create then .wSectorRegistration id k else .homeAcknowledgement id k) s = .next t
      ∧ t = { s with accs := accsAfter s a k u.data, store := { s.store with
          mem := t.store.mem, wsecs := t.store.wsecs, l1 := t.store.l1, l2 := t.store.l2, llc := t.store.llc, poison := t.store.poison
          upsets := t.store.upsets } }
      ∧ (pa % 256 + u.size ≤ 256 → s.store.mem.wf = true → WForm s →
          (∀ j, t.byteAt (dieOf a.core) j = if pa ≤ j ∧ j < pa + u.size then datum (j - pa) else s.byteAt (dieOf a.core) j)
          ∧ (∀ die j, die ≠ dieOf a.core → (j < pa ∨ pa + u.size ≤ j) →
              (∀ x ∈ s.store.wsecs, x.die = dieOf a.core → ∀ c ∈ x.bytes, c.1 ≠ j) → t.byteAt die j = s.byteAt die j))
      ∧ ((∃ x ∈ s.store.l2, x.die = dieOf a.core ∧ x.line = pa / 1024) →
          t.store.mem = s.store.mem ∧ ∀ die j, die ≠ dieOf a.core → t.byteAt die j = s.byteAt die j))

/-- No cache of the package holds a copy of the line of an address, and no die that can push holds W bytes of it (R267). -/
def Recalled (t : State) (pa : Nat) : Prop :=
  (∀ x ∈ t.store.l1, x.line ≠ pa / 1024) ∧ (∀ x ∈ t.store.l2, x.line ≠ pa / 1024) ∧ (∀ x ∈ t.store.llc, x.ten = false → x.line ≠ pa / 1024)
  ∧ ∀ w ∈ t.store.wsecs, w.sector / 4 = pa / 1024 → t.dieGone w.die = true

/-- What unit k of the access `a` of an instruction delivers, done with its datum: where every access of the instruction has then finished,
each of its lanes has in its destination registers `words` of its access, and its flags; until then nothing (R173). -/
def Delivers (s t : State) (a : Acc) (k data : Nat) (words : Acc → List Nat) : Prop :=
  let marked := fun (b : Acc) => if b.id = a.id then { b with units := b.units.modify k (fun v => { v with data := data, done := true }) } else b
  let group := (s.accs.map marked).filter (fun b => b.group == a.group)
  (group.all Acc.done = false → t.crews = s.crews ∧ t.accs = s.accs.map marked)
  ∧ ∀ (n : Nat) (c : Crew), group.all Acc.done = true → s.crewAt a.serial a.crew = some n → s.crews[n]? = some c →
      (∀ b ∈ group, b.ins = a.ins ∧ b.kind = a.kind ∧ b.serial = a.serial ∧ b.crew = a.crew ∧ (c.thread b.lane).st ≠ .exited ∧ b.lane < c.threads.length
        ∧ b.nreg = (words b).length ∧ (b.kind = .load ∨ b.units.map (·.size) = [if b.kind = .bar then 16 else 4 * b.nreg])
        ∧ ∀ d, b.dst = some d → ∀ j < b.nreg, ((c.thread b.lane).reg? (d + j)).any (fun r => r.st == .mapped) = true) →
      group.Pairwise (fun b b' => b.lane ≠ b'.lane) →
      t.accs = (s.accs.map marked).filter (fun b => b.group != a.group)
      ∧ ∃ c', t.crews = s.crews.set n c' ∧ c' = { c with threads := c'.threads } ∧ c'.threads.length = c.threads.length
        ∧ ∀ (l : Nat) (th th' : Thread), c.threads[l]? = some th → c'.threads[l]? = some th' →
            match group.find? (fun b => b.lane == l) with
            | none => th' = th
            | some b => th' = { th with regs := th'.regs, flags := th.flags ||| BitVec.ofNat 32 (b.result.2 % 1024) }
              ∧ ∀ m, th'.reg? m = match b.dst with
                  | some d => if d ≤ m ∧ m < d + b.nreg
                      then some { n := m, v := BitVec.ofNat 32 (val (words b) (m - d)), st := .mapped, pend := false, bad := false, lvl := 0 }
                      else th.reg? m
                  | none => th.reg? m

/-! ### Accumulators and copies (10 R209 to R239) -/

/-- What an engine changes besides its data: by its translations the last-level TLBs, and by the reads of their walks the cached copies of table
lines, their W sectors and codewords in error (R267, R297, R300, R324); by its reads the caches; by its release the W sectors of its die (R109).
Without W sectors and such codewords memory and its poison are as they were. -/
def Looked (s t : State) : Prop :=
  t.store = { s.store with
    mem := t.store.mem, wsecs := t.store.wsecs, l1 := t.store.l1, l2 := t.store.l2, llc := t.store.llc, llTlb := t.store.llTlb
    poison := t.store.poison, upsets := t.store.upsets }
  ∧ t.pkg = { s.pkg with errs := t.pkg.errs }
  ∧ (s.store.upsets = [] → t.pkg = s.pkg ∧ t.store.upsets = [])
  ∧ (s.store.wsecs = [] → t.store.mem = s.store.mem ∧ t.store.wsecs = [])
  ∧ (s.store.upsets = [] → s.store.wsecs = [] → t.store.poison = s.store.poison)

/-- What the reads of a privileged instruction change besides its data: the order of use of the core's TLB entries, and what the reads of an
engine change (R87, R300, R324). -/
def Consulted (s t : State) : Prop :=
  t = { s with store := t.store, pkg := t.pkg }
  ∧ (∀ e, e ∈ t.store.coreTlb ↔ e ∈ s.store.coreTlb)
  ∧ Looked { s with store := { s.store with coreTlb := t.store.coreTlb } } t

/-- The law of an accumulator instruction: where no check stops it, the lowest lane whose guard is true enters one entry with the accesses
that make its writes, and the bundle goes on, or, where the entry has global destination lines, stands STALLED until they are held (R209,
R210, R212, R224). Where `flat` says that no place of its was translated, memory and caches are as they were. -/
def AccLaw (i : Instr) (h : Hdr) (srcs : List (Use × Src)) (len slots : Nat) (flat : Bool) (entry : State → Crew → Nat → DWord → List Nat → AccEntry → Prop) : Prop :=
  ∀ (s : State) (iss : Issue) (c : Crew) (l : Nat) (e : AccEntry), Issues s iss c →
    (lanesOf (guardMask c iss.mask h)).head? = some l → c.frames = [] → (∀ n ∈ namedTiles i, n < (s.teamOf c).tiles) →
    (∀ x ∈ srcs, x.2.last = 0) → oddAt c (guardMask c iss.mask h) srcs 255 1 false = false →
    operandCheck s c iss.mask (maskOf [l]) (maskOf [l]) iss.pc srcs 255 1 false = none → boundLanes c (maskOf [l]) srcs 255 1 = 0 →
    s.queued c.core < 16 → (slots = 0 ∨ s.slotsHeld c.team c.id + slots ≤ 11) →
    let rd := readLane s c iss.mask srcs l
    entry s c l iss.pc rd.vals e →
    ∃ t b, exec i s = .next t
      ∧ t = { s with
          accq := if e.granted then enterQueue s.accq e else s.accq ++ [e]
          accs := if e.granted then s.accs ++ tileAccs e else s.accs
          nextId := s.nextId + 1, store := t.store, pkg := t.pkg
          crews := s.crews.set iss.crew { c with bundles := b, threads := c.threads.mapIdx (fun j th =>
            if iss.mask.getLsbD j then
              let th := if j = l then { th with flags := th.flags ||| BitVec.ofNat 32 (readFlags rd % 1024) } else th
              if e.granted then onward (th.pc + BitVec.ofNat 64 len) s.cycle th else { th with st := .stalled, why := .grant }
            else th) } }
      ∧ Looked s t ∧ (flat = false → t.store = s.store ∧ t.pkg = s.pkg)

/-- An entry of the queue as its instruction makes it: the issuer, the tiles read and written, the bytes latched, and nothing done yet. -/
def entryOf (s : State) (c : Crew) (l : Nat) (pc : DWord) (i : Instr) (srcs dsts : List Nat) (a : List Byte) : AccEntry :=
  { id := s.nextId, core := c.core, ctx := (s.teamOf c).ctx, serial := c.team, crew := c.id, lane := l, pc := pc, ins := i
    srcs := srcs, dsts := dsts, a := a, b := [], bsrc := [], bbad := [], dict := none, gen := 0, scale := 0, bandA := 0, bandB := 0
    units := [], scope := 0, entered := s.cycle, sched := c.sched, lines := [], granted := true, started := false, result := [], flags := 0
    poison := none }

/-- The copy with an identifier, which its engine may act on: it is granted, waits for no page, no SEEDSET of its context is in progress,
its thread's earlier accesses are performed, it has no release to make, and no launch is recorded or replayed (R103, R117, R233, R358). -/
def CopyActs (s : State) (id : Nat) (c : Copy) : Prop :=
  s.copies.filter (fun x => x.id == id) = [c] ∧ c.granted = true ∧ c.page = none ∧ s.frozen c.ctx = false
  ∧ (∀ a ∈ s.accs, a.serial = c.serial → a.crew = c.crew → a.lane = c.lane → a.id < c.id → a.kind = .copy)
  ∧ (c.fenced = true ∨ c.fields.scope < 3) ∧ s.rr.run = none

/-- The copies of a state with the copy of an identifier replaced. -/
def copiesWith (s : State) (id : Nat) (c : Copy) : List Copy := s.copies.map (fun x => if x.id = id then c else x)

/-! ### Privileged instructions (13 R246 to R269) -/

/-- A crew after an instruction that acts once for its bundle, from lane l: the bundle goes on, and lane l has the flags of its reads. -/
def bundleGoes (s : State) (c : Crew) (mask : Mask) (l len fl : Nat) (b : List Mask) : Crew :=
  { c with bundles := b, threads := c.threads.mapIdx (fun j th =>
      if mask.getLsbD j then
        onward (th.pc + BitVec.ofNat 64 len) s.cycle (if j = l then { th with flags := th.flags ||| BitVec.ofNat 32 (fl % 1024) } else th)
      else th) }

/-- The law of a privileged instruction: at a level that may run it, with everything its crew has issued complete, where no check of its
operands stops it and `pre` holds of the values that the lowest lane reads, the bundle goes on, and `eff` relates the state then to the state
after it (R247, R256). -/
def PrivLaw (i : Instr) (h : Hdr) (srcs : List (Use × Src)) (len level : Nat) (pre : State → Crew → Nat → Nat → List Nat → Prop)
    (eff : State → Crew → Nat → Nat → List Nat → State → Prop) : Prop :=
  ∀ (s : State) (iss : Issue) (c : Crew) (l : Nat), Issues s iss c → level ≤ (s.teamOf c).level →
    (lanesOf (guardMask c iss.mask h)).head? = some l → s.crewIdle c = true → (∀ x ∈ srcs, x.2.last = 0) →
    oddAt c (guardMask c iss.mask h) srcs 255 1 false = false →
    operandCheck s c iss.mask (maskOf [l]) (maskOf [l]) iss.pc srcs 255 1 false = none → boundLanes c (maskOf [l]) srcs 255 1 = 0 →
    let rd := readLane s c iss.mask srcs l
    pre s c iss.crew l rd.vals →
    ∃ t b, exec i s = .next t
      ∧ eff { s with crews := s.crews.set iss.crew (bundleGoes s c iss.mask l len (readFlags rd) b) } c iss.crew l rd.vals t

/-- An operation begins that the crew at k waits for (R256). -/
def DrainBegun (s t : State) (k : Nat) (kind : DrainKind) : Prop :=
  ∃ c, s.crews[k]? = some c
    ∧ t = { s with
        nextId := s.nextId + 1
        drains := s.drains ++ [{ id := s.nextId, ctx := (s.teamOf c).ctx, serial := c.team, crew := c.id, kind := kind }]
        crews := s.crews.set k { c with busy := c.busy ++ [s.nextId] } }

/-- An operation ends, and the crews that waited for it go on. -/
def drainEnded (s : State) (id : Nat) : State :=
  { s with drains := s.drains.filter (fun d => d.id != id), crews := s.crews.map (fun c => { c with busy := c.busy.filter (· != id) }) }

/-- Whether a leaf is of `count` ASIDs from `first` on and maps the address, if there is one. -/
def leafNamed (first count : Nat) (va : Option Nat) (l : Leaf) : Bool :=
  decide (first ≤ l.asid) && decide (l.asid < first + count) && (match va with | some a => decide (l.va ≤ a) && decide (a < l.va + l.size) | none => true)

/-- The TLBs in the unit of a core at a scope hold none of the leaves named; the others are as they were (R258). -/
def TlbWithout (s t : State) (first count : Nat) (va : Option Nat) (core scope : Nat) : Prop :=
  t = { s with store := { s.store with
    coreTlb := s.store.coreTlb.filter (fun e => !(s.unitOf scope e.1 == s.unitOf scope core && leafNamed first count va e.2))
    llTlb := s.store.llTlb.filter (fun e => !(decide (2 ≤ scope) && s.unitOf scope (64 * e.1) == s.unitOf scope core && leafNamed first count va e.2))
    lookups := t.store.lookups } }

/-- Whether lane l of a crew waits for a MEM word whose physical place an invalidation may have taken back: one of its ASIDs, within the largest page
that could hold the address (R258, log 125). -/
def MemWaitStale (s : State) (first count : Nat) (va : Option Nat) (core scope : Nat) (c : Crew) (l : Nat) : Prop :=
  s.unitOf scope c.core = s.unitOf scope core ∧ first ≤ c.asid ∧ c.asid < first + count ∧ l < 32
  ∧ ((c.thread l).st = .waiting ∨ (c.thread l).st = .parked ∧ (c.thread l).back = .waiting)
  ∧ ∃ p, (c.thread l).wait = some p ∧ (∃ loc mask v, Cond.mem loc mask v ∈ p.conds)
    ∧ ∀ a sp o, va = some a → decodeAddr p.addr = .ok (sp, o) → ∃ v ∈ footVas (s.footOf c l sp (o : Int) p.msz), v / 2 ^ 31 = a / 2 ^ 31

/-- Such lanes issue their WAIT again, from the values that it read, the time-out counting on; every other thread is as it was. -/
def WaitsAgain (s t : State) (first count : Nat) (va : Option Nat) (core scope : Nat) : Prop :=
  t = { s with crews := t.crews } ∧ t.crews.length = s.crews.length
  ∧ ∀ (j : Nat) (c : Crew), s.crews[j]? = some c → ∃ c', t.crews[j]? = some c' ∧ c' = { c with bundles := c'.bundles, threads := c'.threads }
    ∧ c'.threads.length = c.threads.length
    ∧ ∀ (l : Nat) (th : Thread), c.threads[l]? = some th →
      (¬MemWaitStale s first count va core scope c l → c'.threads[l]? = some th)
      ∧ (MemWaitStale s first count va core scope c l →
          let back := { th with back := .ready, relog := th.wait.map (·.vals), gaps := []
                                wait := th.wait.map (fun p => { p with conds := p.conds.filter Cond.isTime, creg := none, dst := 255 }) }
          c'.threads[l]? = some (if th.st = .waiting then { back with st := .ready, why := .none, woke := true } else back))

/-- No READY thread of a crew stands behind its bundle, and every crew has its 32 threads. -/
def CrewsWhole (s : State) : Prop := ∀ c ∈ s.crews, c.threads.length = 32 ∧ ∀ th ∈ c.threads, th.st = .ready → th.why = .none

/-- A value names one crew of a resident team, at position j (R254). -/
def NamesCrew (s : State) (v j : Nat) (x : Team) (d : Crew) : Prop :=
  v < 2 ^ 28 ∧ s.findTeam (v / 16) = some x ∧ x.ended = false ∧ v % 16 < x.crews ∧ s.crews[j]? = some d ∧ d.team = v / 16 ∧ d.id = v % 16
  ∧ ∀ k e, s.crews[k]? = some e → e.team = v / 16 → e.id = v % 16 → k = j

/-- A thread that has lost the causes that meet a condition: where none is left it returns to the state it had (R259). -/
def uncaused (p : ParkCause → Bool) (th : Thread) : Thread :=
  let left := th.causes.filter (fun x => !p x)
  if th.st = .parked ∧ left = [] then
    if th.back = .ready then { th with causes := [], st := .ready, why := .none, woke := true }
    else { th with causes := [], st := th.back }
  else { th with causes := left }

/-- The accesses of one instruction are of one crew. -/
def GroupsOwn (s : State) : Prop := ∀ a ∈ s.accs, ∀ b ∈ s.accs, a.group = b.group → a.serial = b.serial ∧ a.crew = b.crew

/-- A crew whose innermost gate call a fault domain ends with a cause, dropping some of its accesses (R170): where that leaves none, the crew is
back with its caller, at the return PC, with the cause in c63; while one that is not done is left, or a register of the call's snapshot is not mapped, it stands in its call and its threads note the
cause. -/
def CallEnds (s : State) (d d' : Crew) (cause : Nat) (dropped : Acc → Bool) : Prop :=
  (∀ fr rest, d.frames = fr :: rest → (∀ q ∈ fr.lanes, ∀ r ∈ q.regs, r.st = .mapped) →
    (∀ a ∈ s.accs, a.serial = d.team → a.crew = d.id → dropped a = true) →
    d'.frames = rest ∧ d'.fdom = fr.fdom ∧ d'.asid = fr.asid ∧ (∀ w, d'.creg[63]? = some w → w = BitVec.ofNat 32 (2 ^ 31 + cause))
    ∧ ∀ l th, l < 32 → d.threads[l]? = some th → th.st ≠ .exited → (d'.thread l).pc = fr.pc)
  ∧ ((∃ a ∈ s.accs, a.serial = d.team ∧ a.crew = d.id ∧ dropped a = false ∧ a.done = false)
      ∨ (∃ fr rest, d.frames = fr :: rest ∧ ∃ q ∈ fr.lanes, ∃ r ∈ q.regs, r.st ≠ .mapped) →
    d'.frames = d.frames ∧ ∀ l th, l < 32 → d.threads[l]? = some th → th.st ≠ .exited → ParkCause.ending cause ∈ (d'.thread l).causes)

/-! ### The command processor (14 R273) -/

/-- Nothing holds a write of the command processor or of the save engine: no such write waits, no engine holds a line in G, no die's link is waking
and no lost die's shards are being rebuilt (R117, R342, R343). -/
def Unheld (s : State) : Prop :=
  s.store.posted = [] ∧ s.gLines = [] ∧ ∀ d ∈ s.pkg.dies, d.rebuilding = false ∧ d.wakeAge = none

/-- A record of the journal: the sequence number, KIND, QUEUE, CTXID, NODE and INFO (R273). -/
def journalRec (s : State) (kind queue ctx node info : Nat) : Nat :=
  s.cp.wseq % 2 ^ 64 + 2 ^ 64 * kind + 2 ^ 72 * (queue % 2 ^ 6) + 2 ^ 80 * (ctx % 2 ^ 12) + 2 ^ 96 * (node % 2 ^ 32) + 2 ^ 128 * (info % 2 ^ 128)

/-- The store of `s` with what package-visible writes of an agent outside the dies change as it is in `t`: memory, W sectors that they push,
copies in caches, poison and codewords of sectors that are written whole (R109, R125, R324, R335, R336). -/
def Stored (s t : State) : Store :=
  { s.store with
    mem := t.store.mem, wsecs := t.store.wsecs, l1 := t.store.l1, l2 := t.store.l2, poison := t.store.poison, upsets := t.store.upsets }

/-- The same, where pinned translations of the command processor came before (R300). -/
def StoredWalk (s t : State) : Store := { Stored s t with llc := t.store.llc, llTlb := t.store.llTlb }

/-- A record has been written at the journal's place for it, and WSEQ has risen (R273). -/
def Journalled (s t : State) (kind queue ctx node info : Nat) : Prop :=
  t.cp.wseq = s.cp.wseq + 1
  ∧ (s.store.mem.wf = true → t.store.mem.readN (s.cp.jbase * 4096 + 32 * (s.cp.wseq % s.cp.records)) 32 = journalRec s kind queue ctx node info)

/-! ### What every step keeps (01 R12) -/

/-- No scheduler of a core has taken two issue slots in the cycle that runs (R12). -/
def SlotsOnce (s : State) : Prop := (s.slotsUsed.map (fun x => (x.core, x.sched))).Nodup

/-- Between two steps no bundle is half issued, and each scheduler has issued at most one bundle in the cycle that runs (R12). -/
def BetweenSteps (s : State) : Prop := s.cur = none ∧ SlotsOnce s

end Sys2Proof.Machine
end

