-- ==== Sys2Proof/Certificates/Slice0/Obligations.lean ====
section
/-! DEFINITION. The statements for the provers, in the order of OBLIGATIONS.json. -/

open Sys2Proof Sys2Proof.Machine

/-! ### Lane instructions -/

/-- R144: ADD, SUB, MUL, MULHI, MIN, MAX, ABS, NEG, MAD, ADDI and MULI read their sources in the type of MOD[2:0], compute exactly, and deliver the
result wrapped to the type, or, where MOD[3] is set, clamped to it with SAT. `LaneLaw` adds the guard, last uses, flags, the next PC and the frame
(R43, R47, R76, R143). R145: DIV rounds toward zero and REM takes the sign of the dividend; a zero divisor gives all ones and the dividend, with DZ. -/
def Obligations.IntegerArithmeticResults : Prop :=
  ((∀ f : F64,
    let t := ityOf (field f.mod.toNat 0 3)
    let out := writeT t (bit f.mod.toNat 3)
    let u := useW (t.w == 64)
    let k := regsOf (t.w == 64)
    let one : List (Use × Src) := [(u, f.s1)]
    let two : List (Use × Src) := [(u, f.s1), (u, f.s2)]
    LaneLaw (.add f) f.h two k 8 false (own2 (fun a b => out (readT t a + readT t b)))
    ∧ LaneLaw (.sub f) f.h two k 8 false (own2 (fun a b => out (readT t a - readT t b)))
    ∧ LaneLaw (.mul f) f.h two k 8 false (own2 (fun a b => out (readT t a * readT t b)))
    ∧ LaneLaw (.mulhi f) f.h two k 8 false (own2 (fun a b => out (readT t a * readT t b / (2 : Int) ^ t.w)))
    ∧ LaneLaw (.min f) f.h two k 8 false (own2 (fun a b => out (min (readT t a) (readT t b))))
    ∧ LaneLaw (.max f) f.h two k 8 false (own2 (fun a b => out (max (readT t a) (readT t b))))
    ∧ LaneLaw (.abs f) f.h one k 8 false (own1 (fun a => out (readT t a).natAbs))
    ∧ LaneLaw (.neg f) f.h one k 8 false (own1 (fun a => out (-readT t a))))
  ∧ (∀ f : F96T,
    let t := ityOf (field f.mod.toNat 0 3)
    let u := useW (t.w == 64)
    LaneLaw (.mad f) f.h [(u, f.s1), (u, f.s2), (u, f.s3)] (regsOf (t.w == 64)) 12 false
      (own3 (fun a b c => writeT t (bit f.mod.toNat 3) (readT t a * readT t b + readT t c))))
  ∧ (∀ f : F96I,
    let t := ityOf (field f.mod.toNat 0 3)
    let out := writeT t (bit f.mod.toNat 3)
    let imm : Int := if t.sg then signed 32 f.imm.toNat else f.imm.toNat
    LaneLaw (.addi f) f.h [(useW (t.w == 64), f.s1)] (regsOf (t.w == 64)) 12 false (own1 (fun a => out (readT t a + imm)))
    ∧ LaneLaw (.muli f) f.h [(useW (t.w == 64), f.s1)] (regsOf (t.w == 64)) 12 false (own1 (fun a => out (readT t a * imm)))))
  ∧
  (∀ f : F64,
    let t := ityOf (field f.mod.toNat 0 3)
    let u := useW (t.w == 64)
    let k := regsOf (t.w == 64)
    LaneLaw (.div f) f.h [(u, f.s1), (u, f.s2)] k 8 false (own2 (fun a b =>
      if readT t b = 0 then (2 ^ t.w - 1, flDZ)
      else quiet (wrap t.w ((readT t a).sign * (readT t b).sign * ((readT t a).natAbs / (readT t b).natAbs : Nat)))))
    ∧ LaneLaw (.rem f) f.h [(u, f.s1), (u, f.s2)] k 8 false (own2 (fun a b =>
      if readT t b = 0 then (wrap t.w (readT t a), flDZ)
      else quiet (wrap t.w (readT t a -
        readT t b * ((readT t a).sign * (readT t b).sign * ((readT t a).natAbs / (readT t b).natAbs : Nat)))))))

/-- R146: the logic, shift, rotate, count and reversal instructions on 32 or 64 bits by MOD[0]. R148 to R150: bit-field extract and insert, the window
shift, MOV, MOVI, SEL. -/
def Obligations.LogicAndMoveResults : Prop :=
   ((∀ f : F64,
      let x := bit f.mod.toNat 0
      let w := if x then 64 else 32
      let u := useW x
      let k := regsOf x
      let two : List (Use × Src) := [(u, f.s1), (u, f.s2)]
      let one : List (Use × Src) := [(u, f.s1)]
      let sh : List (Use × Src) := [(u, f.s1), (.w32, f.s2)]
      let low := fun (v : Nat) => quiet (v % 2 ^ w)
      LaneLaw (.and f) f.h two k 8 false (own2 (fun a b => low (a &&& b)))
      ∧ LaneLaw (.or f) f.h two k 8 false (own2 (fun a b => low (a ||| b)))
      ∧ LaneLaw (.xor f) f.h two k 8 false (own2 (fun a b => low (a ^^^ b)))
      ∧ LaneLaw (.not f) f.h one k 8 false (own1 (fun a => quiet (2 ^ w - 1 - a % 2 ^ w)))
      ∧ LaneLaw (.shl f) f.h sh k 8 false (own2 (fun a n => low (if n < w then a <<< n else 0)))
      ∧ LaneLaw (.shr f) f.h sh k 8 false (own2 (fun a n => low (if n < w then a >>> n else 0)))
      ∧ LaneLaw (.sar f) f.h sh k 8 false (own2 (fun a n => quiet (wrap w (signed w a / (2 : Int) ^ min n w))))
      ∧ LaneLaw (.rol f) f.h sh k 8 false (own2 (fun a n => low (a * 2 ^ (n % w) + a % 2 ^ w / 2 ^ (w - n % w))))
      ∧ LaneLaw (.popc f) f.h one 1 8 false (own1 (fun a => quiet ((List.range w).countP (fun j => a.testBit j))))
      ∧ LaneLaw (.clz f) f.h one 1 8 false
          (own1 (fun a => quiet (((List.range w).reverse.takeWhile (fun j => !a.testBit j)).length)))
      ∧ LaneLaw (.brev f) f.h one k 8 false
          (own1 (fun a => quiet (((List.range w).map (fun j => if a.testBit j then 2 ^ (w - 1 - j) else 0)).sum))))
    ∧ (∀ f : F96I,
      let x := bit f.mod.toNat 0
      let w := if x then 64 else 32
      let imm := if x then wrap 64 (signed 32 f.imm.toNat) else f.imm.toNat
      let one : List (Use × Src) := [(useW x, f.s1)]
      LaneLaw (.andi f) f.h one (regsOf x) 12 false (own1 (fun a => quiet ((a &&& imm) % 2 ^ w)))
      ∧ LaneLaw (.ori f) f.h one (regsOf x) 12 false (own1 (fun a => quiet ((a ||| imm) % 2 ^ w)))
      ∧ LaneLaw (.xori f) f.h one (regsOf x) 12 false (own1 (fun a => quiet ((a ^^^ imm) % 2 ^ w)))))
  ∧
   ((∀ f : F64,
      LaneLaw (.mov f) f.h [(useW (bit f.mod.toNat 0), f.s1)] (regsOf (bit f.mod.toNat 0)) 8 false
          (own1 (fun a => quiet (a % 2 ^ (if bit f.mod.toNat 0 then 64 else 32)))))
    ∧ (∀ f : F96I,
      LaneLaw (.movi f) f.h [] (regsOf (bit f.mod.toNat 0)) 12 false
        (fun _ _ => quiet (if bit f.mod.toNat 0 then wrap 64 (signed 32 f.imm.toNat) else f.imm.toNat)))
    ∧ (∀ f : F96T,
      let x := bit f.mod.toNat 0
      let w := if x then 64 else 32
      let p := field f.xm.toNat 0 6
      let n := field f.xm.toNat 6 7
      LaneLaw (.sel f) f.h [(useW x, f.s1), (useW x, f.s2), (.sel, selSrc f.xm.toNat)] (regsOf x) 12 false
          (own3 (fun a b q => quiet (if q = 1 then a else b)))
      ∧ LaneLaw (.bfx f) f.h [(useW x, f.s1)] (regsOf x) 12 false (own1 (fun a =>
          let y := a / 2 ^ p % 2 ^ n
          quiet (if n = 0 then 0 else if bit f.mod.toNat 1 then wrap w (signed n y) else y)))
      ∧ LaneLaw (.bfi f) f.h [(useW x, f.s1), (useW x, f.s2)] (regsOf x) 12 false (own2 (fun a b =>
          quiet (b - b / 2 ^ p % 2 ^ n * 2 ^ p + a % 2 ^ n * 2 ^ p)))
      ∧ LaneLaw (.wsh f) f.h [(.w32, f.s1), (.w32, f.s2), (.w32, f.s3)] 1 12 false (own3 (fun lo hi n =>
          let y := hi * 2 ^ 32 + lo
          let m := if bit f.mod.toNat 1 then n % 64 else min n 64
          quiet (if bit f.mod.toNat 0 then y * 2 ^ m % 2 ^ 64 / 2 ^ 32 else y / 2 ^ m % 2 ^ 32)))))

/-- R147: ADDA forms d.64 := (a.64 + ext(o) × N) mod 2^64, with N = 2^MOD[2:0] and o sign-extended, or zero-extended with MOD[3]; MOD[2:0] = 7 and a
nonzero MOD[5:4] are ILLEGAL. -/
def Obligations.AddressFormation : Prop :=
  ∀ f : F64,
    LaneLaw (.adda f) f.h [(.w64, f.s1), (.w32, f.s2)] 2 8 false (own2 (fun a o =>
      quiet (wrap 64 ((a : Int) + (if bit f.mod.toNat 3 then (o : Int) else signed 32 o) * (2 : Int) ^ field f.mod.toNat 0 3))))
    ∧ (field f.mod.toNat 0 3 = 7 ∨ field f.mod.toNat 4 2 ≠ 0 → illegalSub (.adda f) ≠ none)

/-- R151 to R153: integer compares into a predicate, and predicate logic on selectors. R154, R155, R160: FLCLR delivers the flags that stood before and
clears those it names; IXSET writes one index register; `elect.rot` takes the next qualifying lane after the rotation lane, which moves to it. Each
is otherwise a lane instruction (`LaneDone`). -/
def Obligations.PredicateAndFlagResults : Prop :=
   ((∀ f : F64,
      let t := ityOf (field f.mod.toNat 0 3)
      let sels : List (Use × Src) := [(.sel, f.s1), (.sel, f.s2)]
      LaneLaw (.setp f) f.h [(useW (t.w == 64), f.s1), (useW (t.w == 64), f.s2)] 1 8 false
          (own2 (fun a b => quiet (ofBool (icond (field f.mod.toNat 3 3) (readT t a) (readT t b)))))
      ∧ LaneLaw (.pand f) f.h sels 1 8 false (own2 (fun a b => quiet (if a = 1 ∧ b = 1 then 1 else 0)))
      ∧ LaneLaw (.por f) f.h sels 1 8 false (own2 (fun a b => quiet (if a = 1 ∨ b = 1 then 1 else 0)))
      ∧ LaneLaw (.pxor f) f.h sels 1 8 false (own2 (fun a b => quiet (if (a = 1) ≠ (b = 1) then 1 else 0)))
      ∧ LaneLaw (.pnot f) f.h [(.sel, f.s1)] 1 8 false (own1 (fun a => quiet (if a = 1 then 0 else 1))))
    ∧ (∀ f : F96I,
      let t := ityOf (field f.mod.toNat 0 3)
      let imm : Int := if t.sg then signed 32 f.imm.toNat else f.imm.toNat
      LaneLaw (.setpi f) f.h [(useW (t.w == 64), f.s1)] 1 12 false
        (own1 (fun a => quiet (ofBool (icond (field f.mod.toNat 3 3) (readT t a) imm)))))
    ∧ (∀ a b : Int, icond 0 a b = decide (a = b) ∧ icond 1 a b = decide (a ≠ b) ∧ icond 2 a b = decide (a < b)
        ∧ icond 3 a b = decide (a ≤ b) ∧ icond 4 a b = decide (a > b) ∧ icond 5 a b = decide (a ≥ b)))
  ∧
   ((∀ (f : F64) (s : State) (iss : Issue) (c : Crew),
      let srcs : List (Use × Src) := [(.w32, f.s1), (.w32, { code := 211, last := 0, pat := 0, parm := 0 })]
      let rd := fun l => readLane s c iss.mask srcs l
      let em := guardMask c iss.mask f.h
      LaneRuns s iss c f.h srcs 1 false →
        ∃ t t0, exec (.flclr f) s = .next t
          ∧ LaneDone s t0 iss c em f.h (takenSrcs false f.h.dst.toNat em srcs) 1 8 (fun _ => false) (fun l => val (rd l).vals 1) (fun l => readFlags (rd l))
          ∧ t = t0.modCrew iss.crew (fun k => k.modLanes em (fun l th => { th with flags := th.flags &&& ~~~ BitVec.ofNat 32 (val (rd l).vals 0 % 1024) })))
    ∧ (∀ (f : F96T) (s : State) (iss : Issue) (c : Crew),
      let op := field f.mod.toNat 1 2
      let h : Hdr := { f.h with dst := 255 }
      let n := f.h.dst.toNat - 208
      let srcs : List (Use × Src) := if op == 0 then [] else [(.w32, f.s1)]
      let rd := fun l => readLane s c iss.mask srcs l
      let em := guardMask c iss.mask h
      let new := fun (a old : Nat) =>
        let low := if bit f.mod.toNat 0 then f.xm.toNat % 2 ^ 14 else old % 2 ^ 14
        let top := old / 2 ^ 14 % 4
        let idx := if op = 1 then a % 2 ^ 16 else if op = 2 then (old / 2 ^ 16 + a) % 2 ^ 16 else old / 2 ^ 16
        low + 2 ^ 14 * top + 2 ^ 16 * idx
      LaneRuns s iss c h srcs 1 false →
        ∃ t t0, exec (.ixset f) s = .next t
          ∧ LaneDone s t0 iss c em h srcs 1 12 (fun _ => false) (fun _ => 0) (fun l => readFlags (rd l))
          ∧ t = t0.modCrew iss.crew (fun k => k.modLanes em (fun l th =>
              { th with idx := th.idx.set n (BitVec.ofNat 32 (new (val (rd l).vals 0) ((th.idx[n]?).getD 0).toNat)) })))
    ∧ (∀ (f : F64) (s : State) (iss : Issue) (c : Crew),
      let srcs : List (Use × Src) := [(.w32, f.s1)]
      let rd := fun l => readLane s c iss.mask srcs l
      let em := guardMask c iss.mask f.h
      let q := (List.range 32).filter (fun l => val (rd l).vals 0 != 0)
      let leader := (q.find? (fun l => decide (c.rot < l))).or q.head?
      field f.mod.toNat 0 2 = 2 → LaneRuns s iss c f.h srcs 1 true →
        ∃ t t0, exec (.elect f) s = .next t
          ∧ LaneDone s t0 iss c em f.h (takenSrcs true f.h.dst.toNat em srcs) 1 8 (fun _ => false) (fun l => if leader = some l then 1 else 0) (fun l => readFlags (rd l))
          ∧ t = t0.modCrew iss.crew (fun k => { k with rot := if em = 0 then k.rot else leader.getD k.rot })))

/-- R192, R194: the arithmetic of the float formats, exact and rounded once, with the flags of the rounding and of the operation. R195, R197 to R199:
minimum, maximum, absolute value, negation, rounding to an integral value, classes, compares and selection. R196: reciprocal, reciprocal root, power
of two, logarithm and hyperbolic tangent, in the lane form of `LaneLaw`. What the functions named here deliver is said in FloatRounding and
FunctionAccuracy. That an infinite
dividend raises DZ too is the model's reading (log 100). -/
def Obligations.FloatResults : Prop :=
   ((∀ f : F64,
      let F := ftFmt f.mod
      let x := ft64 f.mod.toNat
      let two : List (Use × Src) := [(useW x, f.s1), (useW x, f.s2)]
      let once := fun (r : FVal × Nat) => ((fround F r.1).1, orF (fround F r.1).2 r.2)
      LaneLaw (.fadd f) f.h two (regsOf x) 8 false (own2 (fun a b => once (addV (fdecode F a) (fdecode F b))))
      ∧ LaneLaw (.fsub f) f.h two (regsOf x) 8 false (own2 (fun a b => once (addV (fdecode F a) (negV (fdecode F b)))))
      ∧ LaneLaw (.fmul f) f.h two (regsOf x) 8 false (own2 (fun a b => once (mulV (fdecode F a) (fdecode F b))))
      ∧ LaneLaw (.fdiv f) f.h two (regsOf x) 8 false (own2 (fdivE F))
      ∧ LaneLaw (.fsqrt f) f.h [(useW x, f.s1)] (regsOf x) 8 false (own1 (fsqrtE F))
      ∧ LaneLaw (.fscl f) f.h [(useW x, f.s1), (.w32, f.s2)] (regsOf x) 8 false (own2 (fsclE F)))
    ∧ (∀ f : F96T,
      let F := ftFmt f.mod
      let x := ft64 f.mod.toNat
      LaneLaw (.ffma f) f.h [(useW x, f.s1), (useW x, f.s2), (useW x, f.s3)] (regsOf x) 12 false (own3 (fun a b c =>
        let r := fmaV (fdecode F a) (fdecode F b) (fdecode F c)
        ((fround F r.1).1, orF (fround F r.1).2 r.2))))
    ∧ (∀ f : F96I,
      let F := ftFmt f.mod
      let x := ft64 f.mod.toNat
      let once := fun (r : FVal × Nat) => ((fround F r.1).1, orF (fround F r.1).2 r.2)
      LaneLaw (.faddi f) f.h [(useW x, f.s1)] (regsOf x) 12 false
          (own1 (fun a => once (addV (fdecode F a) (fdecode ffF32 f.imm.toNat))))
      ∧ LaneLaw (.fmuli f) f.h [(useW x, f.s1)] (regsOf x) 12 false
          (own1 (fun a => once (mulV (fdecode F a) (fdecode ffF32 f.imm.toNat))))))
  ∧
   ((∀ f : F64,
      let F := ftFmt f.mod
      let x := ft64 f.mod.toNat
      let one : List (Use × Src) := [(useW x, f.s1)]
      let two : List (Use × Src) := [(useW x, f.s1), (useW x, f.s2)]
      let cut := fun (v : Nat) => v % 2 ^ (F.mw + 1)
      LaneLaw (.fmin f) f.h two (regsOf x) 8 false (own2 (fun a b => quiet (fminmax F false (cut a) (cut b))))
      ∧ LaneLaw (.fmax f) f.h two (regsOf x) 8 false (own2 (fun a b => quiet (fminmax F true (cut a) (cut b))))
      ∧ LaneLaw (.fabs f) f.h one (regsOf x) 8 false
          (own1 (fun a => quiet (if fdecode F a = .nan then F.nan else a % 2 ^ F.mw)))
      ∧ LaneLaw (.fneg f) f.h one (regsOf x) 8 false
          (own1 (fun a => quiet (if fdecode F a = .nan then F.nan else cut a ^^^ 2 ^ F.mw)))
      ∧ LaneLaw (.frnd f) f.h one (regsOf x) 8 false (own1 (frndE F (field f.mod.toNat 2 2)))
      ∧ LaneLaw (.fclass f) f.h one 1 8 false (own1 (fun a => quiet (2 ^ fclassBit F a)))
      ∧ LaneLaw (.fsetp f) f.h two 1 8 false
          (own2 (fun a b => quiet (ofBool (fcond (field f.mod.toNat 2 3) (fdecode F a) (fdecode F b))))))
    ∧ (∀ f : F96T,
      let F := ftFmt f.mod
      let x := ft64 f.mod.toNat
      LaneLaw (.fsel f) f.h [(useW x, f.s1), (useW x, f.s2), (useW x, f.s3)] (regsOf x) 12 false (own3 (fun a b c =>
        let y := if fcond (field f.mod.toNat 2 3) (fdecode F a) (.fin false 0 0) then b else c
        quiet (if fdecode F y = .nan then F.nan else y % 2 ^ (F.mw + 1))))))
  ∧
   (∀ f : F64,
      let F := ftFmt f.mod
      let x := ft64 f.mod.toNat
      let one : List (Use × Src) := [(useW x, f.s1)]
      LaneLaw (.frcp f) f.h one (regsOf x) 8 false (own1 (frcpE F))
      ∧ LaneLaw (.frsq f) f.h one (regsOf x) 8 false (own1 (frsqE F))
      ∧ LaneLaw (.fexp2 f) f.h one (regsOf x) 8 false (own1 (fexp2E F))
      ∧ LaneLaw (.flog2 f) f.h one (regsOf x) 8 false (own1 (flog2E F))
      ∧ LaneLaw (.ftanh f) f.h one (regsOf x) 8 false (own1 (ftanhE F)))

/-- R60 to R62, R69 to R72, R182, R192, R194, R196 to R198: what an encoding stands for, how a value is delivered in a format (`RoundsTo`), what the
exact operations give, that FDIV, FSQRT, FRCP, FRSQ and FSCL are correctly rounded, with their special operands, what FRND and FCLASS give, the float
conditions, the minimum and the maximum, and how the terms of an element of a matrix instruction are added. That a quotient of an infinity raises DZ is the model's reading (log 100); the sign of an exact zero quotient (log 124) is its choice, and so is +0 for a sum of 0 of which terms were lost (log 114). -/
def Obligations.FloatRounding : Prop :=
  let wide := [ffF64, ffF32, ffBF16, ffF16]
  let sgn := fun (F : FFmt) (neg : Bool) => if neg && F.signed then 2 ^ F.mw else 0
  let top := fun (F : FFmt) (neg : Bool) => (2 ^ F.e - 1) * 2 ^ F.m + sgn F neg
  let size := fun (m : Nat) (e : Int) => (m : ℝ) * 2 ^ e
  let finite := fun (v : FVal) => ∃ s m e, v = .fin s m e
  let order : FVal → EReal := fun v => match v with | .nan => 0 | .inf true => ⊥ | .inf false => ⊤ | .fin s m e => (((FVal.fin s m e).rat : ℝ) : EReal)
  (∀ F ∈ wide ++ [ffE4M3, ffE5M2, ffE2M1, ffE3M5], ∀ (s : Bool) (ex ma : Nat), ex < 2 ^ F.e → ma < 2 ^ F.m → F.signed = true ∨ s = false →
    let v := fdecode F (ma + 2 ^ F.m * ex + sgn F s)
    let last := ex = 2 ^ F.e - 1
    let odd := F = ffE4M3 ∨ F = ffE2M1 ∨ F = ffE3M5
    let nan := last ∧ (if F = ffE4M3 then ma = 7 else if F = ffE2M1 then False else if F = ffE3M5 then ma = 31 else ma ≠ 0)
    (nan → v = .nan) ∧ (¬nan → last → ¬odd → v = .inf s)
    ∧ (¬nan → ¬last ∨ odd → finite v ∧ v.neg = s
      ∧ v.rat = (if s then -1 else 1) * (if ex = 0 then (2 : ℚ) ^ (1 - (F.bias : Int)) * (ma / 2 ^ F.m) else (2 : ℚ) ^ ((ex : Int) - F.bias) * (1 + ma / 2 ^ F.m))))
  ∧ (∀ a b : FVal,
    let n := a = .nan ∨ b = .nan
    (fcond 0 a b = true ↔ ¬n ∧ order a = order b) ∧ (fcond 1 a b = true ↔ n ∨ order a ≠ order b) ∧ (fcond 2 a b = true ↔ ¬n ∧ order a < order b)
    ∧ (fcond 3 a b = true ↔ ¬n ∧ order a ≤ order b) ∧ (fcond 4 a b = true ↔ ¬n ∧ order b < order a)
    ∧ (fcond 5 a b = true ↔ ¬n ∧ order b ≤ order a) ∧ (fcond 6 a b = true ↔ ¬n) ∧ (fcond 7 a b = true ↔ n))
  ∧ (∀ F ∈ wide, ∀ x < 2 ^ (F.mw + 1), ∀ y < 2 ^ (F.mw + 1),
    let a := fdecode F x
    let b := fdecode F y
    let gives := fun (lo hi : Nat) => fminmax F false x y = lo ∧ fminmax F true x y = hi
    (a = .nan → b = .nan → gives F.nan F.nan) ∧ (a = .nan → b ≠ .nan → gives y y) ∧ (a ≠ .nan → b = .nan → gives x x)
    ∧ (a ≠ .nan → b ≠ .nan →
      (order a < order b ∨ order a = order b ∧ a.neg = true → gives x y) ∧ (order b < order a ∨ order a = order b ∧ b.neg = true → gives y x)
      ∧ (order a = order b → a.neg = b.neg → gives x x)))
  ∧ (∀ (s t : Bool) (m n : Nat) (e f : Int) (c : FVal), finite c →
    let a := FVal.fin s m e
    let b := FVal.fin t n f
    let gives := fun (r : FVal × Nat) (q : ℚ) => finite r.1 ∧ r.1.rat = q ∧ r.2 = 0
    gives (addV a b) (a.rat + b.rat) ∧ gives (mulV a b) (a.rat * b.rat) ∧ gives (fmaV a b c) (a.rat * b.rat + c.rat) ∧ (negV a).rat = -a.rat
    ∧ (a.rat + b.rat = 0 → ((addV a b).1.neg = true ↔ m = 0 ∧ n = 0 ∧ s = true ∧ t = true)) ∧ (mulV a b).1.neg = (s != t)
    ∧ (ltV a b = true ↔ a.rat < b.rat))
  ∧ (∀ F ∈ wide ++ [ffE4M3, ffE5M2, ffE2M1, ffE3M5], ∀ (s : Bool) (m : Nat) (e : Int),
    (m ≠ 0 → (F.signed = true ∨ s = false) → RoundsTo F s (size m e) (fround F (.fin s m e)))
    ∧ (m ≠ 0 → F.signed = false → s = true → fround F (.fin s m e) = (0xFF, flNV))
    ∧ (m = 0 → fround F (.fin s m e) = (sgn F s, 0))
    ∧ fround F .nan = (if F = ffE2M1 then (0, flNV) else (F.nan, 0))
    ∧ fround F (.inf s) = (if F.narrow = false then (top F s, 0) else if F.signed = false ∧ s = true then (0xFF, flNV) else (F.max + sgn F s, flOF)))
  ∧ (∀ F ∈ wide, ∀ x y : Nat,
    (fdecode F x = .nan → fdivE F x y = (F.nan, 0) ∧ fdivE F y x = (F.nan, 0) ∧ fsqrtE F x = (F.nan, 0) ∧ frcpE F x = (F.nan, 0)
      ∧ frsqE F x = (F.nan, 0) ∧ fsclE F x y = (F.nan, 0) ∧ (∀ k, frndE F k x = (F.nan, 0)) ∧ fclassBit F x = 8)
    ∧ (∀ s, fdecode F x = .inf s →
      (∀ t, fdecode F y = .inf t → fdivE F x y = (F.nan, flNV)) ∧ (∀ t n f, fdecode F y = .fin t n f → fdivE F x y = (top F (s != t), flDZ))
      ∧ fsqrtE F x = (if s then (F.nan, flNV) else (top F false, 0)) ∧ frcpE F x = (sgn F s, 0)
      ∧ frsqE F x = (if s then (F.nan, flNV) else (0, 0)) ∧ fsclE F x y = (top F s, 0) ∧ (∀ k, frndE F k x = (x % 2 ^ (F.mw + 1), 0)) ∧ fclassBit F x = (if s then 0 else 7))
    ∧ (∀ s m e, fdecode F x = .fin s m e →
      (∀ t, fdecode F y = .inf t → fdivE F x y = (sgn F (s != t), 0))
      ∧ (∀ t n f, fdecode F y = .fin t n f →
        (m ≠ 0 → n ≠ 0 → RoundsTo F (s != t) (size m e / size n f) (fdivE F x y))
        ∧ (m ≠ 0 → n = 0 → fdivE F x y = (top F (s != t), flDZ))
        ∧ (m = 0 → fdivE F x y = if n = 0 then (F.nan, flNV) else (sgn F (s != t), 0)))
      ∧ (m = 0 → fsqrtE F x = (sgn F s, 0) ∧ frcpE F x = (top F s, flDZ) ∧ frsqE F x = (top F s, flDZ) ∧ fsclE F x y = (sgn F s, 0))
      ∧ (m ≠ 0 → RoundsTo F s (size m e * 2 ^ signed 32 y) (fsclE F x y))
      ∧ (m ≠ 0 → s = true → fsqrtE F x = (F.nan, flNV) ∧ frsqE F x = (F.nan, flNV))
      ∧ (m ≠ 0 → s = false → RoundsTo F false (Real.sqrt (size m e)) (fsqrtE F x) ∧ RoundsTo F false (1 / Real.sqrt (size m e)) (frsqE F x))
      ∧ (m ≠ 0 → RoundsTo F s (1 / size m e) (frcpE F x))
      ∧ fclassBit F x = (if m = 0 then (if s then 3 else 4) else if size m e < 2 ^ (1 - (F.bias : Int)) then (if s then 2 else 5) else if s then 1 else 6)
      ∧ (∀ k < 4,
        let a := (fdecode F x).rat
        let r := frndE F k x
        ∃ i : Int, (fdecode F r.1).rat = i ∧ bit r.1 F.mw = s ∧ r.2 = (if (i : ℚ) = a then 0 else flNX)
          ∧ (k = 0 → 2 * |a - i| < 1 ∨ 2 * |a - i| = 1 ∧ i % 2 = 0) ∧ (k = 1 → i = if a < 0 then -⌊-a⌋ else ⌊a⌋) ∧ (k = 2 → i = ⌊a⌋) ∧ (k = 3 → i = ⌈a⌉))))
  ∧ (∀ F ∈ [ffF64, ffF32], ∀ (drop : Nat) (ts : List FVal),
    let r := sumTerms F drop ts
    (.nan ∈ ts → r = (F.nan, 0))
    ∧ (.nan ∉ ts → .inf false ∈ ts → .inf true ∈ ts → r = (F.nan, flNV))
    ∧ (∀ s, .nan ∉ ts → .inf s ∈ ts → .inf (!s) ∉ ts → r = (top F s, 0))
    ∧ ((∀ t ∈ ts, finite t ∧ t.rat = 0) → ts ≠ [] → r = (sgn F (ts.all FVal.neg), 0))
    ∧ (∀ E : Int, (∀ t ∈ ts, finite t ∧ |t.rat| < 2 ^ (E + 1)) → (∃ t ∈ ts, 2 ^ E ≤ |t.rat|) →
      let q : ℚ := 2 ^ (E - drop)
      let cut := fun (t : FVal) => if t.rat < 0 then -(⌊-t.rat / q⌋ : ℚ) * q else (⌊t.rat / q⌋ : ℚ) * q
      let sum := (ts.map cut).sum
      let exact := (ts.map FVal.rat).sum
      let lost := ∃ t ∈ ts, cut t ≠ t.rat
      ∃ x, RoundsTo F (decide (sum < 0)) |(sum : ℝ)| x ∧ (sum ≠ 0 → r.1 = x.1) ∧ (sum = 0 → r.1 = 0)
        ∧ bit r.2 2 = bit x.2 2 ∧ (bit r.2 4 = true ↔ bit x.2 4 = true ∨ lost)
        ∧ (bit r.2 3 = true ↔ bit r.2 4 = true ∧ exact ≠ 0 ∧ |exact| < 2 ^ (1 - (F.bias : Int)) * (1 - 2 ^ (-(F.m : Int) - 2)))
        ∧ bit r.2 0 = false ∧ bit r.2 1 = false))

/-- R196: FEXP2, FLOG2 and FTANH: the special operands of its table; an exact power or logarithm of two; and, where the exact value is no such number,
the rounding of a number so near the exact value that only an exact value as near to half way between two codes could round otherwise (that none
is so near is not shown). -/
def Obligations.FunctionAccuracy : Prop :=
  ∀ F ∈ [ffF64, ffF32, ffBF16, ffF16], ∀ x : Nat,
    let top := fun (neg : Bool) => (2 ^ F.e - 1) * 2 ^ F.m + if neg then 2 ^ F.mw else 0
    let a : ℝ := ((fdecode F x).rat : ℝ)
    (fdecode F x = .nan → fexp2E F x = (F.nan, 0) ∧ flog2E F x = (F.nan, 0) ∧ ftanhE F x = (F.nan, 0))
    ∧ (∀ s, fdecode F x = .inf s → fexp2E F x = (if s then (0, 0) else (top false, 0)) ∧ flog2E F x = (if s then (F.nan, flNV) else (top false, 0))
        ∧ RoundsTo F s 1 (ftanhE F x))
    ∧ (∀ s m e, fdecode F x = .fin s m e →
      (∀ z : Int, a = z → RoundsTo F false (2 ^ z) (fexp2E F x))
      ∧ ((∀ z : Int, a ≠ z) → ∃ y : ℝ, |y - 2 ^ a| ≤ 2 ^ a / 2 ^ 100 ∧ RoundsTo F false y (fexp2E F x))
      ∧ (m = 0 → flog2E F x = (top true, flDZ) ∧ ftanhE F x = (if s then 2 ^ F.mw else 0, 0))
      ∧ (m ≠ 0 → s = true → flog2E F x = (F.nan, flNV))
      ∧ (∀ z : Int, a = 2 ^ z → RoundsTo F (decide (z < 0)) |(z : ℝ)| (flog2E F x))
      ∧ (0 < a → (∀ z : Int, a ≠ 2 ^ z) → ∃ y : ℝ, |y - Real.logb 2 a| ≤ 2 ^ (-(2 * F.m + 39 : Int)) ∧ RoundsTo F (decide (y < 0)) |y| (flog2E F x))
      ∧ (m ≠ 0 → ∃ y : ℝ, |y - Real.tanh (abs a)| ≤ Real.tanh (abs a) / 2 ^ 60 ∧ RoundsTo F s y (ftanhE F x)
          ∧ bit (ftanhE F x).2 4 = true))

/-- R200: arithmetic on packed pairs of 16-bit elements, element by element, flags ORed. R201 to R205: conversion, packing and unpacking; what
`convert` (R70, R202) and `upkE` (R204) give, with `fround` as FloatRounding says. -/
def Obligations.PackedAndConversionResults : Prop :=
   ((∀ f : F64,
      let F := if bit f.mod.toNat 0 then ffF16 else ffBF16
      let two : List (Use × Src) := [(.w32, f.s1), (.w32, f.s2)]
      let lo := fun (v : Nat) => v % 2 ^ 16
      let hi := fun (v : Nat) => v / 2 ^ 16 % 2 ^ 16
      let pair := fun (g : Nat → Nat → Nat × Nat) (a b : Nat) =>
        ((g (lo a) (lo b)).1 + 2 ^ 16 * (g (hi a) (hi b)).1, orF (g (lo a) (lo b)).2 (g (hi a) (hi b)).2)
      let once := fun (r : FVal × Nat) => ((fround F r.1).1, orF (fround F r.1).2 r.2)
      let c := fun (a b : Nat) => fcond (field f.mod.toNat 1 3) (fdecode F a) (fdecode F b)
      LaneLaw (.hadd2 f) f.h two 1 8 false (own2 (pair (fun a b => once (addV (fdecode F a) (fdecode F b)))))
      ∧ LaneLaw (.hsub2 f) f.h two 1 8 false (own2 (pair (fun a b => once (addV (fdecode F a) (negV (fdecode F b))))))
      ∧ LaneLaw (.hmul2 f) f.h two 1 8 false (own2 (pair (fun a b => once (mulV (fdecode F a) (fdecode F b)))))
      ∧ LaneLaw (.hmin2 f) f.h two 1 8 false (own2 (pair (fun a b => quiet (fminmax F false a b))))
      ∧ LaneLaw (.hmax2 f) f.h two 1 8 false (own2 (pair (fun a b => quiet (fminmax F true a b))))
      ∧ LaneLaw (.hsetp2 f) f.h two 1 8 false (own2 (fun a b => quiet (ofBool
          (if bit f.mod.toNat 4 then c (lo a) (lo b) || c (hi a) (hi b) else c (lo a) (lo b) && c (hi a) (hi b))))))
    ∧ (∀ f : F96T,
      let F := if bit f.mod.toNat 0 then ffF16 else ffBF16
      let lo := fun (v : Nat) => v % 2 ^ 16
      let hi := fun (v : Nat) => v / 2 ^ 16 % 2 ^ 16
      let g := fun (a b c : Nat) =>
        let r := fmaV (fdecode F a) (fdecode F b) (fdecode F c)
        ((fround F r.1).1, orF (fround F r.1).2 r.2)
      LaneLaw (.hfma2 f) f.h [(.w32, f.s1), (.w32, f.s2), (.w32, f.s3)] 1 12 false (own3 (fun a b c =>
        ((g (lo a) (lo b) (lo c)).1 + 2 ^ 16 * (g (hi a) (hi b) (hi c)).1,
          orF (g (lo a) (lo b) (lo c)).2 (g (hi a) (hi b) (hi c)).2)))))
  ∧
   ((∀ f : F64,
      let sc := field f.s2.code.toNat 0 4
      let d := field f.mod.toNat 0 4
      LaneLaw (.cvt f) f.h [(useW (fmt64 sc), f.s1)] (regsOf (fmt64 d)) 8 false
          (own1 (convert sc d (field f.mod.toNat 4 2)))
      ∧ LaneLaw (.pack f) f.h [(.w32, f.s1), (.w32, f.s2)] 1 8 false (own2 (fun a b =>
          quiet (if f.mod = 0 then a % 2 ^ 16 + 2 ^ 16 * (b % 2 ^ 16)
            else a % 2 ^ 8 + 2 ^ 8 * (a / 2 ^ 16 % 2 ^ 8) + 2 ^ 16 * (b % 2 ^ 8) + 2 ^ 24 * (b / 2 ^ 16 % 2 ^ 8))))
      ∧ LaneLaw (.upk f) f.h [(.w32, f.s1), (.w32, f.s2)] 1 8 false (own2 (fun a j => quiet (upkE d a j))))
    ∧ (∀ f : F96T,
      let o := field f.mod.toNat 0 4
      LaneLaw (.cvpk f) f.h ([(.w32, f.s1), (.w32, f.s2)] ++ (if o == 3 || o == 4 then [] else [(.w32, f.s3)])) 1 12 false
        (fun vals l =>
          let a := convert 2 o 0 (val (vals l) 0)
          let b := convert 2 o 0 (val (vals l) 1)
          let h := val (vals l) 2
          let x := f.xm.toNat
          (if o == 3 || o == 4 then a.1 + 2 ^ 16 * b.1
           else if o == 7 then setField (setField h (8 * (x % 4)) 4 a.1) (8 * (x % 4) + 4) 4 b.1
           else setField (setField h (16 * (x % 2)) 8 a.1) (16 * (x % 2) + 8) 8 b.1, orF a.2 b.2))))
  ∧
   (∀ c < 16, ∀ d < 16, ∀ mode < 4, ∀ x : Nat,
      let r := convert c d mode x
      let w := (intOf d).1
      let least : Int := if (intOf d).2 then -2 ^ (w - 1) else 0
      let most : Int := if (intOf d).2 then 2 ^ (w - 1) - 1 else 2 ^ w - 1
      let clamped := fun (i : Int) (past : Nat) (exact : Nat) =>
        if most < i then (wrap w most, past) else if i < least then (wrap w least, past) else (wrap w i, exact)
      (c = d → r = (x % 2 ^ fmtBits c, 0))
      ∧ (c ≠ d → ∀ S, ffOf c = some S →
        (∀ D, ffOf d = some D → r = fround D (fdecode S x))
        ∧ (ffOf d = none →
          let a := (fdecode S x).rat
          (fdecode S x = .nan → r = (0, flNV))
          ∧ (∀ s, fdecode S x = .inf s → r = (wrap w (if s then least else most), flNV))
          ∧ (∀ s m e, fdecode S x = .fin s m e → ∃ i : Int, r = clamped i flNV (if (i : ℚ) = a then 0 else flNX)
            ∧ (mode = 0 → 2 * |a - i| < 1 ∨ 2 * |a - i| = 1 ∧ i % 2 = 0) ∧ (mode = 1 → i = if a < 0 then -⌊-a⌋ else ⌊a⌋)
            ∧ (mode = 2 → i = ⌊a⌋) ∧ (mode = 3 → i = ⌈a⌉))))
      ∧ (c ≠ d → ffOf c = none →
        let i : Int := if (intOf c).2 then signed (intOf c).1 x else (x % 2 ^ (intOf c).1 : Nat)
        (∀ D, ffOf d = some D →
          (i = 0 → r = (0, 0)) ∧ (i < 0 → D.signed = false → r = (0xFF, flNV))
          ∧ (i ≠ 0 → D.signed = true ∨ 0 < i → RoundsTo D (decide (i < 0)) |(i : ℝ)| r))
        ∧ (ffOf d = none → r = clamped i flSAT 0)))
  ∧
   (∀ p ∈ [(0, 8), (3, 16), (4, 16), (5, 8), (6, 8), (7, 4), (8, 8), (9, 8), (10, 16), (11, 16)], ∀ a k : Nat,
      let w := p.2
      let y := a / 2 ^ (w * (k % (32 / w))) % 2 ^ w
      let r := upkE p.1 a k
      (∀ F, ffOf p.1 = some F →
        (fdecode F y = .nan → r = 0x7FC00000)
        ∧ (∀ s, fdecode F y = .inf s → r = 0x7F800000 + if s then 2 ^ 31 else 0)
        ∧ (∀ (s : Bool) (m : Nat) (e : Int), fdecode F y = .fin s m e → (fdecode ffF32 r).rat = (fdecode F y).rat ∧ bit r 31 = s ∧ r < 2 ^ 32 ∧ ∃ m' e', fdecode ffF32 r = .fin s m' e'))
      ∧ (ffOf p.1 = none → r = wrap 32 (if p.1 % 2 = 0 then signed w y else y)))

/-- R160, R161, R207: ELECT without rotation, VOTE and REDUX, for a whole crew, with the butterfly of R75 and its operations. R206, R208: PERM gives
each lane the value that the lane it names serves, with XLANE where that lane serves nothing; QUANT encodes a block of 24 lanes under R66 (the scale is
the least that covers every value) and gives lane l word l mod 4 of it. The model's choices: under a guard that is not
true in every lane the whole crew contributes to a crew register (log 83), and the lanes that PERM and QUANT serve, with their XLANE (log 85). -/
def Obligations.CrossLaneResults : Prop :=
   (∀ f : F64,
      let q := fun (vals : Nat → List Nat) => (List.range 32).filter (fun l => val (vals l) 0 != 0)
      let t := field f.mod.toNat 0 3
      let o := field f.mod.toNat 3 3
      let x := t == 1 || decide (t ≥ 6)
      (field f.mod.toNat 0 2 < 2 →
        LaneLaw (.elect f) f.h [(.w32, f.s1)] 1 8 true (fun vals l =>
          quiet (if (if field f.mod.toNat 0 2 = 0 then (q vals).head? else (q vals).getLast?) = some l then 1 else 0)))
      ∧ LaneLaw (.vote f) f.h [(.sel, f.s1)] 1 8 true (fun vals _ => quiet (match t with
          | 0 => if (q vals).length = 32 then 1 else 0
          | 1 => if (q vals).length = 0 then 0 else 1
          | 2 => if (q vals).length = 0 ∨ (q vals).length = 32 then 1 else 0
          | 3 => ((q vals).map (fun l => 2 ^ l)).sum
          | 4 => (q vals).length
          | _ => (q vals).head?.getD 32))
      ∧ LaneLaw (.redux f) f.h [(useW x, f.s1)] (regsOf x) 8 true (fun vals l =>
          ((butterfly (reduxStep t o) ((List.range 32).map (fun j => quiet (val (vals j) 0))))[l]?).getD (0, 0)))
  ∧
   ((∀ (op : Nat → Nat → Nat × Nat) (x : List (Nat × Nat)), x.length = 32 → ∃ v : Nat → Nat → Nat × Nat,
      (∀ l < 32, x[l]? = some (v 0 l) ∧ (butterfly op x)[l]? = some (v 5 l))
      ∧ ∀ k < 5, ∀ l < 32,
        let p := l ^^^ 2 ^ k
        let r := op (v k (min l p)).1 (v k (max l p)).1
        v (k + 1) l = (r.1, orF r.2 (v k l).2))
    ∧ (∀ u v : Nat,
      (∀ p ∈ [(0, ffF32), (1, ffF64), (2, ffBF16), (3, ffF16)],
        let F := p.2
        let sum := addV (fdecode F u) (fdecode F v)
        let cut := fun (x : Nat) => x % 2 ^ (F.mw + 1)
        reduxStep p.1 0 u v = ((fround F sum.1).1, orF (fround F sum.1).2 sum.2)
        ∧ reduxStep p.1 1 u v = (fminmax F false (cut u) (cut v), 0) ∧ reduxStep p.1 2 u v = (fminmax F true (cut u) (cut v), 0))
      ∧ (∀ t ∈ [4, 5, 6, 7],
        let w := if t < 6 then 32 else 64
        let rd := fun (x : Nat) => if t % 2 = 0 then signed w x else ((x % 2 ^ w : Nat) : Int)
        reduxStep t 0 u v = (wrap w (rd u + rd v), 0) ∧ reduxStep t 1 u v = (wrap w (min (rd u) (rd v)), 0)
        ∧ reduxStep t 2 u v = (wrap w (max (rd u) (rd v)), 0)
        ∧ reduxStep t 3 u v = (u &&& v, 0) ∧ reduxStep t 4 u v = (u ||| v, 0) ∧ reduxStep t 5 u v = (u ^^^ v, 0)))
    ∧ (∀ F ∈ [ffF32, ffBF16, ffF16], ∀ xs : List Nat, xs.length = 24 →
      let vs := xs.map (fdecode F)
      let b := quantBlock F xs
      let scale := val b.1 3
      let sign := fun (neg : Bool) => if neg then 8 else 0
      let zero := fun (v : FVal) => ∃ s e, v = .fin s 0 e
      let covers := fun (k : Nat) => ∀ v ∈ vs, (∀ s, v ≠ .inf s) ∧ |v.rat| ≤ 6 * (fdecode ffE3M5 k).rat
      let huge := ¬∃ k < 255, covers k
      (.nan ∈ vs → b = ([0, 0, 0, 0xFF], flNV))
      ∧ (.nan ∉ vs → ∃ r : Nat → Nat × Nat,
        b.1.length = 4 ∧ (∀ k < 4, val b.1 k < 2 ^ 32)
        ∧ (∀ j < 24, field (val b.1 (j / 8)) (4 * (j % 8)) 4 = (r j).1 ∧ (r j).1 < 16)
        ∧ ((∀ v ∈ vs, zero v) → scale = 0 ∧ b.2 = 0 ∧ ∀ j v, vs[j]? = some v → (r j).1 = sign v.neg)
        ∧ ((∃ v ∈ vs, ¬zero v) →
          (huge → scale = 0xFE) ∧ (¬huge → scale < 255 ∧ covers scale ∧ ∀ k < scale, ¬covers k)
          ∧ (∀ n, bit b.2 n = true ↔ (∃ j < 24, bit (r j).2 n = true) ∨ n = 2 ∧ huge)
          ∧ ∀ j v, vs[j]? = some v →
            (∀ s, v = .inf s → r j = (7 + sign s, flOF))
            ∧ ∀ (s : Bool) (m : Nat) (e : Int), v = .fin s m e → (m = 0 → r j = (sign s, 0))
              ∧ (m ≠ 0 → RoundsTo ffE2M1 s ((m : ℝ) * 2 ^ e / ((fdecode ffE3M5 scale).rat : ℝ)) (r j))))))
  ∧
   ((∀ (f : F64) (s : State) (iss : Issue) (c : Crew),
      let x := bit f.mod.toNat 0
      let d := f.h.dst.toNat
      let srcs : List (Use × Src) := [(.plain x, f.s1), (.w32, f.s2)]
      let em := guardMask c iss.mask f.h
      let krd := permK s c iss.mask (.plain x) f
      let srv := permS s c iss.mask em (.plain x) f
      (∀ l, (c.thread l).relog = none → krd l = readLane s c iss.mask [(.w32, f.s2)] l
        ∧ srv l = permServe s c iss.mask em (.plain x) f.s1 (val (krd l).vals 0 % 32))
      ∧ (∀ l a b, (c.thread l).relog = some [a, b] → (c.thread l).gaps = [] → (krd l).vals = [b.toNat] ∧ (srv l).vals = [a.toNat])
      ∧ (Issues s iss c → (isCreg d = true → iss.mask = allLanes ∧ c.live = allLanes) →
        oddAt c em srcs d (regsOf x) x = false → boundLanes c em srcs d (regsOf x) = 0 → permCheck s c iss.mask em 0 iss.pc f krd srv = none →
          ∃ t, exec (.perm f) s = .next t
            ∧ LaneDone s t iss c em f.h (takenSrcs false d em srcs) (regsOf x) 8 (fun y => decide (y = f.s1)) (fun l => val (srv l).vals 0)
                (fun l => orF (readFlags (krd l)) (orF (if (srv l).zread then flZREAD else 0) (if (srv l).xlane then flXLANE else 0)))))
    ∧ (∀ (f : F96T) (s : State) (iss : Issue) (c : Crew),
      let b := field f.xm.toNat 0 4
      let d := f.h.dst.toNat
      let em := guardMask c iss.mask f.h
      let srcs : List (Use × Src) := [(.w32, f.s1)]
      let one := fun l => readOne s c iss.mask .w32 f.s1 l
      let here := fun l => iss.mask.getLsbD l
      let lanes := (List.range 24).map (fun j => b + j)
      let r := quantBlock (ftFmt f.mod) (lanes.map (fun l => if here l then val (one l).vals 0 else 0))
      let fl := orF r.2 (orF (if lanes.any (fun l => !here l || (one l).xlane) then flXLANE else 0)
        (if lanes.any (fun l => here l && (one l).zread) then flZREAD else 0))
      Issues s iss c → (isCreg d = true → iss.mask = allLanes ∧ c.live = allLanes) →
      operandCheck s c iss.mask em (if em == 0 then 0 else iss.mask &&& maskOf lanes) iss.pc srcs d 1 false = none →
      boundLanes c em srcs d 1 = 0 →
        ∃ t, exec (.quant f) s = .next t
          ∧ LaneDone s t iss c em f.h (takenSrcs false d em srcs) 1 12 (fun _ => true) (fun l => val r.1 (l % 4)) (fun _ => fl)))

/-! ### Control transfers -/

/-- R58, R126, R156 to R158: BRA, CALL, JMP, CALLX, RET, MEET and NOP in every lane of the bundle, CALL and CALLX below depth 4 and RET from depth 1 to
4, where the return addresses are on chip (MEET keeps what it overwrote for the meetings of its own cycle); a pad word moves the bundle on by 4 bytes. -/
def Obligations.ControlTransferTargets : Prop :=
  (∀ f : F96I,
    let target := fun (th : Thread) => th.pc + 4 * f.imm.signExtend 64
    CtlLaw (.bra f) f.h [] 12 (fun th _ => some (target th, id))
    ∧ CtlLaw (.call f) f.h [] 12 (fun th _ =>
        if th.depth < 4 then some (target th, fun t => { t with stack := (th.pc + 12) :: th.stack, depth := th.depth + 1 }) else none)
    ∧ CtlLaw (.meet f) f.h [] 12 (fun th _ => some (th.pc + 12, fun t =>
        let t := { t with mrOld := some (t.mrOld.getD (t.mrv, t.mrm)) }
        if bit f.mod.toNat 0 then { t with mrv := false } else { t with mrv := true, mrm := target th })))
  ∧ (∀ f : F64,
    let code := fun (v : Nat) => v % 4 = 0 ∧ v / 2 ^ 57 = 0 ∧ v / 2 ^ 40 % 2 ^ 17 ≠ 0x1FFFF
    CtlLaw (.jmp f) f.h [(.w64, f.s1)] 8 (fun _ v => if code (val v 0) then some (BitVec.ofNat 64 (val v 0), id) else none)
    ∧ CtlLaw (.callx f) f.h [(.w64, f.s1)] 8 (fun th v =>
        if code (val v 0) ∧ th.depth < 4
        then some (BitVec.ofNat 64 (val v 0), fun t => { t with stack := (th.pc + 8) :: th.stack, depth := th.depth + 1 }) else none)
    ∧ CtlLaw (.ret f) f.h [] 8 (fun th _ =>
        match th.stack with
        | ra :: rest => if 1 ≤ th.depth ∧ th.depth ≤ 4 ∧ ra.toNat % 4 = 0
            then some (ra, fun t => { t with stack := rest, depth := th.depth - 1 }) else none
        | [] => none)
    ∧ CtlLaw (.nop f) f.h [] 8 (fun th _ => some (th.pc + 8, id)))
  ∧ (∀ (s : State) (iss : Issue) (c : Crew), Issues s iss c →
    ∃ t c', exec .padWord s = .next t
      ∧ t = { s with crews := s.crews.set iss.crew c' } ∧ c' = { c with threads := c'.threads, bundles := c'.bundles }
      ∧ ∀ (l : Nat) (th : Thread), c.threads[l]? = some th →
          c'.threads[l]? = some (if iss.mask.getLsbD l then { th with pc := th.pc + 4, relog := none, st := .ready, why := .none } else th))

/-- R58, R157: CALL and CALLX at depth 4 or more write the oldest return address on chip to the private window, and RET from depth 5 or more reads it
back: the lane stands STALLED at its instruction with that access under way, its PC, depth and stack as they were. R58: the access of a CALL or
CALLX at depth 4 or more, once performed, leaves the oldest on-chip address in the private window and takes the lane to the target with CSOVF set;
that of a RET from depth 5 or more takes the lane to the newest return address and brings the word read back on chip. -/
def Obligations.DeepCalls : Prop :=
   (∀ (s : State) (iss : Issue) (c : Crew), Issues s iss c →
      let slots := fun (n : Nat) => s.slotsHeld c.team c.id + n ≤ 11
      let place := fun (l : Nat) (w : Want) (off : Nat) => s.piece c l w .priv (off : Int) 8 off (s.footOf c l .priv (off : Int) 8)
      (∀ (f : F96I) (loc : Nat → Loc × Option Leaf),
        let ls := lanesOf (guardMask c iss.mask f.h)
        ls ≠ [] → slots 2 →
        (∀ l ∈ ls, 4 ≤ (c.thread l).depth ∧ (c.thread l).depth < 516 ∧ place l .write (8 * ((c.thread l).depth - 4)) = .ok (loc l)) →
        ∃ t c', exec (.call f) s = .next t
          ∧ CallAccesses s t c c' iss f.h [] 12 (fun l =>
              (.push ((c.thread l).pc + 4 * f.imm.signExtend 64) ((c.thread l).pc + 12), loc l, (((c.thread l).stack[3]?).getD 0).toNat)))
      ∧ (∀ (f : F64) (loc : Nat → Loc × Option Leaf),
        let ls := lanesOf (guardMask c iss.mask f.h)
        let srcs : List (Use × Src) := [(.w64, f.s1)]
        let v := fun l => val (readLane s c iss.mask srcs l).vals 0
        ls ≠ [] → slots 2 → f.s1.last = 0 →
        operandCheck s c iss.mask (guardMask c iss.mask f.h) (guardMask c iss.mask f.h) iss.pc srcs 255 1 false = none →
        boundLanes c (guardMask c iss.mask f.h) srcs 255 1 = 0 →
        (∀ l ∈ ls, targetFault (v l) = none ∧ 4 ≤ (c.thread l).depth ∧ (c.thread l).depth < 516
          ∧ place l .write (8 * ((c.thread l).depth - 4)) = .ok (loc l)) →
        ∃ t c', exec (.callx f) s = .next t
          ∧ CallAccesses s t c c' iss f.h srcs 8 (fun l =>
              (.push (BitVec.ofNat 64 (v l)) ((c.thread l).pc + 8), loc l, (((c.thread l).stack[3]?).getD 0).toNat)))
      ∧ (∀ (f : F64) (loc : Nat → Loc × Option Leaf),
        let ls := lanesOf (guardMask c iss.mask f.h)
        ls ≠ [] → slots 1 →
        (∀ l ∈ ls, 5 ≤ (c.thread l).depth ∧ ((c.thread l).stack.head?.getD 0).toNat % 4 = 0
          ∧ place l .read (8 * ((c.thread l).depth - 5)) = .ok (loc l)) →
        ∃ t c', exec (.ret f) s = .next t
          ∧ CallAccesses s t c c' iss f.h [] 8 (fun l => (.pop, loc l, 0))))
  ∧
   (∀ (s : State) (id k : Nat) (a : Acc) (u : AUnit) (c : Crew) (th : Thread), Performs s id 0 a u → a.units = [u] → a.phys = false → a.rel = false →
      s.accs.filter (fun b => b.group == a.group) = [a] → s.crewAt a.serial a.crew = some k → s.crews[k]? = some c →
      c.threads[a.lane]? = some th → th.st = .stalled → a.lane < 32 → (∀ x ∈ c.threads, x.st = .ready → x.why = .none) →
      (∀ w ∈ s.store.wsecs, w.die ≠ dieOf a.core) → s.store.mem.wf = true →
      let ran := fun (t : State) (f : Thread) => ∃ b, t.crews = s.crews.set k { c with threads := c.threads.set a.lane f, bundles := b }
      (∀ target ra pa, a.kind = .push target ra → u.loc = .phys pa → u.size = 8 → NoW s u.loc 8 →
        let narrow := s.inW { core := a.core, ctx := a.ctx, scope := a.scope } pa
        ∃ t, exec (if narrow then .wSectorRegistration id 0 else .homeAcknowledgement id 0) s = .next t
          ∧ ran t { th with stack := (ra :: th.stack).take 4, depth := th.depth + 1, pc := target, st := .ready, why := .none, woke := true
                            flags := th.flags ||| BitVec.ofNat 32 flCSOVF, relog := none }
          ∧ (pa % 256 ≤ 248 → ∀ j, t.byteAt (dieOf a.core) j =
              if pa ≤ j ∧ j < pa + 8 then BitVec.ofNat 8 (u.data / 2 ^ (8 * (j - pa))) else s.byteAt (dieOf a.core) j))
      ∧ (a.kind = .pop →
        ∃ t, exec (.loadComplete id 0) s = .next t
          ∧ ran t { th with stack := th.stack.drop 1 ++ [BitVec.ofNat 64 (ofBytes (s.readLoc (dieOf a.core) u.loc u.size))], depth := th.depth - 1
                            pc := th.stack.head?.getD 0, st := .ready, why := .none, woke := true, relog := none }))

/-! ### Operands, stops and faults -/

/-- R35, R36, R40, R41, R45, R48, R55, R56, R152, R305: what a source delivers to a lane. The pattern names the lane that serves it; one that is not
in the bundle gives 0 with XLANE. A thread register gives its words, 0 with ZREAD for those unmapped; an indexed code names the register that the
index gives; crew registers, constants and special values give theirs; a selector gives its predicate or its opposite. Several sources give their
values in order, and a lane that executes again takes those that it logged, and reads again those that had left their windows (log 121). That `poolfree` reads 0 rather than less is log 98, that numbers of cores
and clusters leave out the lost ones log 36. R36, R40, R41, R46: a lane instruction whose sources are unpermuted codes, without a last use, that are
not indexed, and whose registers hold values (crew registers too; for the flags: no earlier access may still raise one), and whose destination is no
indexed register and is mapped already, finds no check that stops it. -/
def Obligations.OperandReads : Prop :=
  (∀ (s : State) (c : Crew) (mask : Mask) (x : Src) (two : Bool) (l : Nat), (c.thread l).relog = none → l < 32 → x.pat.toNat ≤ 4 →
    (x.pat.toNat = 3 ∨ x.pat.toNat = 4 → x.parm.toNat ≤ 4) →
    let r := readLane s c mask [(if two then .w64 else .w32, x)] l
    let k := x.parm.toNat
    let n := x.code.toNat
    let sl := if x.pat = 1 then (l + k) % 32 else if x.pat = 2 then k else if x.pat = 3 then l ^^^ 2 ^ k else if x.pat = 4 then l ^^^ (2 ^ (k + 1) - 1) else l
    let th := c.thread sl
    let i := ((th.idx[n - 192]?).getD 0).toNat
    let regs := fun (a : Nat) =>
      let word := fun (j : Nat) => match th.reg? (a + j) with | some q => q.v.toNat | none => 0
      r.vals = [word 0 + if two then 2 ^ 32 * word 1 else 0] ∧ r.xlane = false ∧ (r.zread = true ↔ th.reg? a = none ∨ two = true ∧ th.reg? (a + 1) = none)
    let gives := fun (v : Nat) => r.vals = [v % (if two then 2 ^ 64 else 2 ^ 32)] ∧ r.zread = false ∧ r.xlane = false
    let creg := fun (j : Nat) => ((c.creg[j]?).getD 0).toNat
    let mapped := fun (ls : List Reg) => (ls.filter (fun q => q.st == .mapped)).length
    (mask.getLsbD sl = false → r.vals = [0] ∧ r.zread = false ∧ r.xlane = true)
    ∧ (mask.getLsbD sl = true →
      (n < 128 → regs n) ∧ (192 ≤ n → n < 200 → regs (i % 2 ^ 7 + i / 2 ^ 16))
      ∧ (128 ≤ n → n < 192 → gives (creg (n - 128) + if two then 2 ^ 32 * creg (n - 127) else 0)) ∧ (224 ≤ n → gives (n - 224))
      ∧ (n = 200 → gives sl) ∧ (n = 201 → gives (32 * c.id + sl)) ∧ (n = 202 → gives c.id) ∧ (n = 203 → gives (s.teamOf c).teamid)
      ∧ (n = 204 → gives s.cycle) ∧ (n = 205 → gives (s.cycle / 10)) ∧ (n = 206 → s.pkg.leftOut = [] → gives c.core)
      ∧ (n = 207 → s.pkg.leftOut = [] → gives (c.core / 16)) ∧ (n = 208 → gives (c.core / 64))
      ∧ (∀ d, s.pkg.dies.find? (fun d => d.log == some (c.core / 64)) = some d → (n = 209 → gives (d.phys / 2)) ∧ (n = 210 → gives (d.phys / 4)))
      ∧ (n = 211 → gives th.flags.toNat) ∧ (n = 212 → gives mask.toNat)
      ∧ (n = 213 → gives (((List.range 32).map (fun j => if (c.thread j).st = .exited then 0 else 2 ^ j)).sum))
      ∧ (n = 214 → gives (mapped th.regs + (c.frames.map (fun f => match f.lanes[sl]? with | some q => mapped q.regs | none => 0)).sum))
      ∧ (n = 215 → gives (4096 - ((s.crews.filter (fun d => d.core == c.core)).map (fun d => max (d.entries sl) (s.teamOf d).regmin)).sum))
      ∧ (n = 216 → gives (if ∃ d ∈ s.pkg.dies, d.log = some (c.core / 64) ∧ d.scald = true then 1 else 0)) ∧ (n = 217 → gives th.depth)))
  ∧ (∀ (s : State) (c : Crew) (mask : Mask) (a : Use × Src) (rest : List (Use × Src)) (l : Nat),
    let r := fun (xs : List (Use × Src)) => readLane s c mask xs l
    (∀ vs, (c.thread l).relog = some vs → (c.thread l).gaps = [] →
      (r rest).vals = vs.map (·.toNat) ∧ (r rest).zread = false ∧ (r rest).xlane = false)
    ∧ (∀ vs, (c.thread l).relog = some vs →
      let gaps := (c.thread l).gaps
      (gaps.contains a.2 = true → rest.all (fun p => !gaps.contains p.2) = true →
        let now := readSrc s c mask l a.1 a.2
        (r (a :: rest)).vals = now.vals ++ vs.map (·.toNat) ∧ (r (a :: rest)).zread = now.zread ∧ (r (a :: rest)).xlane = now.xlane)
      ∧ (∀ b v, gaps.contains a.2 = false → rest = [b] → gaps.contains b.2 = true → a.1 = .w32 ∨ a.1 = .w64 ∨ a.1 = .sel → vs = [v] →
        let next := readSrc s c mask l b.1 b.2
        (r (a :: rest)).vals = v.toNat :: next.vals ∧ (r (a :: rest)).zread = next.zread ∧ (r (a :: rest)).xlane = next.xlane))
    ∧ ((c.thread l).relog = none →
      (r (a :: rest)).vals = (r [a]).vals ++ (r rest).vals ∧ (r (a :: rest)).zread = ((r [a]).zread || (r rest).zread)
      ∧ (r (a :: rest)).xlane = ((r [a]).xlane || (r rest).xlane)
      ∧ (a.1 = .sel → a.2.code.toNat < 16 →
        let p := a.2.code.toNat % 8 = 7 ∨ (c.thread l).preds.getLsbD (a.2.code.toNat % 8) = true
        (r [a]).vals = [if p ↔ a.2.code.toNat < 8 then 1 else 0])))
  ∧ (∀ (s : State) (c : Crew) (mask em : Mask) (pc : DWord) (srcs : List (Use × Src)) (d k : Nat) (two : Bool),
    let mapped := fun (l n : Nat) => ((c.thread l).reg? n).any (fun r => r.st == .mapped && !r.pend && !r.bad)
    (∀ l ∈ lanesOf em, mask.getLsbD l = true ∧ (c.thread l).relog = none) →
    (∀ p ∈ srcs, (p.1 = .w32 ∨ p.1 = .w64 ∨ p.1 = .sel) ∧ p.2.pat = 0 ∧ p.2.last = 0
      ∧ (p.2.code.toNat < 192 ∨ 200 ≤ p.2.code.toNat)
      ∧ (p.2.code.toNat = 211 → ∀ l ∈ lanesOf em, s.flagsPend c l = false)
      ∧ (128 ≤ p.2.code.toNat → p.2.code.toNat < 192 → ∀ j < p.1.regs, ¬ (p.2.code.toNat - 128 + j) ∈ c.cbad)
      ∧ (p.1 ≠ .sel → p.2.code.toNat < 128 → ∀ l ∈ lanesOf em, ∀ j < p.1.regs, mapped l (p.2.code.toNat + j) = true)) →
    (d < 192 ∨ 200 ≤ d) → (d < 128 → ∀ l ∈ lanesOf em, ∀ j < k, mapped l (d + j) = true) →
    operandCheck s c mask em em pc srcs d k two = none ∧ boundLanes c em srcs d k = 0)

/-- What stops AND, OR, XOR, NOT, MOV, ADDA and ANDI with a destination that is no crew register: an odd indexed pair (ILLEGAL 6), a register that an issued instruction has still to write (the bundle stands
STALLED for a dependence), and, in one record of the lowest lane's cause (R331), a poisoned register (POISON 3), an unmapped source under strict
reads (ZREAD_STRICT) and a callee's budget (REG_BUDGET), with the lanes outside a window (INDEX_BOUND), which read what lies within theirs (R305). Without
any of these, the lanes outside a window take INDEX_BOUND and stay, with the flags of what they read, its values logged for their execution again and its last
uses made, and the others complete. That a lane outside a window logs only what lies within is log 121. -/
def Obligations.LaneInstructionStops : Prop :=
  let stops := fun (i : Instr) (h : Hdr) (srcs : List (Use × Src)) (k len : Nat) =>
    ∀ (s : State) (iss : Issue) (c : Crew), Issues s iss c → isCreg h.dst.toNat = false →
      let em := guardMask c iss.mask h
      let d := h.dst.toNat
      let out := boundLanes c em srcs d k
      let inWin := em &&& ~~~out
      let mine := fun (l : Nat) => if out.getLsbD l then srcs.filter (fun p => !((c.thread l).reads p.2 && srcs.any (fun q => q.2 == p.2 && srcOut (c.thread l) q.1 q.2))) else srcs
      let rd := fun (l : Nat) => readLane s c iss.mask (mine l) l
      let read := (lanesOf em).flatMap (fun l => (rd l).regs)
      let empty := lanesIf em (fun l => (rd l).zread)
      let bad := lanesIf em (fun l => (rd l).regs.any (regBad c))
      let zr := if (s.teamOf c).strict then empty else 0
      let past := overBudget c inWin (fun l => releasedRegs (c.thread l) srcs) (fun l => dstRegs (c.thread l) d k)
      let every := out ||| (bad ||| zr ||| past)
      let odd := (lanesOf em).any (fun l => srcs.any (fun p => (c.thread l).reads p.2 && srcOdd (c.thread l) p.1 p.2)
        || decide (192 ≤ d) && decide (d < 200) && k == 2 && !idxOut (c.thread l) d k && namedReg (c.thread l) d % 2 == 1)
      (odd = true → exec i s = .next (s.takeFault iss.crew { cause := .illegal, sub := 6, lmask := iss.mask, pc := iss.pc }))
      ∧ (odd = false → (∃ p ∈ read, regBlocked c p = true) →
          ∃ t, exec i s = .next t ∧ CrewGoes s t iss.crew c (fun l th => if iss.mask.getLsbD l then { th with st := .stalled, why := .dep } else th))
      ∧ (odd = false → (∀ p ∈ read, regBlocked c p = false) → (∀ l ∈ lanesOf em, s.flagsWait c iss.mask (mine l) l = false) →
          bad ||| zr ||| past ≠ 0 →
          ∃ low, (lanesOf every).head? = some low
            ∧ exec i s = .next (s.takeFault iss.crew
                { cause := if out.getLsbD low then .indexBound else if bad.getLsbD low then .poison else if zr.getLsbD low then .zreadStrict else .regBudget
                  sub := if !out.getLsbD low && bad.getLsbD low then 3 else 0, lmask := every, pc := iss.pc }))
      ∧ (operandCheck s c iss.mask em em iss.pc srcs d k (k == 2) = none → out ≠ 0 →
          ∃ t c', exec i s = .next (State.takeFault t iss.crew { cause := .indexBound, lmask := out, pc := iss.pc })
            ∧ t = { s with crews := s.crews.set iss.crew c' } ∧ c' = { c with threads := c'.threads, bundles := c'.bundles }
            ∧ ∀ (l : Nat) (th : Thread), c.threads[l]? = some th → ∃ th', c'.threads[l]? = some th'
                ∧ (iss.mask.getLsbD l = false → th' = th)
                ∧ (iss.mask.getLsbD l = true → em.getLsbD l = false → LaneAfter th th' false (fun _ => false) srcs d k len s.cycle 0 0)
                ∧ (out.getLsbD l = true →
                    (∀ n, th'.reg? n = if (lostRegs th true (fun _ => false) (mine l)).contains n then none else th.reg? n)
                    ∧ th' = { th with regs := th'.regs, flags := th.flags ||| BitVec.ofNat 32 (readFlags (rd l)), gaps := th'.gaps
                                      relog := some (((rd l).vals.take ((mine l).map (fun p => p.1.count)).sum).map (BitVec.ofNat 64)) }
                    ∧ ∀ x, x ∈ th'.gaps ↔ ∃ u, (u, x) ∈ srcs ∧ th.reads x = true ∧ srcOut th u x = true)
                ∧ (inWin.getLsbD l = true → ∃ v, LaneAfter th th' true (fun _ => false) srcs d k len s.cycle v (readFlags (rd l))))
  (∀ f : F64,
    let u := useW (bit f.mod.toNat 0)
    let k := regsOf (bit f.mod.toNat 0)
    stops (.and f) f.h [(u, f.s1), (u, f.s2)] k 8 ∧ stops (.or f) f.h [(u, f.s1), (u, f.s2)] k 8
    ∧ stops (.xor f) f.h [(u, f.s1), (u, f.s2)] k 8 ∧ stops (.not f) f.h [(u, f.s1)] k 8 ∧ stops (.mov f) f.h [(u, f.s1)] k 8
    ∧ stops (.adda f) f.h [(.w64, f.s1), (.w32, f.s2)] 2 8)
  ∧ (∀ f : F96I, stops (.andi f) f.h [(useW (bit f.mod.toNat 0), f.s1)] (regsOf (bit f.mod.toNat 0)) 12)

/-- R78, R79, R157, R173, R189, R297, R298, R304, R305: where control transfers and memory instructions trap. An address decodes to its space or takes
ADDR_RANGE or ADDR_WINDOW. A lane's access takes GATE_SPACE, MISALIGN, the bound of its space, the fault of its translation, LAYER_OFF and BLOCK_ALIGN
in this order: LD and ST raw, typed and under `.page` (which learn the storage format of their page first), with what FP4B24 pages ask, each element
of LDM and STM, the payload and the signal of STSIG, the atomics; a barrier instruction BAR_SPACE first and BAR_COUNT last. A walk takes PAGE_ABSENT and PT_INVALID as R297 says, a leaf WORLD_FAULT and
PAGE_PROT. Where lanes of an instruction fault, the crew is parked in one record of them all with what the lowest took, those lanes keep their operands
and stay at the instruction, and the others go on with their accesses; lanes without a page go on too, their accesses wait, and each page has one
record of the crew. CALL and CALLX at depth 516 take CALL_DEPTH, RET at depth 0 RET_EMPTY, and targets ADDR_RANGE, ADDR_WINDOW or PC_ALIGN. The model's
choices: PAGE_PROT for memory that R80 and R266 fence off (log 87), MISALIGN before a negative offset and an odd count on an FP4B24 page judged last
(log 88), the lowest element of a strided lane (log 89), the payload of STSIG before its signal (log 90), a target before the depth (log 82), PC_ALIGN
last (log 117), that a faulting lane of a memory instruction raises the flags of its reads and one of a control transfer none (log 73), and one record of
PAGE_ABSENT for each 64 KiB page (log 52). -/
def Obligations.MemoryTraps : Prop :=
  (∀ g : Nat, g < 2 ^ 64 →
    let w := g / 2 ^ 32 % 2 ^ 8
    let o := g % 2 ^ 32
    let window := g / 2 ^ 57 = 0 ∧ g / 2 ^ 40 = 0x1FFFF
    (g / 2 ^ 57 ≠ 0 → decodeAddr g = .error .addrRange) ∧ (g / 2 ^ 57 = 0 → g / 2 ^ 40 ≠ 0x1FFFF → decodeAddr g = .ok (.global, g))
    ∧ (window → w = 0 → decodeAddr g = .ok (.scratch, o)) ∧ (window → w = 1 → decodeAddr g = .ok (.priv, o))
    ∧ (window → w = 2 → decodeAddr g = .ok (.dscratch, o)) ∧ (window → w = 3 → decodeAddr g = .ok (.peer (o / 2 ^ 19), o % 2 ^ 19))
    ∧ (window → 3 < w → decodeAddr g = .error .addrWindow))
  ∧ (∀ (f : F128M) (s : State) (c : Crew) (l : Nat) (vals : List Nat),
    let addr := recAddr f (val vals 0)
    let t := s.teamOf c
    let x := s.ctxOf t.ctx
    let place := laneAddr f (val vals 0)
    let orders := fun (r : LaneRes) (place : Except Cause (Space × Int)) (addr : Nat) (w : Want) (n : Nat) =>
      let fails := fun (k : Cause) => r = .fault k 0 addr
      (∀ e, place = .error e → fails e)
      ∧ ∀ sp o, place = .ok (sp, o) →
        let barred := 1 ≤ c.frames.length ∧ sp ≠ .global ∧ sp ≠ .priv
        let even := n ∈ [1, 2, 4, 8, 16, 32, 64] ∧ o % n = 0
        let va := o.toNat % 2 ^ 57
        (barred → fails .gateSpace) ∧ (¬barred → ¬even → fails .misalign)
        ∧ (¬barred → even →
          (sp = .scratch → o < 0 ∨ 1024 * t.scrK < o + n → fails .scratchBound)
          ∧ (sp = .dscratch → o < 0 ∨ x.ways (c.core / 64) * 2 ^ 25 < o + n → fails .dscratchBound)
          ∧ (∀ m, sp = .peer m →
            let cs := if t.clvl = 0 then 1 else t.csize
            let peer := s.teams.find? (fun u => u.ctx == t.ctx && u.node == t.node && u.teamid == t.teamid / cs * cs + m && !u.ended)
            (cs ≤ m ∨ t.teams ≤ t.teamid / cs * cs + m ∨ peer = none → fails .peerAbsent)
            ∧ (∀ u, m < cs → t.teamid / cs * cs + m < t.teams → peer = some u →
              (u.core / 16 ≠ c.core / 16 → fails .peerFar) ∧ (u.core / 16 = c.core / 16 → 1024 * u.scrK < o + n → fails .scratchBound)))
          ∧ (sp = .priv → c.privSize < o + min n 8 → fails .privBound)
          ∧ (sp = .global →
            (∀ e, s.xlate c va w = .fault e → e ≠ .pageAbsent → fails e)
            ∧ (s.xlate c va w = .fault .pageAbsent → ∃ foot, r = .page (va / 65536 * 65536) addr foot)
            ∧ (∀ pa lf, s.xlate c va w = .ok pa lf → n ≤ 8 →
              (s.fenced c l va n = true ∨ s.tableAt pa n = true → fails .pageProt)
              ∧ (s.fenced c l va n = false → s.tableAt pa n = false → s.homeOff pa = true → fails .layerOff))))
    let free := fun (va pa n : Nat) => s.fenced c l va n = false ∧ s.tableAt pa n = false ∧ s.homeOff pa = false
    let lands := fun (r : LaneRes) (place : Except Cause (Space × Int)) (w : Want) (n : Nat) =>
      ∀ o pa lf, place = .ok (.global, o) → n ∈ [1, 2, 4, 8] → o % n = 0 → s.xlate c (o.toNat % 2 ^ 57) w = .ok pa lf →
        free (o.toNat % 2 ^ 57) pa n → lf.sfmt ≠ 7 → ∃ p, r = .ok p ∧ p.units.map (fun u => (u.loc, u.size)) = [(.phys pa, n)]
    let typed := ¬(f.fmt = 0 ∧ f.pg = 0)
    let formed := fun (place : Except Cause (Space × Int)) (fmt : Nat) => ∀ sp o, place = .ok (sp, o) →
      if typed ∧ (sp = .global ∨ sp = .priv)
      then (sp = .priv → o + 1 ≤ c.privSize) ∧ ∃ lf, s.leafRes c (if sp = .global then o.toNat % 2 ^ 57 else c.privVa t l o.toNat) = .ok lf ∧ lf.sfmt = fmt
      else fmt = 0
    let width := fun (fmt : Nat) =>
      if f.fmt = 0 ∧ (f.pg = 0 ∨ fmt = 0) then widBits (field f.m 0 2) else fmtBits (if fmt = 0 then f.fmt.toNat else fmt)
    let want := fun (store : Bool) => if store then Want.write else .read
    let unformed := fun (r : LaneRes) (place : Except Cause (Space × Int)) => ∀ o, typed → place = .ok (.global, o) →
      let va := o.toNat % 2 ^ 57
      (∀ e, s.leafRes c va = .failed e → e ≠ .pageAbsent → r = .fault e 0 addr)
      ∧ (s.leafRes c va = .failed .pageAbsent → ∃ foot, r = .page (va / 65536 * 65536) addr foot)
    orders (planAtomic f s c l vals) place addr .write (if fmt64 f.fmt.toNat then 8 else 4)
    ∧ lands (planAtomic f s c l vals) place .write (if fmt64 f.fmt.toNat then 8 else 4)
    ∧ (∀ store,
      let r := planLdst f store s c l vals
      unformed r place
      ∧ (∀ fmt, formed place fmt → fmt ≠ 7 →
        orders r place addr (want store) (f.n * width fmt / 8) ∧ lands r place (want store) (f.n * width fmt / 8))
      ∧ (∀ o lf, typed → place = .ok (.global, o) → s.leafRes c (o.toNat % 2 ^ 57) = .ok lf → lf.sfmt = 7 →
        let va := o.toNat % 2 ^ 57
        let m := if f.n % 2 = 1 then 1 else f.n / 2
        let p := va - lf.va
        let all := lf.size / 12
        let scales := f.fmt ≠ 0 → ∀ j < f.n, (2 * p + j) / 24 < all →
          let sva := wrap 57 ((lf.va : Int) + lf.csoff + ((2 * p + j) / 24 : Nat))
          ∃ spa sl, s.xlate c sva (want store) = .ok spa sl ∧ sl.sfmt = 0 ∧ free sva spa 1
        (m ∉ [1, 2, 4, 8] ∨ o % m ≠ 0 → r = .fault .misalign 0 addr)
        ∧ (m ∈ [1, 2, 4, 8] → o % m = 0 → scales → f.fmt ≠ 7 →
          (∀ e, s.xlate c va (want store) = .fault e → e ≠ .pageAbsent → r = .fault e 0 addr)
          ∧ (∀ pa, s.xlate c va (want store) = .ok pa lf →
            (s.fenced c l va m = true ∨ s.tableAt pa m = true → r = .fault .pageProt 0 addr)
            ∧ (s.fenced c l va m = false → s.tableAt pa m = false → s.homeOff pa = true → r = .fault .layerOff 0 addr)
            ∧ (free va pa m → f.n % 2 = 1 ∨ 24 * all < 2 * p + f.n → r = .fault .blockAlign 0 addr)))))
    ∧ (∀ store,
      let stride := signed 32 (match vals.getLast? with | some v => v | none => 0)
      let at_ := fun (j : Nat) => laneAddr f (val vals 0) (stride * j)
      let elem := fun (j : Nat) => planElem f store s c l addr (val vals 0) (stride * j)
      let one := fun (j : Nat) => match elem j with
        | .error e => e
        | .ok y => LaneRes.ok { units := [{ loc := y.1, size := y.2.1, data := 0, done := false }], addr := addr, foot := [] }
      let r := planStrided f store s c l vals
      (∀ j,
        unformed (one j) (at_ j)
        ∧ (∀ fmt, formed (at_ j) fmt →
          orders (one j) (at_ j) addr (want store) (max 1 (width fmt / 8)) ∧ (fmt ≠ 7 → lands (one j) (at_ j) (want store) (max 1 (width fmt / 8))))
        ∧ (∀ fmt o pa lf, formed (at_ j) fmt → at_ j = .ok (.global, o) → o % (max 1 (width fmt / 8) : Nat) = 0 →
          s.xlate c (o.toNat % 2 ^ 57) (want store) = .ok pa lf → lf.sfmt = 7 → free (o.toNat % 2 ^ 57) pa (max 1 (width fmt / 8)) →
          one j = .fault .blockAlign 0 addr))
      ∧ ((∀ j < f.n, ∀ v, one j ≠ .miss v) →
        (∀ j < f.n, ∀ k sub a, one j = .fault k sub a → (∀ i < j, ∀ k sub a, one i ≠ .fault k sub a) → r = .fault k sub a)
        ∧ ((∀ j < f.n, ∀ k sub a, one j ≠ .fault k sub a) →
          (∀ j < f.n, ∀ va a g, one j = .page va a g → (∀ i < j, ∀ va a g, one i ≠ .page va a g) → ∃ foot, r = .page va a foot)
          ∧ ((∀ j < f.n, ∃ p, one j = .ok p) → ∃ q, r = .ok q ∧ q.units.length = f.n
            ∧ ∀ j < f.n, ∀ p, one j = .ok p → (q.units[j]?).map (fun u => (u.loc, u.size)) = p.units.head?.map (fun u => (u.loc, u.size))))))
    ∧ (let r := planStsig f s c l vals
      let n := 4 * f.n
      let sn := if bit f.m 0 then 8 else 4
      let sig := match vals.getLast? with | some v => v | none => 0
      let signal : Except Cause (Space × Int) := match decodeAddr sig with | .error e => .error e | .ok (sp, o) => .ok (sp, (o : Int))
      let ready := fun (place : Except Cause (Space × Int)) (n : Nat) => ∃ sp o, place = .ok (sp, o)
        ∧ ¬(1 ≤ c.frames.length ∧ sp ≠ .global ∧ sp ≠ .priv) ∧ n ∈ [1, 2, 4, 8, 16, 32, 64] ∧ o % n = 0
      let placed := ∃ sp o ls, place = .ok (sp, o) ∧ s.pieces c l .write sp addr [] (chunks o n) = .ok ls
      (∀ e, place = .error e → r = .fault e 0 addr)
      ∧ (∀ e sp o, place = .ok (sp, o) → signal = .error e → r = .fault e 0 sig)
      ∧ (∀ e1 e2, place = .ok e1 → signal = .ok e2 →
        (1 ≤ c.frames.length → e1.1 ≠ .global → e1.1 ≠ .priv → r = .fault .gateSpace 0 addr)
        ∧ (1 ≤ c.frames.length → e1.1 = .global ∨ e1.1 = .priv → e2.1 ≠ .global → e2.1 ≠ .priv → r = .fault .gateSpace 0 (recGen sig))
        ∧ (c.frames = [] → ¬(n ∈ [1, 2, 4, 8, 16, 32, 64] ∧ e1.2 % n = 0) → r = .fault .misalign 0 addr))
      ∧ (ready signal sn → orders r place addr .write n)
      ∧ (ready place n → placed → orders r signal (recGen sig) .write sn)
      ∧ (∀ o pa lf o2 pa2 lf2, place = .ok (.global, o) → signal = .ok (.global, o2) → n ∈ [4, 8] → o % n = 0 → o2 % sn = 0 →
        s.xlate c (o.toNat % 2 ^ 57) .write = .ok pa lf → s.xlate c (o2.toNat % 2 ^ 57) .write = .ok pa2 lf2 →
        free (o.toNat % 2 ^ 57) pa n → free (o2.toNat % 2 ^ 57) pa2 sn →
        (lf.sfmt = 7 → r = .fault .blockAlign 0 addr) ∧ (lf.sfmt ≠ 7 → lf2.sfmt = 7 → r = .fault .blockAlign 0 (recGen sig))
        ∧ (lf.sfmt ≠ 7 → lf2.sfmt ≠ 7 → ∃ p, r = .ok p ∧ p.units.map (fun u => (u.loc, u.size)) = [(.phys pa, n), (.phys pa2, sn)])))
    ∧ (∀ o pa lf, laneAddr f (val vals 0) = .ok (.global, o) → o % 8 = 0 → s.xlate c (o.toNat % 2 ^ 57) .write = .ok pa lf → lf.sfmt = 7 →
      s.fenced c l (o.toNat % 2 ^ 57) (if fmt64 f.fmt.toNat then 8 else 4) = false → s.tableAt pa (if fmt64 f.fmt.toNat then 8 else 4) = false →
      s.homeOff pa = false → planAtomic f s c l vals = .fault .blockAlign 0 addr)
    ∧ (∀ chk sp o, laneAddr f (val vals 0) = .ok (sp, o) →
      let r := planBar f chk s c l vals
      (sp = .global ∨ sp = .priv ∨ sp = .dscratch → r = .fault .barSpace 0 addr)
      ∧ (sp = .scratch →
        (1 ≤ c.frames.length → r = .fault .gateSpace 0 addr)
        ∧ (c.frames = [] → o % 16 ≠ 0 → r = .fault .misalign 0 addr)
        ∧ (c.frames = [] → o % 16 = 0 → o < 0 ∨ 1024 * t.scrK < o + 16 → r = .fault .scratchBound 0 addr)
        ∧ (c.frames = [] → o % 16 = 0 → 0 ≤ o → o + 16 ≤ 1024 * t.scrK → chk (val vals 1) = true → r = .fault .barCount 0 addr)))
    ∧ (∀ va w lf, s.leafRes c va = .ok lf →
      let pa := lf.pa + (va - lf.va)
      let world := lf.wld ≠ s.worldAt pa ∨ lf.wld = true ∧ c.secure = false
      let prot := t.level = 0 ∧ lf.usr = false ∨ w = .write ∧ lf.wr = false ∨ w = .fetch ∧ lf.ex = false
      (world → s.xlate c va w = .fault .worldFault) ∧ (¬world → prot → s.xlate c va w = .fault .pageProt) ∧ (¬world → ¬prot → s.xlate c va w = .ok pa lf)))
  ∧ (∀ (s : State) (asid va : Nat) (secure : Bool),
    let a := s.homeRead (s.pkg.atb * 2 ^ 20 + 16 * asid) 16
    let index := fun (n : Nat) => if n = 0 then va / 2 ^ 44 % 2 ^ 13 else if n = 1 then va / 2 ^ 31 % 2 ^ 13 else if n = 2 then va / 2 ^ 25 % 2 ^ 6 else va / 2 ^ 16 % 2 ^ 9
    let entry := fun (base n : Nat) => s.homeRead (base + 16 * index n) 16
    let below := fun (e : Nat) => e / 2 ^ 10 % 2 ^ 42 * 1024
    let e0 := entry (a / 2 ^ 17 % 2 ^ 35 * 2 ^ 17) 0
    let e1 := entry (below e0) 1
    let e2 := entry (below e1) 2
    let e3 := entry (below e2) 3
    let table := fun (e : Nat) => e % 4 = 1
    let leaf := fun (e size : Nat) (here : Prop) =>
      (here → e % 4 = 3 → leafReserved e = true ∨ below e % size ≠ 0 → walk s asid secure va = .error .ptInvalid)
      ∧ (here → e % 4 = 3 → leafReserved e = false → below e % size = 0 → (∃ p ∈ s.pkg.parts, below e < p.base + p.granules * 65536) →
          walk s asid secure va = .ok (leafOf asid secure va size e))
      ∧ (here → e % 2 = 0 → walk s asid secure va = .error .pageAbsent)
    let start := a % 2 = 1 ∧ (a / 2 % 2 = 1 ↔ secure = true)
    let one := start ∧ table e0 ∧ below e0 % 2 ^ 17 = 0
    let two := one ∧ table e1
    let three := two ∧ table e2 ∧ below e2 % 2 ^ 13 = 0
    (¬start → walk s asid secure va = .error .ptInvalid)
    ∧ (start → e0 % 2 = 0 → walk s asid secure va = .error .pageAbsent)
    ∧ (start → e0 % 4 = 3 ∨ table e0 ∧ below e0 % 2 ^ 17 ≠ 0 → walk s asid secure va = .error .ptInvalid)
    ∧ leaf e1 (2 ^ 31) one ∧ leaf e2 (2 ^ 25) two ∧ (two → table e2 → below e2 % 2 ^ 13 ≠ 0 → walk s asid secure va = .error .ptInvalid)
    ∧ leaf e3 (2 ^ 16) three ∧ (three → table e3 → walk s asid secure va = .error .ptInvalid))
  ∧ (∀ (i : Instr) (d : MemDesc) (s : State) (iss : Issue) (c : Crew) (r : Nat → LaneRes), memDesc i = some d → d.hint = false → d.f.pg ≠ 1 →
    (d.phys = true → 1 ≤ (s.teamOf c).level) → Issues s iss c → Undebugged s c →
    let em := guardMask c iss.mask d.f.h
    let ls := lanesOf em
    let rd := fun l => readLane s c iss.mask (d.uses 0) l
    let bad := ls.filterMap (fun l => match r l with | .fault k sub a => some (l, k, sub, a) | _ => none)
    let pages := ls.filterMap (fun l => match r l with | .page va a _ => some (l, va, a) | _ => none)
    let faults := fun l => bad.any (fun x => x.1 == l)
    em ≠ 0 → memOut s c iss.mask em d = 0 → memCheck s c iss.mask em 0 iss.pc d = none → (∀ x ∈ d.uses 0, x.2.last = 0) →
    blockRule (ls.map (fun l => (l, d.plan s c l (rd l).vals))) = ls.map (fun l => (l, r l)) →
    (∀ l ∈ ls, (∃ p, r l = .ok p) ∨ (∃ k sub a, r l = .fault k sub a) ∨ ∃ va a foot, r l = .page va a foot) →
    s.slotsHeld c.team c.id + (1 + ((((d.uses 0).drop 1).map (fun u => 4 * u.1.regs)).sum + 7) / 8) ≤ 11 →
    ∃ u c' new, u = { s with
          nextId := u.nextId, accs := s.accs ++ new, crews := s.crews.set iss.crew c', cp := { s.cp with faultQ := u.cp.faultQ }
          store := { s.store with coreTlb := u.store.coreTlb, lookups := u.store.lookups } }
      ∧ (bad = [] → exec i s = .next u)
      ∧ (∀ l k sub a rest, bad = (l, k, sub, a) :: rest →
        exec i s = .next (u.takeFault iss.crew
          { cause := k, sub := sub, addr := a, lmask := maskOf (bad.map (·.1)), pc := iss.pc, group := some s.nextId }))
      ∧ new.map (·.lane) = ls.filter (fun l => !faults l)
      ∧ (∀ a ∈ new, a.group = s.nextId ∧ a.serial = c.team ∧ a.crew = c.id ∧ a.ins = i ∧ a.kind = d.kind ∧ a.pc = iss.pc ∧ a.vals = (rd a.lane).vals
        ∧ (∀ p, r a.lane = .ok p → a.units = p.units ∧ a.foot = p.foot ∧ ∀ va, a.hold ≠ .page va)
        ∧ (∀ va ad foot, r a.lane = .page va ad foot → a.units = [] ∧ a.foot = foot ∧ a.hold = .page va))
      ∧ (∃ rs, u.cp.faultQ = s.cp.faultQ ++ rs
        ∧ rs.map (·.page) = (((pages.map (fun x => x.2.1)).eraseDups).filter (fun va => !s.openPage c.team c.id c.asid va)).map (fun va => some (c.asid, va))
        ∧ ∀ q ∈ rs, ∀ va, q.page = some (c.asid, va) → q.cause = .pageAbsent ∧ q.serial = c.team ∧ q.crew = c.id ∧ q.pc = iss.pc ∧ q.fdom = c.fdom
            ∧ q.lmask = maskOf ((pages.filter (fun x => x.2.1 == va)).map (·.1))
            ∧ some q.addr = (pages.filter (fun x => x.2.1 == va)).head?.map (fun x => BitVec.ofNat 64 x.2.2))
      ∧ c' = { c with threads := c'.threads, bundles := c'.bundles, logs := c'.logs } ∧ c'.threads.length = c.threads.length
      ∧ ∀ (l : Nat) (th : Thread), c.threads[l]? = some th → ∃ th', c'.threads[l]? = some th'
          ∧ (iss.mask.getLsbD l = false → th' = th)
          ∧ (faults l = true → th' = { th with flags := th.flags ||| BitVec.ofNat 32 (readFlags (rd l)), gaps := [],
                                                relog := some ((rd l).vals.map (BitVec.ofNat 64)) })
          ∧ (iss.mask.getLsbD l = true → faults l = false →
              MemAfter th th' (em.getLsbD l) (d.uses 0) (dstRegs th d.f.h.dst.toNat (d.dk 0)) s.cycle
                (orF (match r l with | .ok p => if em.getLsbD l then p.flags else 0 | _ => 0) (readFlags (rd l)))))
  ∧ (
    let stops := fun (i : Instr) (h : Hdr) (srcs : List (Use × Src)) (len : Nat) (go : Thread → List Nat → Option (Except Cause (DWord × (Thread → Thread)))) =>
      ∀ (s : State) (iss : Issue) (c : Crew), Issues s iss c →
        let em := guardMask c iss.mask h
        let rd := fun l => readLane s c iss.mask srcs l
        let goes := fun l => go (c.thread l) (rd l).vals
        let bad := (lanesOf em).filterMap (fun l => match goes l with | some (.error k) => some (l, k) | _ => none)
        operandCheck s c iss.mask em em iss.pc srcs 255 1 false = none → boundLanes c em srcs 255 1 = 0 → (∀ x ∈ srcs, x.2.last = 0) →
        (∀ l ∈ lanesOf em, goes l ≠ none) →
        ∀ l k rest, bad = (l, k) :: rest → ∃ b,
          let u : State := { s.dropFailed c with nextId := s.nextId + 33, crews := s.crews.set iss.crew { c with
            bundles := b
            threads := c.threads.mapIdx (fun (l : Nat) (th : Thread) =>
              if em.getLsbD l then
                match goes l with
                | some (.ok (pc, f)) => onward pc s.cycle (f { th with flags := th.flags ||| BitVec.ofNat 32 (readFlags (rd l)) })
                | _ => { th with relog := some ((rd l).vals.map (BitVec.ofNat 64)), gaps := [] }
              else if iss.mask.getLsbD l then onward (th.pc + BitVec.ofNat 64 len) s.cycle th else th) } }
          exec i s = .next (u.takeFault iss.crew { cause := k, lmask := maskOf (bad.map (·.1)), pc := iss.pc, group := some s.nextId })
    let calls := fun (target : DWord) (ra : DWord) (th : Thread) =>
      if 516 ≤ th.depth then some (Except.error Cause.callDepth)
      else if th.depth < 4 then some (.ok (target, fun (t : Thread) => { t with stack := ra :: t.stack, depth := t.depth + 1 })) else none
    let away := fun (v : Nat) => if v / 2 ^ 57 ≠ 0 then some Cause.addrRange else if v / 2 ^ 40 % 2 ^ 17 = 0x1FFFF then some .addrWindow
      else if v % 4 ≠ 0 then some .pcAlign else none
    (∀ f : F96I, stops (.call f) f.h [] 12 (fun th _ => calls (th.pc + 4 * f.imm.signExtend 64) (th.pc + 12) th))
    ∧ (∀ f : F64,
      stops (.callx f) f.h [(.w64, f.s1)] 8 (fun th v => match away (val v 0) with
        | some k => some (.error k)
        | none => calls (BitVec.ofNat 64 (val v 0)) (th.pc + 8) th)
      ∧ stops (.jmp f) f.h [(.w64, f.s1)] 8 (fun _ v => match away (val v 0) with
        | some k => some (.error k)
        | none => some (.ok (BitVec.ofNat 64 (val v 0), id)))
      ∧ stops (.ret f) f.h [] 8 (fun th _ =>
        let ra := th.stack.head?.getD 0
        if th.depth = 0 then some (.error .retEmpty) else if ra.toNat % 4 ≠ 0 then some (.error .pcAlign)
        else if th.depth < 5 then some (.ok (ra, fun t => { t with stack := t.stack.drop 1, depth := t.depth - 1 })) else none)))

/-- R310, R313, R314, R259: a crew that takes a fault is parked in every thread that has not exited, the record is handed over, and nothing else
changes. R347, R348, R360: a stop before a matching instruction and one after a step stop a scheduler that is not stopped at once: its WHY and the
cycle of the stop are kept, and every crew of it on its core is parked with the cause DEBUG_STOP; no other crew changes. Any other stop is due on
the next cycle with the WHY of a fault, else of the first stop. -/
def Obligations.FaultEntry : Prop :=
   (∀ (s : State) (k : Nat) (c : Crew) (tr : Trap), s.crews[k]? = some c → Undebugged s c → FaultTaken s (s.takeFault k tr) k tr)
  ∧
   (∀ (s : State) (core j why : Nat), ((s.debugOf core).sched j).stopped = false → (s.debugOf core).scheds.length = 4 → j < 4 →
      let x := (s.debugOf core).sched j
      let t : State := s.stopSched core j why
      (∀ i, i ≠ j → (t.debugOf core).sched i = (s.debugOf core).sched i)
      ∧ (why ≠ 3 → why ≠ 5 → t = { s with dbg := t.dbg }
          ∧ (t.debugOf core).sched j = { x with due := some (if why = 4 then 4 else x.due.getD why) })
      ∧ (why = 3 ∨ why = 5 → t = { s with crews := t.crews, dbg := t.dbg }
          ∧ (t.debugOf core).sched j = { x with stopped := true, stepping := false, due := none, why := why, scyc := s.cycle }
          ∧ t.crews.length = s.crews.length
          ∧ ∀ (k : Nat) (c : Crew), s.crews[k]? = some c →
              if c.core = core ∧ c.sched = j then ∃ c', t.crews[k]? = some c' ∧ CrewParks c c' (.debug core j) else t.crews[k]? = some c))

/-! ### Traps, exits, gates, waits -/

/-- R159: EXIT ends the lanes whose guard is true, which hold no entries from then on; the others go on. The claim of a crew that has ended returns to
the unclaimed records (R316). Inside a gate call it takes GATE_EXIT. R162: TRAP moves its bundle on by 8 and then records USER_TRAP, whose INFO is
the low half of the source in the lowest lane that executes; BKPT does so with BREAKPOINT, or, with a debugger attached to the region, stops its
scheduler with WHY 2. -/
def Obligations.ThreadEnds : Prop :=
   (∀ (f : F64) (s : State) (iss : Issue) (c : Crew), Issues s iss c →
      let em := guardMask c iss.mask f.h
      (em = 0 ∨ c.frames = [] →
        ∃ t b, exec (.exit f) s = .next t
          ∧ t = { s with
              crews := s.crews.set iss.crew { c with
                bundles := b
                claim := if c.live &&& ~~~em = 0 then none else c.claim
                threads := c.threads.mapIdx (fun l th =>
                  if em.getLsbD l then ended th else if iss.mask.getLsbD l then onward (th.pc + 8) s.cycle th else th) }
              cp := t.cp }
          ∧ (c.live &&& ~~~em ≠ 0 ∨ c.claim = none → t.cp = s.cp)
          ∧ (∀ q, c.live &&& ~~~em = 0 → c.claim = some q → t.cp = { s.cp with rings := s.cp.rings.map (fun g =>
              if g.ctx = (s.teamOf c).ctx ∧ g.fdom = q.fdom
              then { g with recs := g.recs.map (fun x => if x.index = q.index then { x with claimed := false } else x) } else g) }))
      ∧ (em ≠ 0 → c.frames ≠ [] →
        exec (.exit f) s = .next (s.takeFault iss.crew { cause := .gateExit, lmask := em, pc := iss.pc })))
  ∧
   (∀ (f : F64) (s : State) (iss : Issue) (c : Crew),
      let em := guardMask c iss.mask f.h
      let srcs : List (Use × Src) := [(.w32, f.s1)]
      let rd := fun l => readLane s c iss.mask srcs l
      let moved := fun (t : State) =>
        LaneDone s t iss c em { f.h with dst := 255 } (if em = 0 then [] else srcs) 1 8 (fun _ => false) (fun _ => 0) (fun l => readFlags (rd l))
      let trap := fun (k : Cause) => ({ cause := k, lmask := em, pc := iss.pc
                                        info := ((lanesOf em).head?.map (fun l => val (rd l).vals 0 % 2 ^ 16)).getD 0 } : Trap)
      Issues s iss c → operandCheck s c iss.mask em em iss.pc srcs 255 1 false = none → boundLanes c em srcs 255 1 = 0 →
      (∃ t0, moved t0 ∧ exec (.trap f) s = .next (if em = 0 then t0 else t0.takeFault iss.crew (trap .userTrap)))
      ∧ (∃ t0, moved t0 ∧ exec (.bkpt f) s = .next (if em = 0 then t0
          else if (s.debugOf c.core).attEn = true ∧ (s.debugOf c.core).attCtx = (s.teamOf c).ctx then t0.stopSched c.core c.sched 2
          else t0.takeFault iss.crew (trap .breakpoint))))

/-- R167: a GATE that passes its checks saves a frame and enters the service in every lane: the entry's address space, world, domain, private window
and budget, the arguments alone mapped, everything else of a thread clear. R169: GRET returns the innermost frame: address space, world, domain,
private window, budget and threads of the caller, with the results copied, p6 set, c63 zero, and the flags of the callee joined unless the entry
scrubs them. With no frame it takes GRET_EMPTY. R166: the checks of GATE, in order: GATE_INVALID, GATE_DENIED, GATE_WORLD, GATE_DEPTH, each of which
parks the crew at the GATE. -/
def Obligations.GateTransfers : Prop :=
  ((∀ (f : F96I) (s : State) (iss : Issue) (c : Crew) (e : GateEntry), Issues s iss c →
      iss.mask = allLanes → c.live = allLanes → guardMask c iss.mask f.h = allLanes →
      f.imm.toNat < (s.teamOf c).gcnt → s.gateEntry (s.teamOf c).ctx (s.teamOf c).rcb f.imm.toNat = some e →
      e.ok (s.ctxOf (s.teamOf c).ctx) = true → bit e.cmask (s.teamOf c).gclass = true → (e.cworld = c.secure ∨ e.xworld = true) →
      admits (s.classOf c.core) e.cworld = true → c.frames.length < 4 →
      (∀ a ∈ s.accs, a.serial = c.team → a.crew ≠ c.id) →
      (∀ l < 32, (∀ r ∈ (c.thread l).regs, r.st = .mapped)
        ∧ s.canTake c l (((c.thread l).regs.filter (fun r => decide (r.n < e.narg))).length) = true) →
      ∃ t b, exec (.gate f) s = .next t
        ∧ t = { s with crews := s.crews.set iss.crew { c with
            frames := { pc := (c.thread 0).pc + 12, asid := c.asid, secure := c.secure, fdom := c.fdom, privBase := c.privBase
                        privSize := c.privSize, rbud := c.rbud, nres := e.nres, scrf := e.scrf
                        cregs := if e.scrc then some (c.creg.take 63) else none
                        lanes := c.threads.map (fun th => { regs := th.regs, preds := th.preds, idx := th.idx, mrv := th.mrv
                                                            mrm := th.mrm, flags := th.flags, depth := th.depth, stack := th.stack }) } :: c.frames
            asid := e.asid
            secure := e.cworld
            fdom := e.fdom
            privBase := e.pbase
            privSize := 4096 * e.psz
            rbud := e.rbud
            bundles := b
            threads := c.threads.mapIdx (fun l th =>
              let u := { th with
                regs := th.regs.filter (fun r => decide (r.n < e.narg))
                preds := 0
                idx := th.idx.map (fun _ => 0)
                mrv := false
                depth := 0
                stack := []
                flags := 0 }
              if l < 32 then onward (BitVec.ofNat 64 e.epc) s.cycle u else u) } })
  ∧
   (∀ (f : F64) (s : State) (iss : Issue) (c : Crew), Issues s iss c →
      iss.mask = allLanes → c.live = allLanes → guardMask c iss.mask f.h = allLanes →
      (c.frames = [] → exec (.gret f) s = .next (s.takeFault iss.crew { cause := .gretEmpty, lmask := allLanes, pc := iss.pc }))
      ∧ ∀ fr rest, c.frames = fr :: rest →
        (∀ a ∈ s.accs, a.serial = c.team → a.crew ≠ c.id) →
        (∀ l < 32, (∀ r ∈ (c.thread l).regs, r.n < fr.nres → r.st = .mapped) ∧ (∀ q ∈ ((fr.lanes[l]?).getD default).regs, q.st = .mapped)) →
        ∃ t b, exec (.gret f) s = .next t
          ∧ t = { s with crews := s.crews.set iss.crew { c with
              frames := rest
              asid := fr.asid
              secure := fr.secure
              fdom := fr.fdom
              privBase := fr.privBase
              privSize := fr.privSize
              rbud := fr.rbud
              creg := (match fr.cregs with | some l => l ++ c.creg.drop 63 | none => c.creg).set 63 0
              cbad := if fr.cregs.isNone then c.cbad.filter (· != 63) else []
              bundles := b
              threads := c.threads.mapIdx (fun l th =>
                let q := (fr.lanes[l]?).getD default
                let u := { th with
                  regs := th.regs.filter (fun r => decide (r.n < fr.nres)) ++ q.regs.filter (fun r => decide (r.n ≥ fr.nres))
                  preds := q.preds ||| 64
                  idx := q.idx
                  mrv := q.mrv
                  mrm := q.mrm
                  depth := q.depth
                  stack := q.stack
                  flags := q.flags ||| (if fr.scrf then 0 else th.flags) }
                if l < 32 then onward fr.pc s.cycle u else u) } }))
  ∧
  (∀ (f : F96I) (s : State) (iss : Issue) (c : Crew), Issues s iss c →
    iss.mask = allLanes → c.live = allLanes → guardMask c iss.mask f.h = allLanes →
    let t := s.teamOf c
    let taken := fun (k : Cause) => exec (.gate f) s = .next (s.takeFault iss.crew { cause := k, lmask := allLanes, pc := iss.pc })
    (t.gcnt ≤ f.imm.toNat ∨ s.gateEntry t.ctx t.rcb f.imm.toNat = none → taken .gateInvalid)
    ∧ ∀ e, f.imm.toNat < t.gcnt → s.gateEntry t.ctx t.rcb f.imm.toNat = some e →
      (e.ok (s.ctxOf t.ctx) = false → taken .gateInvalid)
      ∧ (e.ok (s.ctxOf t.ctx) = true → bit e.cmask t.gclass = false → taken .gateDenied)
      ∧ (e.ok (s.ctxOf t.ctx) = true → bit e.cmask t.gclass = true →
          (e.cworld ≠ c.secure ∧ e.xworld = false ∨ admits (s.classOf c.core) e.cworld = false → taken .gateWorld)
          ∧ ((e.cworld = c.secure ∨ e.xworld = true) → admits (s.classOf c.core) e.cworld = true → 4 ≤ c.frames.length → taken .gateDepth)))

/-- R23, R24, R163: each lane of a WAIT whose conditions hold, or whose time-out is 0, goes on at once with its predicate; each other lane that executes
stands WAITING with the conditions it gave; the lanes that do not execute go on. The result word, where the WAIT names one, is that of the lowest
lane that goes on. R23, R24: when the MEM word of a wait is read again, and when a time-out expires, each lane of the crew that waits and whose
conditions hold goes on with its predicate true, and at a time-out each other lane whose time has run out goes on with its predicate false and TO
set; the other threads do not change. Where the lanes at one PC name a result word, the lowest of them gives it (R25). R22 to R24: which conditions
hold, when a wait completes by them, its HELD bits, and the reference edge at which its time-out expires. The model's choices: a MEM word is read where it
was found at issue (log 125), and a BAR condition does not wait for earlier operations on its object (log 126). -/
def Obligations.Waits : Prop :=
   let wordsOf := fun (r : List Word) (es : List WaitEnd) => (List.range 32).foldl (fun (r : List Word) l =>
      (es.filter (fun e => e.lane == l)).foldl (fun (r : List Word) e =>
        if es.all (fun x => !(x.pc == e.pc && decide (x.lane < l))) then r.set e.creg e.word else r) r) r
   (∀ (f : F128X) (s : State) (iss : Issue) (c : Crew) (p : Nat → Pending), Issues s iss c →
      let em := guardMask c iss.mask f.h
      let ks := (waitKinds f.ctl.toNat).filter (· != 0)
      let srcs := (ks.flatMap (fun k => waitUses k (bit f.ctl.toNat 13))).zip [f.s1, f.s2, f.s3, f.s4]
      let rd := fun l => readLane s c iss.mask srcs l
      let held := fun l => s.heldBits c (c.thread l) (p l)
      let done := fun l => s.waitDone c (c.thread l) (p l)
      let poll := fun l => (p l).conds.any (fun y => y == Cond.time 0)
      (∀ x ∈ srcs, x.2.last = 0) →
      operandCheck s c iss.mask em em iss.pc srcs 255 1 false = none → boundLanes c em srcs 255 1 = 0 →
      (∀ l ∈ lanesOf em, waitLane s c f l (rd l).vals = .ok (p l) 0 ∧ ReadsClean s (p l)) →
      (∀ l < 32, (c.thread l).st ≠ .waiting ∧ ((c.thread l).st = .ready → (c.thread l).why = .none)) →
      (∀ l ∈ lanesOf iss.mask, (c.thread l).pc = iss.pc) → c.threads.length = 32 →
      (3 ∈ ks → s.slotsHeld c.team c.id + (1 + ((srcs.map (fun u => 4 * u.1.regs)).sum - 1) / 8) ≤ 11) →
      let new := ((lanesOf em).filter (fun l => bit f.ctl.toNat 19 && (done l || poll l))).map (fun l =>
        ({ lane := l, pc := iss.pc, creg := field f.ctl.toNat 20 6, word := BitVec.ofNat 32 (held l + if done l then 0 else 16) } : WaitEnd))
      ∃ t b, exec (.wait f) s = .next t
        ∧ (∀ e, e ∈ t.store.coreTlb ↔ e ∈ s.store.coreTlb)
        ∧ FlatWritten { s with store := { s.store with coreTlb := t.store.coreTlb } } t 0 0 id
        ∧ t = { s with store := t.store, crews := s.crews.set iss.crew { c with
            bundles := b
            ended := if new = [] then c.ended else c.ended ++ new
            creg := if new = [] then c.creg else wordsOf c.creg (c.ended ++ new)
            cbad := c.cbad.filter (fun n => new.all (fun e => e.creg != n))
            threads := c.threads.mapIdx (fun l th =>
              let th' := { th with flags := th.flags ||| BitVec.ofNat 32 (readFlags (rd l) % 1024) }
              if em.getLsbD l then
                if done l || poll l then
                  { (if f.h.dst = 255 then th' else th'.setPred (f.h.dst.toNat - 200) (done l)) with
                    pc := th.pc + 16, st := .ready, why := .none, lastIssue := s.cycle, woke := true, relog := none, wait := none }
                else { th' with st := .waiting, why := .none, lastIssue := s.cycle, relog := none, wait := some (p l) }
              else if iss.mask.getLsbD l then onward (th.pc + 16) s.cycle th else th) } })
  ∧
   (∀ (s : State) (team crew lane k : Nat) (c : Crew), s.crewAt team crew = some k → s.crews[k]? = some c → c.threads.length = 32 →
      (∀ th ∈ c.threads, th.st = .ready → th.why = .none) →
      let waits := fun l => match (c.thread l).st, (c.thread l).wait with | .waiting, some p => some p | _, _ => none
      (∀ l p, waits l = some p → s.waitPoison c p = none ∧ ReadsClean s p) →
      let leaves := fun (timed : Bool) (l : Nat) => (waits l).any (fun p => s.waitDone c (c.thread l) p || timed && s.waitExpired p)
      let new := fun (timed : Bool) => ((List.range 32).filter (leaves timed)).filterMap (fun l => (waits l).bind (fun p => p.creg.map (fun n =>
        ({ lane := l, pc := (c.thread l).pc, creg := n
           word := BitVec.ofNat 32 (s.heldBits c (c.thread l) p + if s.waitDone c (c.thread l) p then 0 else 16) } : WaitEnd))))
      let result := fun (timed : Bool) (ts : List Thread) (b : List Mask) => ({ c with
        threads := ts
        bundles := b
        ended := if new timed = [] then c.ended else c.ended ++ new timed
        creg := if new timed = [] then c.creg else wordsOf c.creg (c.ended ++ new timed)
        cbad := c.cbad.filter (fun n => (new timed).all (fun e => e.creg != n)) } : Crew)
      let ends := fun (timed : Bool) (l : Nat) (th : Thread) => match th.st, th.wait with
        | .waiting, some p =>
          if s.waitDone c th p || timed && s.waitExpired p then
            { (if p.dst = 255 then th else th.setPred (p.dst - 200) (s.waitDone c th p)) with
              pc := th.pc + BitVec.ofNat 64 p.len, st := .ready, why := .none, woke := true, relog := none, wait := none }
          else if l = lane ∧ timed = false then { th with wait := some { p with polled := 0 } } else th
        | _, _ => if l = lane ∧ timed = false then { th with wait := th.wait.map (fun p => { p with polled := 0 }) } else th
      (∃ t, exec (.waitMemRepoll team crew lane) s = .next t ∧ FlatWritten s t 0 0 id
        ∧ ∃ b, t = { s with store := t.store, crews := s.crews.set k (result false (c.threads.mapIdx (ends false)) b) })
      ∧ ((waits lane).any (fun p => s.waitExpired p) = true →
          ∃ t, exec (.waitTimeout team crew lane) s = .next t ∧ FlatWritten s t 0 0 id
            ∧ ∃ b, t = { s with store := t.store, crews := s.crews.set k (result true (c.threads.mapIdx (ends true)) b) }))
  ∧
   (∀ (s : State) (c : Crew) (th : Thread) (p : Pending),
      let word := fun (loc : Loc) => ofBytes (s.readLoc (dieOf c.core) loc p.msz)
      let holds := fun (x : Cond) => match x with
        | .bar off q => (((s.teamOf c).scr.bytes off 1).headD 0).getLsbD 0 ≠ q
        | .batch n => th.batches.length ≤ n
        | .mem loc mask v => s.memReadable c loc p.msz = true ∧ (if p.mrel = 0 then word loc &&& mask = v else if p.mrel = 1 then word loc &&& mask ≠ v
            else if p.mrel = 2 then word loc &&& mask < v else v ≤ word loc &&& mask)
        | .tile mask => (∀ e ∈ s.accq, e.granted = true → e.serial = c.team → ∀ k ∈ e.srcs ++ e.dsts, mask.testBit k = false)
            ∧ ∀ a ∈ s.accs, ∀ f, a.kind = .epi → a.serial = c.team → a.ins = .aepi f → mask.testBit (field f.ctl.toNat 0 4) = false
        | .time _ => False
      let named := fun (x : Cond) => x ∈ p.conds ∧ ∀ n, x ≠ .time n
      (s.waitDone c th p = true ↔ if p.all = true then (∃ x, named x) ∧ ∀ x, named x → holds x else ∃ x, named x ∧ holds x)
      ∧ (∀ k, (s.heldBits c th p).testBit k = true ↔ ∃ x, p.conds[k]? = some x ∧ holds x)
      ∧ (s.waitExpired p = true ↔ s.cycle % 10 = 0 ∧ ∃ n, Cond.time n ∈ p.conds ∧ 10 * n ≤ p.elapsed))

/-- R14, R15: at a multiple of 8 cycles the boundary makes one bundle of all READY threads of a crew at one PC, and leaves every other bundle and
everything else as it is. R17, R18: when the count of the threads held at an address has reached the hold limit, they become READY, with HOLDX set
and their meeting registers cleared; the count ends. R20: a crew that has stood at a collective for the hold limit takes ILL_CONVERGE with sub-cause
3, for the lanes that stand CHELD there, and the count of that collective begins again. The model's choices: a limit in ticks counts 10 cycles a tick
from the arrival (log 79), and the count of a collective begins again after its fault (log 14). R27: an ended team's scratchpad is released once no copy writes into it. -/
def Obligations.TimedReleases : Prop :=
   (∀ s : State, s.cycle % 8 = 0 →
      ∃ t, exec .regroupBoundary s = .next t ∧ t = { s with crews := t.crews, regrouped := true }
        ∧ t.crews.length = s.crews.length
        ∧ ∀ (k : Nat) (c : Crew), s.crews[k]? = some c → c.threads.length ≤ 32 →
            ∃ b, t.crews[k]? = some { c with bundles := b, threads := c.threads.map (fun th => if th.st = .ready then { th with why := .none } else th) }
              ∧ (∀ l m, (c.thread l).st = .ready → (c.thread m).st = .ready → l < c.threads.length → m < c.threads.length →
                  ((c.thread l).pc = (c.thread m).pc ↔ ∃ x ∈ b, x.getLsbD l = true ∧ x.getLsbD m = true))
              ∧ (∀ x ∈ b, (∀ l < c.threads.length, x.getLsbD l = true → (c.thread l).st ≠ .ready) → ∃ y ∈ c.bundles, ∀ l, x.getLsbD l = true → y.getLsbD l = true))
  ∧
   (∀ (s : State) (team crew k n : Nat) (m : DWord) (c : Crew), s.crewAt team crew = some k → s.crews[k]? = some c →
      (∀ th ∈ c.threads, th.st = .ready → th.why = .none) → c.threads.length = 32 →
      (m, n) ∈ c.holds →
      let cfg := (s.teamOf c).holdcfg.toNat
      max 64 (if cfg / 2 ^ 16 % 2 = 1 then 10 * (cfg % 2 ^ 16) else cfg % 2 ^ 16) ≤ n →
      ∃ t b, exec (.holdLimitExpiry team crew m) s = .next t
        ∧ t = { s with crews := s.crews.set k { c with
            bundles := b
            holds := c.holds.filter (fun h => h.1 != m)
            threads := c.threads.map (fun th => if th.st = .held ∧ th.pc = m
              then { th with flags := th.flags ||| BitVec.ofNat 32 flHOLDX, mrv := false, st := .ready, why := .none, woke := true } else th) } })
  ∧
   (∀ (s : State) (team crew k n : Nat) (p : DWord) (c : Crew), s.crewAt team crew = some k → s.crews[k]? = some c →
      let cfg := (s.teamOf c).holdcfg.toNat
      c.coll.find? (fun x => decide (max 64 (if cfg / 2 ^ 16 % 2 = 1 then 10 * (cfg % 2 ^ 16) else cfg % 2 ^ 16) ≤ x.2)) = some (p, n) →
      Undebugged s c →
      ∃ t, exec (.convergeTimeout team crew) s = .next t
        ∧ FaultTaken { s with crews := s.crews.set k { c with coll := c.coll.map (fun x => if x.1 = p then (p, 0) else x) } } t k
            { cause := .illConverge, sub := 3, lmask := c.lanesWhere (fun th => th.st == .cheld && th.pc == p), pc := p })
  ∧
   (∀ (s : State) (team : Nat) (x : Team), s.findTeam team = some x → x.ended = true →
      (∀ c ∈ s.copies, team ∉ c.targets ∧ ∀ r ∈ c.recvs, r.serial ≠ team) →
      exec (.scratchRelease team) s = .next { s with
        teams := s.teams.map (fun y => if y.serial = team then { y with released := true, scr := [] } else y) })

/-- R15, R16, R158: at the end of a cycle a thread that is READY, or STALLED for no event, with V = 1 and its meeting address at its PC, is HELD, unless it
has executed MEET in this cycle. A meeting address whose every thread has exited, is held there, or has no V = 1 with it, is released: its held
threads lose V and are READY, those of one address in one bundle; the count of an address begins when its first thread is held. What counts of a
thread that has executed MEET in this cycle is what it had before (log 69: R158's words, where R16 has a sibling stop counting in that cycle). R19, R20: a collective instruction takes ILL_CONVERGE with sub-cause 1 where
a thread of the crew has exited, enters CHELD where its bundle is not the whole crew, and takes sub-cause 2 where its guard is false in some lanes only,
unless it writes a crew register alone. A crew whose threads all stand CHELD at one PC forms one bundle, READY; one that stands CHELD and has lost a
thread takes sub-cause 1, at the collective whose count began first (the model's choice: log 111). -/
def Obligations.Meetings : Prop :=
  (∀ c : Crew, c.threads.length = 32 →
    (∀ th ∈ c.threads, (th.st = .ready → th.why = .none)
      ∧ (th.st = .held → th.mrOld = none ∧ th.mrv = true ∧ th.mrm = th.pc ∧ ∃ h ∈ c.holds, h.1 = th.pc)) →
    let counted := fun (th : Thread) => (th.mrOld.getD (th.mrv, th.mrm))
    let joins := fun (th : Thread) => (th.st = .ready ∨ th.st = .stalled ∧ th.why ≠ .page ∧ th.why ≠ .call ∧ th.why ≠ .latch ∧ th.why ≠ .grant)
      ∧ th.mrOld = none ∧ th.mrv = true ∧ th.mrm = th.pc
    let held := fun (th : Thread) => th.st = .held ∨ joins th
    let complete := fun (m : DWord) => ∀ th ∈ c.threads, th.st = .exited ∨ held th ∧ th.pc = m ∨ counted th ≠ (true, m)
    ∃ t, c.meetings = t ∧ t = { c with threads := t.threads, bundles := t.bundles, holds := t.holds } ∧ t.threads.length = 32
      ∧ (∀ (l : Nat) (th : Thread), c.threads[l]? = some th →
          (held th → complete th.pc → t.threads[l]? = some { th with st := .ready, why := .none, woke := true, mrv := false })
          ∧ (held th → ¬ complete th.pc → t.threads[l]? = some (if th.st = .held then th else { th with st := .held, why := .none }))
          ∧ (¬ held th → t.threads[l]? = some th))
      ∧ (∀ m n, (m, n) ∈ t.holds ↔ ¬ complete m ∧ ((m, n) ∈ c.holds ∨ n = 0 ∧ (∀ h ∈ c.holds, h.1 ≠ m) ∧ ∃ th ∈ c.threads, joins th ∧ th.pc = m))
      ∧ (∀ k l tk tl, c.threads[k]? = some tk → c.threads[l]? = some tl → held tk → held tl → tk.pc = tl.pc → complete tk.pc →
          ∃ b ∈ t.bundles, b.getLsbD k = true ∧ b.getLsbD l = true))
  ∧ (let stops := fun (run : State → Host.Outcome State Fault Refusal) (s : State) (iss : Issue) (c : Crew) (em : Mask) (creg : Bool) =>
      (c.live ≠ allLanes → run s = .next (s.takeFault iss.crew { cause := .illConverge, sub := 1, lmask := iss.mask, pc := iss.pc }))
      ∧ (c.live = allLanes → iss.mask ≠ allLanes → ∃ b, run s = .next { s with crews := s.crews.set iss.crew { c with
          threads := c.threads.mapIdx (fun l th => if iss.mask.getLsbD l then { th with st := .cheld, why := .none } else th)
          bundles := b
          coll := if ∃ x ∈ c.coll, x.1 = iss.pc then c.coll else c.coll ++ [(iss.pc, 0)] } })
      ∧ (c.live = allLanes → iss.mask = allLanes → creg = false → em ≠ 0 → em ≠ allLanes →
          run s = .next (s.takeFault iss.crew { cause := .illConverge, sub := 2, lmask := iss.mask, pc := iss.pc }))
    (∀ (o : LaneOp) (s : State) (iss : Issue) (c : Crew), Issues s iss c → (o.coll = true ∨ isCreg o.h.dst.toNat = true) →
      oddAt c (guardMask c iss.mask o.h) o.srcs o.h.dst.toNat o.k (o.k == 2) = false →
      stops (runLane o) s iss c (guardMask c iss.mask o.h) (isCreg o.h.dst.toNat))
    ∧ (∀ (s : State) (iss : Issue) (c : Crew), Issues s iss c →
      (∀ f : F64,
        let em := guardMask c iss.mask f.h
        let creg := isCreg f.h.dst.toNat
        stops (exec (.vote f)) s iss c em creg ∧ stops (exec (.elect f)) s iss c em creg ∧ stops (exec (.gret f)) s iss c em false
        ∧ (let w := bit f.mod.toNat 0
           creg = true → oddAt c em [(.plain w, f.s1), (.w32, f.s2)] f.h.dst.toNat (regsOf w) w = false → stops (exec (.perm f)) s iss c em true)
        ∧ (let w := decide (f.mod.toNat % 8 = 1 ∨ 6 ≤ f.mod.toNat % 8)
           oddAt c em [(useW w, f.s1)] f.h.dst.toNat (regsOf w) w = false → stops (exec (.redux f)) s iss c em creg))
      ∧ (∀ f : F96T, isCreg f.h.dst.toNat = true → stops (exec (.quant f)) s iss c (guardMask c iss.mask f.h) true)
      ∧ (∀ f : F96I, stops (exec (.gate f)) s iss c (guardMask c iss.mask f.h) false)
      ∧ (∀ f : F128X,
        ((∀ n ∈ namedTiles (.mma f), n < (s.teamOf c).tiles) → stops (exec (.mma f)) s iss c (guardMask c iss.mask f.h) false)
        ∧ ((∀ n ∈ namedTiles (.mmag f), n < (s.teamOf c).tiles) → stops (exec (.mmag f)) s iss c (guardMask c iss.mask f.h) false))))
  ∧ (∀ (s : State) (k : Nat) (c : Crew), s.crews[k]? = some c → c.threads.length = 32 →
    ((∀ th ∈ c.threads, th.st ≠ .cheld) → s.converge k c = s)
    ∧ (∀ p n rest, c.coll = (p, n) :: rest → (∃ th ∈ c.threads, th.st = .exited) → (∃ th ∈ c.threads, th.st = .cheld) →
        s.converge k c = s.takeFault k { cause := .illConverge, sub := 1, lmask := c.lanesWhere (fun th => th.st == .cheld && th.pc == p), pc := p })
    ∧ (∀ p, (∀ th ∈ c.threads, th.st = .cheld ∧ th.pc = p) →
        ∃ b, allLanes ∈ b ∧ s.converge k c = { s with crews := s.crews.set k { c with
          threads := c.threads.map (fun th => { th with st := .ready, why := .none }), bundles := b, coll := [] } })
    ∧ ((∀ th ∈ c.threads, th.st ≠ .exited) → (∃ th ∈ c.threads, ∃ u ∈ c.threads, th.st = .cheld ∧ ¬ (u.st = .cheld ∧ u.pc = th.pc)) →
        s.converge k c = s))

/-! ### Memory -/

/-- R172 to R189: the loads, stores, atomics, barrier instructions, STSIG and write-backs enter their accesses (`MemLaw`): sources, destination
registers, acquire and release order of each. R185, R190: FENCE enters one fence for each lane that executes, with its order and scope; PREF and
CLRRV act on caches alone: PREF waits while its line is held (the model's choice, log 123) and changes no byte that a die sees, CLRRV sets the re-reference value of the lines that its lanes name, in the die and in the last-level cache. -/
def Obligations.MemoryInstructionsIssue : Prop :=
   (∀ f : F128M,
      let a : Use × Src := (f.addrUse, f.s1)
      let run := fun (strided : Bool) (st : Nat) =>
        let e := elemFmt f st
        if e.rw = 64 then 2 * f.n else if e.rw = 4 then f.n / 8 else if f.pk && !strided && decide (e.rw < 32) then f.n * e.rw / 32 else f.n
      let data := fun (strided : Bool) (st : Nat) => (Use.run (run strided st) ((elemFmt f st).rw == 64), f.s2)
      let wide := fmt64 f.fmt.toNat
      let one : Nat → List (Use × Src) := fun _ => [a]
      let two : Nat → List (Use × Src) := fun _ => [a, (.w32, f.s2)]
      let operand : Nat → List (Use × Src) := fun _ => [a, (useW wide, f.s2)]
      let acq := f.ord.toNat % 2 == 1
      let rel := f.ord.toNat / 2 == 1
      let atomic := fun (i : Instr) (uses : Nat → List (Use × Src)) => MemLaw i f .atomic uses (fun _ => if wide then 2 else 1) acq rel false (planAtomic f)
      MemLaw (.ld f) f .load one (run false) (f.ord == 1) false false (planLdst f false)
      ∧ MemLaw (.ldm f) f .load two (run true) (f.ord == 1) false false (planStrided f false)
      ∧ MemLaw (.st f) f .store (fun st => [a, data false st]) (fun _ => 0) false (f.ord == 2) false (planLdst f true)
      ∧ MemLaw (.stm f) f .store (fun st => [a, data true st, (.w32, f.s3)]) (fun _ => 0) false (f.ord == 2) false (planStrided f true)
      ∧ atomic (.aadd f) operand ∧ atomic (.amin f) operand ∧ atomic (.amax f) operand ∧ atomic (.aand f) operand ∧ atomic (.aor f) operand
      ∧ atomic (.axor f) operand ∧ atomic (.axch f) operand ∧ atomic (.afadd f) operand ∧ atomic (.ainc f) operand ∧ atomic (.adec f) operand
      ∧ atomic (.afmin f) operand ∧ atomic (.afmax f) operand
      ∧ atomic (.acas f) (fun _ => [a, (useW wide, f.s2), (useW wide, f.s3)]) ∧ atomic (.amaxswap f) one
      ∧ MemLaw (.stsig f) f .stsig (fun _ => [a, (.run f.n false, f.s2), (.w64, f.s3)]) (fun _ => 0) false false false (planStsig f)
      ∧ MemLaw (.binit f) f .bar two (fun _ => 0) false (f.ord == 2) false (planBar f (fun n => n == 0 || decide (65535 < n)))
      ∧ MemLaw (.bexpb f) f .bar two (fun _ => if bit f.mod.toNat 0 then 1 else 0) false (bit f.mod.toNat 0 || f.ord == 2) false (planBar f (fun _ => false))
      ∧ MemLaw (.barr f) f .bar two (fun _ => 1) false true false (planBar f (fun n => n == 0 || decide (65535 < n)))
      ∧ MemLaw (.binv f) f .binv one (fun _ => 0) false (f.ord == 2) false (planBar f (fun _ => false))
      ∧ MemLaw (.clwb f) f .clwb one (fun _ => 0) false false false (planLine f) ∧ MemLaw (.clevict f) f .clevict one (fun _ => 0) false false false (planLine f)
      ∧ MemLaw (.ldphys f) f .load one (run false) (f.ord == 1) false true (planPhys f false)
      ∧ MemLaw (.stphys f) f .store (fun st => [a, data false st]) (fun _ => 0) false (f.ord == 2) true (planPhys f true))
  ∧
   ((∀ (f : F64) (s : State) (iss : Issue) (c : Crew), Issues s iss c →
      let em := guardMask c iss.mask f.h
      ∃ t b, exec (.fence f) s = .next t
        ∧ t = { s with
            nextId := s.nextId + 1 + (lanesOf em).length
            accs := s.accs ++ (lanesOf em).mapIdx (fun j l =>
              { (default : Acc) with
                id := s.nextId + 1 + j, group := s.nextId, serial := c.team, crew := c.id, lane := l, core := c.core, ctx := (s.teamOf c).ctx
                pc := iss.pc, ins := .fence f, kind := .fence, units := [{ loc := .phys 0, size := 0, data := 0, done := false }]
                acq := bit f.mod.toNat 0, rel := bit f.mod.toNat 1, scope := field f.mod.toNat 2 3, dst := none, hold := .none
                gdepth := c.frames.length })
            crews := s.crews.set iss.crew { c with
              bundles := b, threads := c.threads.mapIdx (fun l th => if iss.mask.getLsbD l then onward (th.pc + 8) s.cycle th else th) } })
    ∧ (∀ (f : F128M) (s : State) (iss : Issue) (c : Crew) (lines : Nat → List (Nat × Nat × Bool)) (v : Nat), Issues s iss c →
      let d : MemDesc := { lineDesc f .load with plan := fun _ _ _ _ => LaneRes.drop }
      let em := guardMask c iss.mask f.h
      let srcs : List (Use × Src) := [(f.addrUse, f.s1)]
      let rd := fun l => readLane s c iss.mask srcs l
      let moved := fun (c' : Crew) => c' = { c with threads := c'.threads, bundles := c'.bundles } ∧ c'.threads.length = c.threads.length
        ∧ ∀ (l : Nat) (th : Thread), c.threads[l]? = some th → ∃ th', c'.threads[l]? = some th'
            ∧ (iss.mask.getLsbD l = false → th' = th)
            ∧ (iss.mask.getLsbD l = true → MemAfter th th' (em.getLsbD l) srcs [] s.cycle (readFlags (rd l)))
      hintDrop s c iss.mask em d = 0 → memCheck s c iss.mask em 0 iss.pc d = none → s.slotsHeld c.team c.id < 11 → f.rd.toNat = v →
      ((∀ l ∈ lanesOf em, hintPlan f f.n s c l (val (rd l).vals 0) = .ok (lines l)) →
        let waits := ∃ l ∈ lanesOf em, ∃ x ∈ lines l,
          x.1 / 1024 ∈ s.gLines ∨ s.fabricHolds (some (dieOf c.core)) x.1 = true ∧ s.readHere c.core x.1 1 = false
        (waits → ∃ t, exec (.pref f) s = .next t
          ∧ CrewGoes s t iss.crew c (fun l th => if iss.mask.getLsbD l then { th with st := .stalled, why := .dep } else th))
        ∧ (¬waits → ∃ t c', exec (.pref f) s = .next t ∧ moved c'
          ∧ t = { s with crews := s.crews.set iss.crew c', store := { s.store with
              l1 := t.store.l1, l2 := t.store.l2, llc := t.store.llc, coreTlb := t.store.coreTlb, lookups := (s.dropFailed c).store.lookups
              mem := t.store.mem, wsecs := t.store.wsecs, poison := t.store.poison, upsets := t.store.upsets } }
          ∧ (∀ e, e ∈ t.store.coreTlb ↔ e ∈ s.store.coreTlb)
          ∧ SeenBut s t 0 0
          ∧ ((∀ w ∈ s.store.wsecs, w.die ≠ dieOf c.core) → t.store.mem = s.store.mem ∧ t.store.wsecs = s.store.wsecs
              ∧ t.store.poison = s.store.poison ∧ t.store.upsets = s.store.upsets)))
      ∧ ((∀ l ∈ lanesOf em, hintPlan f 1 s c l (val (rd l).vals 0) = .ok (lines l)) →
        let named := fun (k : Nat) => (lanesOf em).any (fun l => (lines l).any (fun x => x.1 / 1024 == k))
        ∃ t c', exec (.clrrv f) s = .next t ∧ moved c' ∧ (∀ e, e ∈ t.store.coreTlb ↔ e ∈ s.store.coreTlb)
          ∧ t = { s with crews := s.crews.set iss.crew c', store := { s.store with
              coreTlb := t.store.coreTlb
              lookups := (s.dropFailed c).store.lookups
              l2 := s.store.l2.map (fun x => if named x.line && x.die == dieOf c.core then { x with v := v } else x)
              llc := s.store.llc.map (fun x => if !x.ten && named x.line then { x with v := v } else x) } })))

/-- R109, R116, R334, R336: a unit of a store, or of the payload of an STSIG, that may be performed writes its bytes
where the whole package sees them, or, where it is narrow and homed in another stack, in the W sector of its die (`StoreLaw`); a store with a release at
stack scope or wider pushes the W sectors of its die first. Nothing else changes but the list of accesses, cache states, and W sectors that are pushed:
every die sees every other byte as before, but for those that a pushed sector of another die held (`SeenBut`). R267: a unit of STPHYS writes its bytes at
their physical address, and no cache of the package holds a copy of the line then. The model's choices: a narrow store to a line homed in its own stack
makes its bytes visible to the package at once (log 54), one whose instruction covers a poisoned sector whole is performed at the home (log 107), a
whole 8-byte word of scratchpad stored loses its poison (log 12), and a physical store where no tower holds a byte writes nothing (log 77). -/
def Obligations.StoresPerform : Prop :=
  ∀ (s : State) (id k : Nat) (a : Acc) (u : AUnit), Performs s id k a u →
    (a.phys = false → a.kind = .store → StoreLaw s id k a u (fun s' => Released s s' a))
    ∧ (a.phys = false → a.kind = .stsig → k + 1 ≠ a.units.length → StoreLaw s id k a u (fun s' => s' = s))
    ∧ (∀ pa, a.phys = true → a.kind = .store → u.loc = .phys pa → u.size ≤ 8 →
      ∃ s' t, Released s s' a ∧ exec (.homeAcknowledgement id k) s = .next t
        ∧ t = { s with accs := accsAfter s a k u.data, store := t.store }
        ∧ (s.partAt pa = none → t.store = s'.store)
        ∧ (s.partAt pa ≠ none → pa % 256 + u.size ≤ 256 →
          FlatWritten s' t pa u.size (fun m => m.putBytes pa (toBytes u.size u.data)) ∧ Recalled t pa
          ∧ (s.store.mem.wf = true → (∀ w ∈ s.store.wsecs, w.sector / 4 = pa / 1024 → s.dieGone w.die = false) →
              ∀ die, ∀ j < u.size, t.byteAt die (pa + j) = BitVec.ofNat 8 (u.data / 2 ^ (8 * j)))))

/-- R173, R177, R381: a unit of a load that may be performed reads its bytes as its die sees them and changes no byte that any die sees; when that was
the last unit of the last lane of the instruction, each of its lanes has its registers, in every lane the words that the format gives, and the accesses
leave. R267: a unit of LDPHYS reads its bytes at their physical address once no cache of the package holds a copy of the line (where no tower holds a
byte, a free value: log 77). R180 to R184: what each atomic writes from the old value m and its operands b and c (nothing where ACAS finds another value,
though it takes the line of flat memory in its caches, R111), at the location's bytes and nowhere else (`BytesWritten`), after its release where it has
one. Its event is LOAD_COMPLETE; once every lane of the instruction is performed, each has in its destination the value that the word held before its
own. -/
def Obligations.LoadsAndAtomics : Prop :=
  (∀ (s : State) (id k : Nat) (a : Acc) (u : AUnit), Performs s id k a u → a.kind = .load → NoSpill s a →
    let gives := fun (t : State) (v : Nat) => Delivers s t a k v (fun b => b.result.1)
    (a.phys = false → (∀ w ∈ s.store.wsecs, w.die ≠ dieOf a.core) ∨ s.store.mem.wf = true ∧ WForm s →
      ∃ t, exec (.loadComplete id k) s = .next t ∧ t = { s with accs := t.accs, crews := t.crews, store := t.store }
        ∧ FlatWritten s t 0 0 (fun m => m)
        ∧ ((∀ w ∈ s.store.wsecs, w.die ≠ dieOf a.core) → t.store = { s.store with l1 := t.store.l1, l2 := t.store.l2, llc := t.store.llc })
        ∧ gives t (ofBytes (s.readLoc (dieOf a.core) u.loc u.size)))
    ∧ (∀ pa, a.phys = true → u.loc = .phys pa → pa % 1024 + u.size ≤ 1024 →
      (s.partAt pa = none → ∃ t, exec (.loadComplete id k) s = .next t
        ∧ t = { s with accs := t.accs, crews := t.crews, freeCtr := s.freeCtr + 1 }
        ∧ gives t ((Config.free s.freeCtr).toNat % 2 ^ (8 * u.size)))
      ∧ (s.partAt pa ≠ none → ∃ t, exec (.loadComplete id k) s = .next t ∧ t = { s with accs := t.accs, crews := t.crews, store := t.store }
        ∧ FlatWritten s t 0 0 (fun m => m) ∧ Recalled t pa ∧ gives t (ofBytes (t.readLoc (dieOf a.core) u.loc u.size))
        ∧ ((∀ w ∈ s.store.wsecs, w.sector / 4 ≠ pa / 1024) → t.store.mem = s.store.mem))))
  ∧
  (∀ (s : State) (id : Nat) (a : Acc) (u : AUnit) (f : F128M), Performs s id 0 a u → a.kind = .atomic → NoSpill s a →
    (∀ pa, u.loc = .phys pa → ∀ w ∈ s.store.wsecs, w.die = dieOf a.core
      ∨ (w.sector < pa / 256 ∨ (pa + u.size - 1) / 256 < w.sector) ∧ ∀ c ∈ w.bytes, c.1 < pa ∨ pa + u.size ≤ c.1) →
    (NoW s u.loc u.size ∨ s.store.mem.wf = true ∧ WForm s) →
    let m := ofBytes (s.readLoc (dieOf a.core) u.loc u.size)
    let b := val a.vals 1
    let c := val a.vals 2
    let t := ityOf (f.fmt.toNat - 8)
    let F := if f.fmt = 1 then ffF64 else ffF32
    let H := if f.fmt = 3 then ffBF16 else ffF16
    let add := fun (F : FFmt) (x y : Nat) => (fround F (addV (fdecode F x) (fdecode F y)).1).1
    let old := fun (x : Acc) => x.units.flatMap (fun v => if x.nreg = 2 then [v.data % 2 ^ 32, v.data / 2 ^ 32 % 2 ^ 32] else [v.data % 2 ^ 32])
    let writes := fun (v : Nat) => ∃ s' t, Released s s' a ∧ exec (.loadComplete id 0) s = .next t ∧ BytesWritten s' t false u.loc (toBytes u.size v)
      ∧ Delivers s t a 0 m old ∧ t.accs = accsAfter s a 0 m ∧ t = { s with accs := t.accs, crews := t.crews, teams := t.teams, store := t.store }
    (a.ins = .aadd f → writes ((m + b) % 2 ^ t.w))
    ∧ (a.ins = .amin f → writes (if readT t m ≤ readT t b then m else b))
    ∧ (a.ins = .amax f → writes (if readT t m ≤ readT t b then b else m))
    ∧ (a.ins = .aand f → writes (m &&& b)) ∧ (a.ins = .aor f → writes (m ||| b)) ∧ (a.ins = .axor f → writes (m ^^^ b))
    ∧ (a.ins = .axch f → writes b) ∧ (a.ins = .amaxswap f → writes 0)
    ∧ (a.ins = .ainc f → writes (if m ≥ b then 0 else m + 1))
    ∧ (a.ins = .adec f → writes (if m = 0 ∨ m > b then b else m - 1))
    ∧ (a.ins = .afmin f → writes (fminmax F false m (if bit f.mod.toNat 0 then b % 2 ^ F.mw else b)))
    ∧ (a.ins = .afmax f → writes (fminmax F true m (if bit f.mod.toNat 0 then b % 2 ^ F.mw else b)))
    ∧ (a.ins = .afadd f → writes (if f.fmt = 1 ∨ f.fmt = 2 then add F m b
        else add H (m % 2 ^ 16) (b % 2 ^ 16) + 2 ^ 16 * add H (m / 2 ^ 16 % 2 ^ 16) (b / 2 ^ 16 % 2 ^ 16)))
    ∧ (a.ins = .acas f → m = c → writes b)
    ∧ (a.ins = .acas f → m ≠ c → ∃ s' t, Released s s' a ∧ exec (.loadComplete id 0) s = .next t ∧ t.accs = accsAfter s a 0 m
        ∧ Delivers s t a 0 m old ∧ t = { s with accs := t.accs, crews := t.crews, store := t.store }
        ∧ match u.loc with | .phys _ => FlatWritten s' t 0 0 (fun m => m) | _ => t.store = s'.store))

/-- R187 to R189, R325: a barrier update that may be performed, which leaves no word of its object poisoned: BINIT arms the object; BEXPB adds expected
bytes and, with an arrival, counts one; BARR counts its arrivals; a phase that is complete flips and starts again; BINV zeroes the object once no copy names it. BARR and BEXPB with an arrival deliver
the token of R189, the object's offset with the phase that it had as bit 0. A release at stack scope or wider pushes the W sectors of the die first
(R109). A count that the object cannot take is BAR_COUNT, and parks the crew. -/
def Obligations.BarrierUpdates : Prop :=
  ∀ (s : State) (id : Nat) (a : Acc) (u : AUnit) (f : F128M) (ser o : Nat), Performs s id 0 a u → u.loc = .scr ser o → u.size = 16 → NoSpill s a →
    let m := ofBytes (s.readLoc (dieOf a.core) u.loc 16)
    let expc := m / 2 ^ 16 % 2 ^ 16
    let pend := m / 2 ^ 32 % 2 ^ 16
    let bytes := m / 2 ^ 64 % 2 ^ 64
    let phase := m % 2
    let word := fun (ph e p b : Nat) => ph + 2 ^ 16 * e + 2 ^ 32 * p + 2 ^ 64 * b
    let update := fun (arr add : Nat) =>
      let b := (bytes + add) % 2 ^ 64
      if pend = arr ∧ b = 0 then word (1 - phase) expc expc 0 else word phase expc (pend - arr) b
    let n := val a.vals 1
    let token := fun (x : Acc) => x.units.map (fun v => (match v.loc with | .scr _ q => q | _ => 0) + v.data % 2)
    let writes := fun (e : Instr) (v : Nat) => ∃ s' t, Released s s' a ∧ exec e s = .next t
      ∧ (a.ins = .barr f ∨ a.ins = .bexpb f → Delivers s t a 0 m token)
      ∧ t = { s' with accs := accsAfter s a 0 m, crews := t.crews, teams := s.teams.map (fun x => if x.serial = ser then
          { x with scr := x.scr.putBytes o (toBytes 16 v)
                   scrBad := x.scrBad.filter (fun w => !(decide (o ≤ 8 * w) && decide (8 * w + 8 ≤ o + 16))) } else x) }
    (a.kind = .bar → a.ins = .binit f → writes (.loadComplete id 0) (word 0 (n % 2 ^ 16) (n % 2 ^ 16) 0))
    ∧ (a.kind = .bar → a.ins = .barr f → expc ≠ 0 → n ≤ pend → writes (.loadComplete id 0) (update n 0))
    ∧ (a.kind = .bar → a.ins = .bexpb f → expc ≠ 0 → (bit f.mod.toNat 0 = true → 1 ≤ pend) →
        writes (.loadComplete id 0) (update (if bit f.mod.toNat 0 then 1 else 0) n))
    ∧ (a.kind = .binv → a.ins = .binv f →
        let named := (∃ x ∈ s.copies, ∃ r ∈ x.recvs, (r.serial, r.off) = (ser, o)) ∨ ∃ x ∈ s.accs, Loc.scr ser o ∈ s.waitNames x
        (¬named → writes (.binvClear id) 0) ∧ (named → exec (.binvClear id) s = .next s))
    ∧ (∀ (k : Nat) (c : Crew), a.kind = .bar → (a.ins = .barr f ∧ (expc = 0 ∨ pend < n) ∨ a.ins = .bexpb f ∧ (expc = 0 ∨ bit f.mod.toNat 0 = true ∧ pend = 0)) →
        s.crewAt a.serial a.crew = some k → s.crews[k]? = some c → Undebugged s c → a.lane < 32 → (∀ b ∈ s.accs, b.group = a.group → b.id = a.id → b = a) →
        (∀ r ∈ s.cp.faultQ, r.group ≠ some a.group) →
        ∃ s' t, Released s s' a ∧ exec (.loadComplete id 0) s = .next t
          ∧ FaultTaken { s' with accs := s.accs.map (fun b => if b.id = a.id then { b with hold := .fault s.nextId } else b) } t k
              { cause := .barCount, lmask := maskOf [a.lane], pc := a.pc, addr := a.addr, group := some a.group })

/-- R109, R116, R186, R190, R336: what FENCE, the signal of STSIG, CLWB, CLEVICT and a push do when they are performed. A release at stack scope or wider
leaves its die no W sector; the signal word counts up by the increment, and no W sector of the die then holds a sector of the payload (R121), and none at
all where the scope is wide; CLWB leaves no dirty sector of the line in the die and in its home's last-level cache, CLEVICT no copy of it, and neither
acts where the sector of its address is poisoned then (R381; that the line's other sectors do not count is the model's choice, log 122); a push of a W
sector that the fabric does not hold, in a power state in which dies act, makes its bytes visible to the package, ends its registration, and clears
the poison of a sector that it covers (R125, R336, R379) and the errors of the codewords that it covers whole (log 106: those of others stay). -/
def Obligations.ReleasesAndWriteBacks : Prop :=
  (∀ (s : State) (id : Nat) (a : Acc) (u : AUnit), Performs s id 0 a u → a.kind = .fence →
    ∃ s' t, Released s s' a ∧ exec (.homeAcknowledgement id 0) s = .next t ∧ t = { s' with accs := accsAfter s a 0 0 })
  ∧ (∀ (s : State) (id k : Nat) (a : Acc) (u : AUnit) (f : F128M), Performs s id k a u → a.kind = .stsig → a.ins = .stsig f → a.phys = false →
      k + 1 = a.units.length → NoW s u.loc u.size →
      let m := ofBytes (s.readLoc (dieOf a.core) u.loc u.size)
      ∃ s' t, PushedBy s s' (dieOf a.core) ∧ exec (.stsigSignal id) s = .next t
        ∧ t = { s with accs := accsAfter s a k m, teams := t.teams, store := t.store }
        ∧ BytesWritten s' t false u.loc (toBytes u.size ((m + field f.mod.toNat 1 5) % 2 ^ (8 * u.size)))
        ∧ (∀ w ∈ t.store.wsecs, w.die = dieOf a.core → s.dieGone w.die = false →
            3 > a.scope ∧ ∀ v ∈ a.units.dropLast, ∀ q, v.loc = .phys q → q / 256 ≠ w.sector))
  ∧ (∀ (s : State) (id : Nat) (a : Acc) (u : AUnit) (pa : Nat), Performs s id 0 a u → u.loc = .phys pa → (a.kind = .clwb ∨ a.kind = .clevict) →
      (s.store.poison.contains (pa / 256 + u.data) = true → exec (.homeAcknowledgement id 0) s = .next { s with accs := accsAfter s a 0 0 })
      ∧ (s.store.poison.contains (pa / 256 + u.data) = false → ∃ t, exec (.homeAcknowledgement id 0) s = .next t ∧ t.accs = accsAfter s a 0 0
        ∧ t = { s with accs := t.accs, store := { s.store with
            mem := t.store.mem, wsecs := t.store.wsecs, l1 := t.store.l1, l2 := t.store.l2, llc := t.store.llc, poison := t.store.poison
            upsets := t.store.upsets } }
        ∧ (∀ w ∈ t.store.wsecs, w.die = dieOf a.core → s.dieGone w.die = false → w.sector / 4 ≠ pa / 1024)
        ∧ (∀ x ∈ t.store.l2, x.die = dieOf a.core → x.line = pa / 1024 → a.kind = .clwb ∧ LState.m ∉ x.sts ∧ LState.o ∉ x.sts)
        ∧ (a.kind = .clevict → (∀ x ∈ t.store.l1, dieOf x.core = dieOf a.core → x.line ≠ pa / 1024)
            ∧ ∀ x ∈ t.store.llc, x.ten = false → some x.stack = s.homeStack pa → x.line ≠ pa / 1024)
        ∧ (a.kind = .clwb → ∀ x ∈ t.store.llc, x.ten = false → some x.stack = s.homeStack pa → x.line = pa / 1024 → LState.m ∉ x.sts)))
  ∧ (∀ (s : State) (w : WSec), s.store.wsecs.filter (fun x => x.die == w.die && x.sector == w.sector) = [w] → s.dieGone w.die = false →
      s.host.cur ≠ .zephyr → s.host.cur ≠ .calm → s.fabricHolds (some w.die) (256 * w.sector) = false →
      ∃ t, exec (.wSectorPush w.die w.sector) s = .next t
        ∧ t = { s with store := { s.store with
            mem := w.bytes.foldl (fun m c => m.set c.1 c.2) s.store.mem
            wsecs := s.store.wsecs.filter (fun x => !(x.die == w.die && x.sector == w.sector)), l1 := t.store.l1, l2 := t.store.l2
            poison := if 256 ≤ w.bytes.length then s.store.poison.filter (· != w.sector) else s.store.poison
            upsets := s.store.upsets.filter (fun u => !(u.ten.isNone && (List.range 64).all (fun j => w.bytes.any (fun c => c.1 == 64 * u.line + j)))) } })

/-- R297, R300, R303: a lookup that finds its page in the die's last-level TLB ends, and the core's TLB has the page; one that does not goes on to a
walk; a walk that finds a leaf ends every lookup of the die that waits for it, whose cores' TLBs have the page, and one that does not leaves its cause
with them; a walk of table lines that an engine holds in G waits for it (R117). Lookups are by 64 KiB (the model's choice, log 52). -/
def Obligations.TranslationLookups : Prop :=
  let mates := fun (q x : Lookup) => dieOf x.core == dieOf q.core && x.asid == q.asid && x.secure == q.secure && x.va == q.va && x.walking && x.failed.isNone
  ∀ (s : State) (q : Lookup) (va : Nat), va / 65536 * 65536 = q.va → q ∈ s.store.lookups → q.failed = none →
    (∀ x ∈ s.store.lookups, x.core = q.core → x.asid = q.asid → x.va = q.va → x = q) →
    (∀ l, q.walking = false → s.llLeaf (dieOf q.core) q.asid q.secure va = some l →
      ∃ t, exec (.lastLevelTlbLookup q.core q.asid va) s = .next t
        ∧ t = { s with store := { s.store with lookups := s.store.lookups.filter (· != q), coreTlb := t.store.coreTlb, llTlb := t.store.llTlb } }
        ∧ (∀ e, e ∈ t.store.llTlb ↔ e ∈ s.store.llTlb)
        ∧ t.store.coreTlb.head? = some (q.core, l) ∧ t.store.coreTlb.length ≤ s.store.coreTlb.length + 1)
    ∧ (q.walking = false → s.llLeaf (dieOf q.core) q.asid q.secure va = none →
      exec (.lastLevelTlbLookup q.core q.asid va) s = .next { s with store := { s.store with
        lookups := s.store.lookups.map (fun x => if x = q then { x with walking := true } else x) } })
    ∧ (∀ l, q.walking = true → s.walkWaits q = false → walk s q.asid q.secure q.va = .ok l →
      ∃ m t, exec (.tableWalkComplete q.core q.asid va) s = .next t ∧ Looked s m
        ∧ m = { s with store := m.store, pkg := m.pkg }
        ∧ t = { m with store := { m.store with lookups := t.store.lookups, coreTlb := t.store.coreTlb, llTlb := t.store.llTlb } }
        ∧ t.store.lookups = s.store.lookups.filter (fun x => !mates q x) ∧ (dieOf q.core, l) ∈ t.store.llTlb
        ∧ ∀ x ∈ s.store.lookups, mates q x = true → (x.core, l) ∈ t.store.coreTlb)
    ∧ (∀ e, q.walking = true → s.walkWaits q = false → walk s q.asid q.secure q.va = .error e →
      ∃ m t, exec (.tableWalkComplete q.core q.asid va) s = .next t ∧ Looked s m
        ∧ m = { s with store := m.store, pkg := m.pkg }
        ∧ t = { m with store := { m.store with lookups := s.store.lookups.map (fun x => if mates q x then { x with failed := some e } else x) } })
    ∧ (q.walking = true → s.walkWaits q = true → exec (.tableWalkComplete q.core q.asid va) s = .next s)

/-! ### Accumulators, copies, dictionaries -/

/-- R219, R122: MMA and MMAG that pass their checks leave their crew STALLED for the operand latch; when the latch has filled, the entry that it
holds enters the queue and the crew goes on. R216, R217: the latch of an MMA with B in scratchpad holds 64 rows of A and the columns of B. R57: the
band scales are those that the crew registers hold then, which R219 would read when the entry starts (the model's choice, log 75). R209, R221 to
R224: ACLR, AMOV, ALD, AST and AEPI enter their entries: the tiles that each reads and writes, the rows that ALD latches, the places that AST and
AEPI write. -/
def Obligations.MatrixInstructions : Prop :=
  (∀ (f : F128X) (s : State) (c : Crew) (k : Nat) (i : Instr) (ga : Bool), (i = .mma f ∧ ga = false ∨ i = .mmag f ∧ ga = true) →
    s.crews[k]? = some c → c.live = allLanes →
    (∀ (iss : Issue) (e : AccEntry) (fl : Nat → Nat), s.cur = some iss → iss.crew = k → iss.mask = allLanes → guardMask c allLanes f.h = allLanes →
      f.h.dst.toNat - 216 < (s.teamOf c).tiles → mmaPlan s c iss i f ga = .ok e fl →
      exec i s = .next { s with crews := s.crews.set k { c with
        latch := some i, threads := c.threads.mapIdx (fun l th => if l < 32 then { th with st := .stalled, why := .latch } else th) } })
    ∧ (∀ (e : AccEntry) (fl : Nat → Nat), s.crewAt c.team c.id = some k → c.latch = some i → (∀ th ∈ c.threads, th.st = .stalled ∧ th.why = .latch) →
      (∀ a ∈ s.accs, a.serial = c.team → a.crew = c.id → a.kind = .copy) → s.queued c.core < 16 → f.s1.last = 0 → f.s2.last = 0 →
      mmaPlan { s with crews := s.crews.set k { c with latch := none } } c { crew := k, mask := allLanes, pc := (c.thread 0).pc } i f ga = .ok e fl →
      ∃ t b, exec (.operandLatchFill c.team c.id) s = .next t
        ∧ t = { s with
            accq := enterQueue s.accq e, nextId := s.nextId + 1
            crews := s.crews.set k { c with latch := none, bundles := b, threads := c.threads.mapIdx (fun l th =>
              if l < 32 then onward (th.pc + 16) s.cycle { th with flags := th.flags ||| BitVec.ofNat 32 (fl l % 1024) } else th) } }
        ∧ e.serial = c.team ∧ e.crew = c.id ∧ e.ins = i ∧ e.srcs = [f.h.dst.toNat - 216] ∧ e.dsts = [f.h.dst.toNat - 216]
        ∧ e.bandA = ((c.creg[f.s4.code.toNat - 128]?).getD 0).toNat ∧ e.bandB = ((c.creg[f.ctl.toNat / 2 ^ 24 % 2 ^ 6]?).getD 0).toNat
        ∧ (ga = false → bit f.ctl.toNat 8 = false →
            let q := (mmaFmt (field f.ctl.toNat 0 4) (field f.ctl.toNat 4 4)).getD ⟨0, 0, 8, 0⟩
            let v := (readLane s c allLanes [(.w32, f.s1), (.w32, f.s2)] 0).vals
            let row := fun (start pitch r : Nat) => (s.teamOf c).scr.bytes (start + r * (4 * pitch)) q.rowBytes
            e.a = (List.range 64).flatMap (row (val v 0) (field f.ctl.toNat 10 7))
            ∧ e.b = (List.range q.n).flatMap (row (val v 1) (field f.ctl.toNat 17 7)))))
  ∧
  ((∀ f : F64,
    AccLaw (.aclr f) f.h [] 8 0 false (fun s c l pc _ e => e = entryOf s c l pc (.aclr f) [] [f.h.dst.toNat - 216] [])
    ∧ AccLaw (.amov f) f.h [] 8 0 false (fun s c l pc _ e => e = entryOf s c l pc (.amov f) [f.mod.toNat % 16] [f.h.dst.toNat - 216] []))
  ∧ (∀ f : F128X,
    let pitch := 4 * (f.ctl.toNat % 2 ^ 11)
    let within := fun (s : State) (c : Crew) (off : Nat) => off % 16 = 0 ∧ off + 63 * pitch + 256 ≤ 1024 * (s.teamOf c).scrK
    AccLaw (.ald f) f.h [(.w32, f.s1)] 16 0 false (fun s c l pc v e =>
      within s c (val v 0) ∧ (∀ a ∈ s.accs, sameThread a { (default : Acc) with serial := c.team, crew := c.id, lane := l } = false)
      ∧ (∀ r < 64, s.poisonRead (dieOf c.core) (.scr (s.teamOf c).serial (val v 0 + r * pitch)) 256 = none)
      ∧ e = entryOf s c l pc (.ald f) [] [f.h.dst.toNat - 216] ((List.range 64).flatMap (fun r => (s.teamOf c).scr.bytes (val v 0 + r * pitch) 256)))
    ∧ AccLaw (.ast f) f.h [(.w32, f.s1)] 16 0 false (fun s c l pc v e =>
      within s c (val v 0)
      ∧ e = { entryOf s c l pc (.ast f) [f.ctl.toNat / 2 ^ 11 % 16] [] [] with
          units := (List.range 2048).map (fun u =>
            { loc := .scr (s.teamOf c).serial (val v 0 + pitch * (u / 32) + 8 * (u % 32)), size := 8, data := 0, done := false })
          foot := (List.range 64).map (fun r => (.loc (.scr c.team (val v 0 + pitch * r)), 256)) })
    ∧ AccLaw (.aepi f) f.h
        ([(if bit f.ctl.toNat 8 then Use.w32 else .w64, f.s1), (.w32, f.s2)] ++ (if bit f.ctl.toNat 10 then [(.w64, f.s3)] else []) ++ [(.w32, f.s4)])
        16 (if bit f.ctl.toNat 8 && !bit f.ctl.toNat 10 then 0 else 1) (!bit f.ctl.toNat 8 || bit f.ctl.toNat 10) (fun s c l pc v e =>
          ∃ us, aepiPlaces s c f l v = .ok us
            ∧ let lines := linesOf ((us.filter (fun u => u.size == 8)).map (·.loc))
              e = { entryOf s c l pc (.aepi f) [f.ctl.toNat % 16] [] [] with
                scale := val v 1, units := us, scope := f.ctl.toNat / 2 ^ 11 % 8, lines := lines, granted := lines.isEmpty
                foot := s.accFoot c (.aepi f) l v })))

/-- R212, R219, R221 to R224: the oldest entry of a core that may start does so, with what it will write: ACLR a tile of zeros, AMOV the words of its
source, transposed with MOD[4], ALD the bytes latched, AST the words of the tile, MMA of INT8 the sums of products modulo 2^32. R72, R73, R216, R322: a
floating MMA or MMAG makes each element the sum of its products and the old element as `sumTerms` adds (FloatRounding says how), of FP4B24 one product
for each block, and the canonical NaN where B or the tile is poisoned. R223, R224: AEPI's data are the elements times the scale, +0 with RELU where
they are not above 0, rounded to the output format, then the largest magnitude as FP32. R225: each 8-byte unit that an AST or AEPI writes is performed
by itself, and AEPI's amax word takes the larger of its value and the new one. Once those are done, completion puts the tile in place (AMOV with the
poison of its source, R221), gives every thread of the crew the entry's flags and takes the entry from the queue; an entry that met poison then parks the
crew (R322). R218, R238, R322: the bytes of B arrive from tensor store once the dictionary that they are read through is ready; those that are
poisoned are kept with the entry. -/
def Obligations.AccumulatorEntries : Prop :=
   ((∀ (s : State) (core : Nat) (e : AccEntry) (x : Team), s.accq.find? (fun e => e.core == core && s.mayStart e) = some e →
        s.findTeam e.serial = some x → (∀ y ∈ s.accq, y.id = e.id → y = e) →
        ∃ r, exec (.accEntryStart core) s = .next { s with
            freeCtr := s.freeCtr + 4096, accq := s.accq.map (fun y => if y.id = e.id then r else y)
            accs := s.accs.map (fun a => if a.id = e.id
              then { a with hold := .none, units := a.units.mapIdx (fun k u => { u with data := val (entryData x e) k }) } else a) }
          ∧ r = { e with started := true, result := r.result, flags := r.flags, poison := r.poison }
          ∧ (∀ f, e.ins = .aclr f → ∀ d rest, e.dsts = d :: rest → r.result = [(d, [])] ∧ r.flags = e.flags ∧ r.poison = e.poison)
          ∧ (∀ f, e.ins = .amov f → ∀ d src, e.dsts = [d] → e.srcs = [src] →
              ∃ m, r.result = [(d, m)] ∧ ∀ i < 64, ∀ j < 64, m.readN (4 * (64 * i + j)) 4 =
                if f.mod.toNat / 16 % 2 = 1 then x.tileWord src (64 * j + i) else x.tileWord src (64 * i + j))
          ∧ (∀ f, e.ins = .ald f → ∀ d rest, e.dsts = d :: rest → ∃ m, r.result = [(d, m)] ∧ ∀ k < e.a.length, m.get k = (e.a[k]?).getD 0)
          ∧ (∀ f, e.ins = .ast f → ∀ src, e.srcs = [src] → (∀ k < 4096, x.tileBadAt src k = false) →
              r.poison = none ∧ ∀ k < 2048, val (entryData x e) k = x.tileWord src (2 * k) + 2 ^ 32 * x.tileWord src (2 * k + 1))
          ∧ (∀ f q, e.ins = .mma f → mmaFmt (f.ctl.toNat % 16) (f.ctl.toNat / 16 % 16) = some q → q.bits = 8 → (f.ctl.toNat % 16 = 8 ∨ f.ctl.toNat % 16 = 9) →
              e.bbad = [] → q.n = 64 → ∀ d, e.dsts = [d] → (∀ k < 4096, x.tileBadAt d k = false) →
              ∃ m, r.result = [(d, m)] ∧ ∀ i < 64, ∀ j < 64,
                let el := fun (b : List Byte) (n k : Nat) (fmt : Nat) => intVal 8 (fmt == 8) ((b[q.rowBytes * n + k]?).getD 0).toNat
                m.readN (4 * (64 * i + j)) 4 = wrap 32 ((if bit f.ctl.toNat 9 then 0 else (x.tileWord d (64 * i + j) : Int))
                  + ((List.range q.k).map (fun k => el e.a i k (f.ctl.toNat % 16) * el e.b j k (f.ctl.toNat / 16 % 16))).foldl (· + ·) 0))
          ∧ (∀ f q, (e.ins = .mma f ∨ e.ins = .mmag f) → mmaFmt (f.ctl.toNat % 16) (f.ctl.toNat / 16 % 16) = some q →
              ¬(q.bits = 8 ∧ (f.ctl.toNat % 16 = 8 ∨ f.ctl.toNat % 16 = 9)) → ∀ d, e.dsts = [d] →
              let fa := f.ctl.toNat % 16
              let fb := f.ctl.toNat / 16 % 16
              let w := if q.bits = 64 then 2 else 1
              let F := if q.bits = 64 then ffF64 else ffF32
              let za := bit f.ctl.toNat 9
              let cell := fun (b : List Byte) (n k : Nat) => ofBytes ((b.drop (q.rowBytes * n + k * q.bits / 8)).take (q.bits / 8))
              let nib := fun (b : List Byte) (n k : Nat) => fdecode ffE2M1 ((((b[q.rowBytes * n + k / 2]?).getD 0).toNat) / 2 ^ (4 * (k % 2)) % 16)
              let sc := fun (b : List Byte) (n k : Nat) => fdecode ffE3M5 ((b[q.rowBytes * n + 48 + k]?).getD 0).toNat
              let block := fun (i j b : Nat) =>
                let p := (List.range 24).foldl (fun y k => (addV y (mulV (nib e.a i (24 * b + k)) (nib e.b j (24 * b + k))).1).1) (.fin true 0 0)
                [p, sc e.a i b, sc e.b j b, fdecode ffBF16 (e.bandA % 2 ^ 16), fdecode ffBF16 (e.bandB % 2 ^ 16)].foldl (fun y z => (mulV y z).1) (.fin false 1 0)
              let terms := fun (i j : Nat) => if q.bits = 4 then (List.range 4).map (block i j)
                else (List.range q.k).map (fun k => (mulV (elemVal fa (cell e.a i k)) (elemVal fb (cell e.b j k))).1)
              let word := fun (i j : Nat) => 64 * i + w * j
              let acc := fun (i j : Nat) => if za then 0 else x.tileWord d (word i j) + (if w = 2 then 2 ^ 32 * x.tileWord d (word i j + 1) else 0)
              let bad := fun (i j : Nat) => e.bbad.any (fun b => b / q.rowBytes == j) || !za && (List.range w).any (fun k => x.tileBadAt d (word i j + k))
              r.poison = (if e.bbad ≠ [] then some 2 else if za = false ∧ (List.range 4096).any (x.tileBadAt d) = true then some 3 else none)
              ∧ ∃ m, r.result = [(d, m)] ∧ ∀ i < 64, ∀ j < q.n, word i j < 64 * (i + 1) → m.readN (4 * word i j) (4 * w) =
                  if bad i j then F.nan else (sumTerms F (if q.bits = 64 then 110 else 40) (terms i j ++ [fdecode F (acc i j)])).1)
          ∧ (∀ f src, e.ins = .aepi f → e.srcs = [src] → src = f.ctl.toNat % 16 → 1 ≤ f.ctl.toNat / 16 % 16 → f.ctl.toNat / 16 % 16 ≤ 6 → (∀ k < 4096, x.tileBadAt src k = false) →
              let o := f.ctl.toNat / 16 % 16
              let y := f.ctl.toNat / 2 ^ 14 % 4
              let n := if y = 2 then 32 else 64
              let b := fmtBits o / 8
              let old := fun (k : Nat) => if y = 2 then fdecode ffF64 (x.tileWord src (2 * k) + 2 ^ 32 * x.tileWord src (2 * k + 1))
                else if y = 1 then .fin (decide (signed 32 (x.tileWord src k) < 0)) (signed 32 (x.tileWord src k)).natAbs 0 else fdecode ffF32 (x.tileWord src k)
              let v := fun (k : Nat) =>
                let p := (mulV (old k) (fdecode ffF32 e.scale)).1
                if bit f.ctl.toNat 9 = true ∧ ltV (.fin false 0 0) p = false then FVal.fin false 0 0 else p
              r.poison = none
              ∧ (∀ u < 8 * n * b, val (entryData x e) u = ((List.range (8 / b)).map (fun t => (fround (outFmt o) (v (8 / b * u + t))).1 * 2 ^ (8 * b * t))).sum)
              ∧ val (entryData x e) (8 * n * b) = (fround ffF32 (((List.range (64 * n)).filter (fun k => v k != .nan)).foldl (fun a k => maxMag a (v k)) (.fin false 0 0))).1))
    ∧ (∀ (s : State) (e : AccEntry) (d k : Nat) (m : Memory) (c : Crew), s.accq.filter (fun y => y.id == e.id) = [e] → e.started = true → e.result = [(d, m)] →
        (∀ a ∈ s.accs, a.id = e.id → a.kind ≠ .tile) → (∀ y ∈ s.teams, y.serial = e.serial → y.ended = false) →
        s.crewAt e.serial e.crew = some k → s.crews[k]? = some c →
        let moved := fun (y : Team) => match e.ins, e.srcs with
          | .amov f, [src] => ((List.range 4096).filter (fun w => y.tileBadAt src (if f.mod.toNat / 16 % 2 = 1 then 64 * (w % 64) + w / 64 else w))).map (4096 * d + ·)
          | _, _ => []
        let done : State := { s with
          accq := s.accq.filter (fun y => y.id != e.id)
          teams := s.teams.map (fun y => if y.serial = e.serial
            then { y with tile := y.tile.set d m, tileBad := y.tileBad.filter (fun w => w / 4096 != d) ++ moved y } else y)
          crews := s.crews.set k { c with threads := c.threads.map (fun th => { th with flags := th.flags ||| BitVec.ofNat 32 (e.flags % 1024) }) } }
        ((∀ f, e.ins = .amov f → e.srcs.length = 1) → e.poison = none → exec (.accEntryComplete e.id) s = .next done)
        ∧ (∀ sub, (∀ f, e.ins = .amov f → e.srcs.length = 1) → e.poison = some sub → c.live ≠ 0 → Undebugged s c →
            ∃ t, exec (.accEntryComplete e.id) s = .next t ∧ FaultTaken done t k
              { cause := .poison, sub := sub, lmask := if (mmaFields e.ins).isSome then allLanes else maskOf [e.lane], pc := e.pc }))
    ∧ (∀ (s : State) (e : AccEntry) (k : Nat) (c : Crew), s.accq.filter (fun y => y.id == e.id) = [e] → e.started = true → e.result = [] →
        (∀ a ∈ s.accs, a.id = e.id → a.kind ≠ .tile) → s.crewAt e.serial e.crew = some k → s.crews[k]? = some c →
        let done : State := { s with
          accq := s.accq.filter (fun y => y.id != e.id)
          teams := s.teams.map (fun y => if y.serial = e.serial ∧ y.ended = true ∧ (∀ z ∈ s.accq, z.serial = e.serial → z.id = e.id)
            then { y with tile := [] } else y)
          crews := s.crews.set k { c with threads := c.threads.map (fun th => { th with flags := th.flags ||| BitVec.ofNat 32 (e.flags % 1024) }) } }
        (e.poison = none → exec (.accEntryComplete e.id) s = .next done)
        ∧ (∀ sub, e.poison = some sub → c.live ≠ 0 → Undebugged s c →
            ∃ t, exec (.accEntryComplete e.id) s = .next t ∧ FaultTaken done t k
              { cause := .poison, sub := sub, lmask := if (mmaFields e.ins).isSome then allLanes else maskOf [e.lane], pc := e.pc }))
    ∧ (∀ (s : State) (e : AccEntry) (a : Acc), s.accq.find? (fun y => y.id == e.id) = some e → a ∈ s.accs → a.id = e.id → a.kind = .tile →
        exec (.accEntryComplete e.id) s = .next s)
    ∧ (∀ (s : State) (id k : Nat) (a : Acc) (u : AUnit), Performs s id k a u → a.kind = .tile →
        (∀ pa, u.loc = .phys pa → pa / 256 ∉ s.store.poison) →
        let done := fun (t : State) (d : Nat) => t = { s with accs := accsAfter s a k d, teams := t.teams, store := t.store }
        (u.size = 8 → ∃ t, exec (.homeAcknowledgement id k) s = .next t ∧ BytesWritten s t true u.loc (toBytes 8 u.data) ∧ done t u.data)
        ∧ (u.size = 4 → NoW s u.loc 4 → s.poisonRead (dieOf a.core) u.loc 4 = none →
            ∃ t, exec (.homeAcknowledgement id k) s = .next t ∧ done t u.data
              ∧ BytesWritten s t false u.loc (toBytes 4 (fminmax ffF32 true (ofBytes (s.readLoc (dieOf a.core) u.loc 4)) u.data)))))
  ∧
   (∀ (s : State) (e : AccEntry), s.accq.find? (fun y => y.id == e.id) = some e → e.bsrc ≠ [] → s.dictReady e.ctx e.dict e.gen = true →
      s.frozen e.ctx = false → s.store.upsets = [] →
      let got := fun (p : Place) => s.placeByte (dieOf e.core) e.ctx p
      ∃ t, exec (.tensorReadComplete e.id) s = .next t ∧ t = { s with
        store := { s.store with llc := t.store.llc }
        accq := s.accq.map (fun y => if y.id = e.id
          then { y with b := e.bsrc.map (fun p => (got p).1), bsrc := []
                        bbad := (List.range e.bsrc.length).filter (fun k => (e.bsrc[k]?).any (fun p => (got p).2)) } else y) })

/-- R210, R226 to R233, R239: where no check stops it and no lane meets a page fault, TCOPY enters one copy for each lane, and DICTLD one load; a lane
whose copy has its lines in G (or has none) goes on, and the copy counts for its open batch; a lane whose copy waits for its lines stands STALLED.
R117, R224, R232: the last destination line of a TCOPY or an AEPI is held in G: the lane, or the bundle, that stood STALLED for it goes on, and the
copy, whose dictionary is bound then, may act, or the entry enters the queue. R109: their issue at `.stk` or wider leaves the die no W sector. R324:
a TCOPY that reads its record at issue has the codewords of the record checked first. -/
def Obligations.CopyInstructions : Prop :=
   (∀ (f : F128X) (s : State) (iss : Issue) (c : Crew), Issues s iss c →
      let em := guardMask c iss.mask f.h
      let ls := lanesOf em
      let goes := fun (granted : Nat → Bool) (fl : Nat → Nat) (l : Nat) (th : Thread) =>
        if em.getLsbD l then
          let th := { th with flags := th.flags ||| BitVec.ofNat 32 (fl l % 1024)
                              openOps := th.openOps ++ if granted l then [s.nextId + l] else [] }
          if granted l then onward (th.pc + 16) s.cycle th else { th with st := .stalled, why := .grant }
        else if iss.mask.getLsbD l then onward (th.pc + 16) s.cycle th else th
      let free := fun (srcs : List (Use × Src)) (slots scope : Nat) => em ≠ 0 ∧ c.frames = [] ∧ (∀ x ∈ srcs, x.2.last = 0)
        ∧ (3 ≤ scope → s.pushHeld (dieOf c.core) (fun _ => true) = false)
        ∧ operandCheck s c iss.mask em em iss.pc srcs 255 1 false = none ∧ boundLanes c em srcs 255 1 = 0
        ∧ (∀ l ∈ ls, s.openCopies c.team c.id l < 64) ∧ (slots = 0 ∨ s.slotsHeld c.team c.id + slots ≤ 11)
      let pushed := fun (t : State) (scope : Nat) => Looked s t
        ∧ (3 ≤ scope → s.dieGone (dieOf c.core) = false → ∀ w ∈ t.store.wsecs, w.die ≠ dieOf c.core)
      (∀ (cp : Nat → Copy) (fl : Nat → Nat) (vas : Nat → List Nat),
        let here := (tcFields f).nr = false ∧ (tcFields f).dk = 0
        let seen := if here then ls.foldl (fun m l => m.recordCheck c l (val (tcopyArgs m c iss.mask f l).vals 0)) s else s
        free (tcSrcs f) (if (tcFields f).sk = 0 ∨ (tcFields f).dk = 0 then 1 else 0) (tcFields f).scope → (here → s.rr.run = none) →
        (∀ l ∈ ls, tcopyLane seen c iss (.tcopy f) f l = .copy (cp l) (fl l) (vas l) ∧ (cp l).lane = l) →
        ∃ t b, exec (.tcopy f) s = .next t ∧ pushed t (tcFields f).scope
          ∧ ((tcFields f).scope < 3 → (∀ l ∈ ls, vas l = []) → t.store = s.store ∧ t.pkg = s.pkg)
          ∧ t = { s with nextId := s.nextId + 33, copies := s.copies ++ ls.map (fun l => { cp l with id := s.nextId + l })
                         store := t.store, pkg := t.pkg
                         crews := s.crews.set iss.crew { c with bundles := b, threads := c.threads.mapIdx (goes (fun l => (cp l).granted) fl) } })
      ∧ (∀ (loc : Nat → List Loc) (lf : Nat → Option Leaf) (fl : Nat → Nat),
        let rd := fun l => readLane s c iss.mask [(.w64, f.s1)] l
        free [(.w64, f.s1)] 1 (f.ctl.toNat / 2 ^ 11 % 8) →
        (∀ l ∈ ls, val (rd l).vals 0 % 1024 = 0 ∧ fl l = readFlags (rd l)
          ∧ ∃ xs, s.enginePieces c l .read ((List.range 128).map (fun k => ((val (rd l).vals 0 + 8 * k) % 2 ^ 64, 8))) = .ok xs ∧ xs.map (·.1) = loc l
            ∧ xs.head?.bind (·.2) = lf l) →
        ∃ t b, exec (.dictld f) s = .next t ∧ pushed t (f.ctl.toNat / 2 ^ 11 % 8)
          ∧ t = { s with
              nextId := s.nextId + 33, store := t.store, pkg := t.pkg
              dictlds := s.dictlds ++ ls.map (fun l =>
                { id := s.nextId + l, serial := c.team, crew := c.id, lane := l, core := c.core, ctx := (s.teamOf c).ctx, pc := iss.pc
                  scope := f.ctl.toNat / 2 ^ 11 % 8, slot := f.ctl.toNat % 8, addr := val (rd l).vals 0, image := loc l
                  cls := ((lf l).getD default).cls, shr := ((lf l).getD default).shr, written := 0
                  todo := (List.range 8).filter (fun k => f.ctl.toNat / 2 ^ (3 + k) % 2 == 1), reached := [], fenced := false, failed := none })
              crews := s.crews.set iss.crew { c with bundles := b, threads := c.threads.mapIdx (goes (fun _ => true) fl) } }))
  ∧
   ((∀ (s : State) (k : Nat) (c : Crew) (x : Copy) (th : Thread), s.crewAt c.team c.id = some k → s.crews[k]? = some c → c.threads[x.lane]? = some th →
      th.st = .stalled → th.why = .grant → x.lane < 32 → s.copies.filter (fun y => y.id == x.id) = [x] →
      s.copies.find? (fun y => y.serial == c.team && y.crew == c.id && y.lane == x.lane && !y.granted) = some x → s.linesFree x.id c.team c.id x.lane x.lines = true →
      s.pushWaits x.fields.scope x.core = false →
      ∃ t b, exec (.destinationLinesHeldInG c.team c.id x.lane) s = .next t
        ∧ (x.fields.scope < 3 → t.store = s.store) ∧ Looked s t
        ∧ (3 ≤ x.fields.scope → s.dieGone (dieOf x.core) = false → ∀ w ∈ t.store.wsecs, w.die ≠ dieOf x.core)
        ∧ t = { s with
            copies := copiesWith s x.id { x with
              granted := true, gen := match x.dict with | some (n, j) => (s.dict x.ctx n j).gen | none => x.gen }
            store := t.store
            crews := s.crews.set k { c with bundles := b, threads := c.threads.set x.lane (onward (th.pc + 16) s.cycle { th with openOps := th.openOps ++ [x.id] }) } })
    ∧ (∀ (s : State) (k lane : Nat) (c : Crew) (e : AccEntry) (m : Mask), s.crewAt c.team c.id = some k → s.crews[k]? = some c →
      (c.thread lane).st = .stalled → (c.thread lane).why = .grant →
      (∀ y ∈ s.copies, y.serial = c.team → y.crew = c.id → y.lane = lane → y.granted = true) →
      s.accq.find? (fun y => y.serial == c.team && y.crew == c.id && y.lane == lane && !y.granted) = some e → s.linesFree e.id c.team c.id lane e.lines = true →
      s.queued e.core < 16 → c.bundles.find? (fun b => b.getLsbD lane) = some m →
      ∃ t b, exec (.destinationLinesHeldInG c.team c.id lane) s = .next t
        ∧ t = { s with
            accq := enterQueue (s.accq.filter (fun y => y.id != e.id)) { e with granted := true, entered := s.cycle, sched := c.sched }
            accs := s.accs ++ tileAccs { e with granted := true, entered := s.cycle, sched := c.sched }
            crews := s.crews.set k { c with bundles := b, threads := c.threads.mapIdx (fun l th => if m.getLsbD l then onward (th.pc + 16) s.cycle th else th) } }))

/-- R117, R118, R228 to R234, R188: what the engine of a copy does: reads the first element of a dense record, or a chain element and lays its bytes
out; writes one aligned unit of the destination from its source; arrives at a receiver's object with the bytes moved, or ends there where the object
reads as poisoned (R321); completes; or ends with COPY_FAULT. -/
def Obligations.CopyEngines : Prop :=
  ∀ (s : State) (id : Nat) (c : Copy),
    (∀ a v, CopyActs s id c → s.store.upsets = [] → c.elem = some a → c.held = none → c.first = none → c.elems = 0 →
      s.engineRead c a 32 = .ok (toBytes 32 v) → v < 2 ^ 256 → v % 4 = 1 →
      ∃ t, exec (.copyElementRead id) s = .next t ∧ Looked s t
        ∧ t = { s with store := t.store, pkg := t.pkg, copies := copiesWith s id { c with
            fenced := true, first := some v, elem := some ((a + 32) % 2 ^ 64), elems := 1 } })
    ∧ (∀ a v n, CopyActs s id c → s.store.upsets = [] → c.elem = some a → c.held = none → c.first = none → c.fields.sk = 0 → 2 ≤ c.fields.dk →
      c.elems < 65536 → s.engineRead c a 32 = .ok (toBytes 32 v) → v < 2 ^ 256 →
      (v % 4 = 2 ∧ n = v / 2 ^ 8 % 2 ^ 24 ∧ n % 16 = 0 ∧ 16 ≤ n ∧ v / 2 ^ 64 % 16 = 0 ∧ v / 4 % 2 = 0 ∧ (v / 8 % 2 = 1 ∨ v / 2 ^ 192 % 32 = 0)) →
      ∀ ms, Copy.lay s c ((List.range n).map (fun j => .va ((v / 2 ^ 64 % 2 ^ 64 + j) % 2 ^ 64))) = (ms, none) →
      ∃ t, exec (.copyElementRead id) s = .next t ∧ Looked s t ∧ t = { s with store := t.store, pkg := t.pkg, copies := copiesWith s id { c with
        fenced := true, elem := if v / 8 % 2 = 1 then none else some (v / 2 ^ 192), elems := c.elems + 1, run := c.run + n, moves := c.moves ++ ms } })
    ∧ (∀ (unit ser o : Nat) (m : Move) (bs : List Byte), CopyActs s id c → s.store.upsets = [] → c.plane = none → c.moves[unit]? = some m → m.done = false →
      s.dictReady c.ctx c.dict c.gen = true → s.moveBytes c m.srcs = .ok bs → bs.length = m.dsts.length →
      m.dsts = (List.range bs.length).map (fun j => .at (.scr ser (o + j))) → bs ≠ [] →
      ∃ t, exec (.copyDataWrite id unit) s = .next t ∧ Looked s t
        ∧ t = { s with
            store := t.store
            pkg := t.pkg
            copies := copiesWith s id { c with fenced := true, moves := c.moves.set unit { m with done := true }, written := c.written + bs.length }
            teams := t.teams }
        ∧ t.teams.length = s.teams.length
        ∧ ∀ (j : Nat) (y : Team), s.teams[j]? = some y → ∃ y' : Team, t.teams[j]? = some y' ∧ y' = { y with scr := y'.scr, scrBad := y'.scrBad }
            ∧ y'.scr = if y.serial = ser then y.scr.putBytes o bs else y.scr)
    ∧ (∀ (n : Nat) (r : Recv), s.copies.filter (fun x => x.id == id) = [c] → c.recvs[n]? = some r → r.arrived = false → c.elem = none → c.failed = none →
      c.granted = true → s.frozen c.ctx = false → (∀ m ∈ c.moves, (c.targets.length ≤ 1 ∨ m.recv = n) → m.done = true) → c.fields.scope < 3 →
      let bad := (s.poisonRead (dieOf c.core) (.scr r.serial r.off) 16).isSome
      let o := ofBytes (s.readLoc (dieOf c.core) (.scr r.serial r.off) 16)
      let expc := o / 2 ^ 16 % 2 ^ 16
      let pend := o / 2 ^ 32 % 2 ^ 16
      let left := ((o / 2 ^ 64 % 2 ^ 64 : Nat) : Int) - c.run
      let new := if expc ≠ 0 ∧ pend = 0 ∧ wrap 64 left = 0 then 1 - o % 2 + 2 ^ 16 * expc + 2 ^ 32 * expc
        else o % 2 + 2 ^ 16 * expc + 2 ^ 32 * pend + 2 ^ 64 * wrap 64 left
      (bad = false → exec (.copyArrival id n) s = .next { s with
        copies := copiesWith s id { c with recvs := c.recvs.set n { r with arrived := true } }
        teams := s.teams.map (fun y => if y.serial = r.serial then { y with scr := y.scr.putBytes r.off (toBytes 16 new) } else y) })
      ∧ (bad = true → exec (.copyArrival id n) s = .next { s with
        copies := copiesWith s id { c with failed := some (.poison, r.off), held := none, page := none, moves := c.moves.filter (·.done) } }))
    ∧ (∀ (k : Nat) (w : Crew), s.copies.filter (fun x => x.id == id) = [c] → s.crewAt c.serial c.crew = some k → s.crews[k]? = some w →
      let gone := { s with
        copies := s.copies.filter (fun x => x.id != id)
        crews := s.crews.set k { w with threads := w.threads.mapIdx (fun l th => if l = c.lane
          then { th with openOps := th.openOps.filter (· != id), batches := th.batches.map (fun b => b.filter (· != id)) } else th) } }
      (c.granted = true → c.elem = none → c.failed = none → (∀ m ∈ c.moves, m.done = true) → (∀ r ∈ c.recvs, r.arrived = true) →
        exec (.copyComplete id) s = .next gone)
      ∧ (∀ cause addr, c.granted = true → c.failed = some (cause, addr) → (∀ m ∈ c.moves, m.done = true) → w.live ≠ 0 → Undebugged s w →
        ∃ t, exec (.copyFault id) s = .next t
          ∧ FaultTaken gone t k { cause := .copyFault, sub := cause.code, lmask := maskOf [c.lane], pc := c.pc, addr := addr
                                  info := c.written % 2 ^ 32, ilane := c.lane }))

/-- R235 to R237: SEAL numbers the open batch of each lane and opens another; WAITB waits until at most n sealed batches are unfinished (that an n above 7 counts as 7 is
the model's choice, log 51); a batch whose
operations are complete finishes once the one before it has, and waits that it ends go on. R238, R239: a dictionary load reaches a stack's slot
unit, and the generation rises; once no read bound to an older generation is left, and no older load, the entries are the image, and a load that has
written in every stack it names completes. -/
def Obligations.BatchesAndDictionaries : Prop :=
   ((∀ (f : F64) (s : State) (iss : Issue) (c : Crew), c.frames = [] → LaneRuns s iss c f.h [] 1 false →
      (∀ l ∈ lanesOf (guardMask c iss.mask f.h), (c.thread l).batches.length < 8) →
      ∃ t t0, exec (.seal f) s = .next t
        ∧ LaneDone s t0 iss c (guardMask c iss.mask f.h) f.h [] 1 8 (fun _ => false) (fun l => (c.thread l).batchNo.toNat) (fun _ => 0)
        ∧ t = t0.modCrew iss.crew (fun k => k.modLanes (guardMask c iss.mask f.h) (fun _ th =>
            { th with batchNo := th.batchNo + 1, batches := th.batches ++ [th.openOps], openOps := [] })))
    ∧ (∀ (f : F64) (s : State) (iss : Issue) (c : Crew), Issues s iss c → c.frames = [] →
      let em := guardMask c iss.mask f.h
      let srcs : List (Use × Src) := [(.w32, f.s1)]
      let rd := fun l => readLane s c iss.mask srcs l
      let few := fun l => decide ((c.thread l).batches.length ≤ min (val (rd l).vals 0) 7)
      let pend := fun (l : Nat) =>
        ({ conds := [.batch (min (val (rd l).vals 0) 7)], all := false, msz := 4, mrel := 0, dst := 255, creg := none, len := 8
           elapsed := 0, polled := 0, vals := [], addr := 0 } : Pending)
      f.s1.last = 0 → operandCheck s c iss.mask em em iss.pc srcs 255 1 false = none → boundLanes c em srcs 255 1 = 0 → c.threads.length = 32 →
      (∀ l < 32, (c.thread l).st ≠ .waiting ∧ ((c.thread l).st = .ready → (c.thread l).why = .none)) →
      ∃ t, exec (.waitb f) s = .next t
        ∧ CrewGoes s t iss.crew c (fun l th =>
            let th' := { th with flags := th.flags ||| BitVec.ofNat 32 (readFlags (rd l) % 1024), lastIssue := s.cycle, relog := none, why := .none }
            if em.getLsbD l then
              if few l then { th' with pc := th.pc + 8, st := .ready, woke := true, wait := none }
              else { th' with st := .waiting, wait := some (pend l) }
            else if iss.mask.getLsbD l then onward (th.pc + 8) s.cycle th else th))
    ∧ (∀ (s : State) (k lane : Nat) (c : Crew) (th : Thread) (rest : List (List Nat)), s.crewAt c.team c.id = some k → s.crews[k]? = some c →
      c.threads[lane]? = some th → th.batches = [] :: rest → (∀ x ∈ c.threads, x.st ≠ .waiting) →
      exec (.batchFinish c.team c.id lane) s = .next { s with crews := s.crews.set k { c with threads := c.threads.set lane { th with batches := rest } } })
    ∧ (∀ (s : State) (k lane n : Nat) (c : Crew) (th : Thread) (p : Pending) (rest : List (List Nat)), s.crewAt c.team c.id = some k → s.crews[k]? = some c →
      c.threads.length = 32 → c.threads[lane]? = some th → th.batches = [] :: rest → (∀ j x, c.threads[j]? = some x → j ≠ lane → x.st ≠ .waiting) →
      (∀ x ∈ c.threads, x.st = .ready → x.why = .none) → th.st = .waiting → th.wait = some p → p.conds = [.batch n] → p.creg = none →
      let on := (if p.dst = 255 then th else th.setPred (p.dst - 200) true)
      ∃ b, exec (.batchFinish c.team c.id lane) s = .next { s with crews := s.crews.set k { c with
          bundles := b
          threads := c.threads.set lane (if rest.length ≤ n
            then { on with batches := rest, pc := th.pc + BitVec.ofNat 64 p.len, st := .ready, why := .none, woke := true, relog := none, wait := none }
            else { th with batches := rest }) } }))
  ∧
   ((∀ (s : State) (d : DictLoad) (stack : Nat), s.dictlds.filter (fun x => x.id == d.id) = [d] → stack ∈ d.todo → d.failed = none →
      (∀ a ∈ s.accs, a.serial = d.serial → a.crew = d.crew → a.lane = d.lane → a.id < d.id → a.kind = .copy) → s.frozen d.ctx = false →
      (d.fenced = true ∨ d.scope < 3) →
      ∃ t, exec (.dictldSlotRequest d.id stack) s = .next t
        ∧ t = { s with dicts := t.dicts, dictlds := s.dictlds.map (fun x => if x.id = d.id then { d with
            fenced := true, todo := d.todo.filter (· != stack), reached := d.reached ++ [(stack, (s.dict d.ctx stack d.slot).gen + 1)] } else x) }
        ∧ t.dict d.ctx stack d.slot = { s.dict d.ctx stack d.slot with gen := (s.dict d.ctx stack d.slot).gen + 1 }
        ∧ ∀ x y z, (x, y, z) ≠ (d.ctx, stack, d.slot) → t.dict x y z = s.dict x y z)
    ∧ (∀ (s : State) (d : DictLoad) (stack g k : Nat) (c : Crew), s.dictlds.filter (fun x => x.id == d.id) = [d] →
      d.reached.find? (fun r => r.1 == stack) = some (stack, g) → d.failed = none → s.olderReads d.ctx stack d.slot g = false →
      s.dictReady d.ctx (some (stack, d.slot)) (g - 1) = true → (∀ l ∈ d.image, s.poisonRead (dieOf d.core) l 8 = none ∧ s.locInG d.id l = false) →
      (∀ pa, Loc.phys pa ∈ d.image → s.fabricHolds (some (dieOf d.core)) pa = false) →
      s.frozen d.ctx = false → s.store.upsets = [] → (∀ w ∈ s.store.wsecs, w.die ≠ dieOf d.core) →
      s.crewAt d.serial d.crew = some k → s.crews[k]? = some c →
      let last := d.todo.isEmpty && d.reached.all (fun r => r.1 == stack)
      ∃ t, exec (.dictldSlotWrite d.id stack) s = .next t
        ∧ t = { s with
            dicts := t.dicts
            store := { s.store with l2 := t.store.l2, llc := t.store.llc }
            dictlds := if last then s.dictlds.filter (fun x => x.id != d.id)
              else s.dictlds.map (fun x => if x.id = d.id then { d with reached := d.reached.filter (fun r => r.1 != stack), written := d.written + 1024 } else x)
            crews := if last then s.crews.set k { c with threads := c.threads.mapIdx (fun l th => if l = d.lane
              then { th with openOps := th.openOps.filter (· != d.id), batches := th.batches.map (fun b => b.filter (· != d.id)) } else th) } else s.crews }
        ∧ ∀ j, (t.dict d.ctx stack d.slot).entries.get j =
            ((d.image.flatMap (fun l => s.readLoc (dieOf d.core) l 8))[j]?).getD 0))

/-- R303 to R306: the lanes of a memory instruction that wait to be replayed, or for a prediction to be confirmed, look their pages up again together,
and where the pages are there now each access goes on with its units; the flags of a converting store are raised in its lane. R359: in replay an access whose recorded sources have all
reached their clocks waits no longer; that only the records below LCP say which those are is the model's choice (log 43). -/
def Obligations.Replays : Prop :=
   (∀ (s : State) (a : Acc) (d : MemDesc) (k : Nat) (c : Crew) (g : List Acc) (p : Acc → LanePlan), a ∈ g →
      s.accs.filter (fun b => b.group == a.group && b.hold == a.hold) = g → g.Pairwise (fun x y => x.lane < y.lane) →
      (∀ b ∈ g, b.serial = a.serial ∧ b.crew = a.crew ∧ b.ins = a.ins ∧ ∀ y ∈ s.accs, y.id = b.id → y = b) →
      (a.hold = .replay ∨ a.hold = .predict) → a.kind ≠ .epi → a.kind ≠ .copy → memDesc a.ins = some d →
      s.crewAt a.serial a.crew = some k → s.crews[k]? = some c →
      blockRule (g.map (fun b => (b.lane, d.plan s c b.lane b.vals))) = g.map (fun b => (b.lane, .ok (p b))) → s.replayReady c a = true →
      (∀ b ∈ g, ∀ x, b.late = some x → ∃ st, d.fmtAt s c b.lane b.vals = .ok st ∧ d.lateStop x (s.teamOf c).strict st = none) →
      ∃ t, exec (.pageFaultReplay a.id) s = .next t ∧ (∀ e, e ∈ t.store.coreTlb ↔ e ∈ s.store.coreTlb) ∧ t = { s with
        store := { s.store with coreTlb := t.store.coreTlb, lookups := (s.dropFailed c).store.lookups }
        accs := s.accs.map (fun b => if b.group = a.group ∧ b.hold = a.hold then { b with
          units := (p b).units, sfmt := (p b).sfmt, addr := (p b).addr, foot := (p b).foot, core := c.core
          late := none
          nreg := if b.late.isSome then d.dk (p b).sfmt else b.nreg
          hold := if s.recMode (s.teamOf c) = 2 ∧ b.phys = false ∧ recKind b.kind = true ∧ ((p b).units.any (fun u => (recUnit b.serial u.loc).isSome)) = true
            then .clock else .none } else b)
        crews := s.crews.set k { c with threads := c.threads.mapIdx (fun l th => match g.find? (fun b => b.lane == l) with
          | some b =>
            let th := { th with flags := th.flags ||| BitVec.ofNat 32 ((p b).flags % 1024) }
            match b.late with
            | none => th
            | some x => (th.settleRun x (d.kind == .load) (d.runLen (p b).sfmt)).raise (if d.lateZero x (p b).sfmt then flZREAD else 0)
          | none => th) } })
  ∧
   (∀ (s : State) (id k : Nat) (a : Acc) (c : Crew) (x : Team), s.accs.find? (fun b => b.id == id) = some a → a.hold = .clock →
      s.crewAt a.serial a.crew = some k → s.crews[k]? = some c → s.findTeam a.serial = some x →
      (∀ r, s.rr.run = some r → ∀ j < min s.rr.lcp r.size, let e := recordAt s r j
        e.2 = (x.teamid, 32 * c.id + a.lane, (s.rr.clock x.teamid (32 * c.id + a.lane) + 1) % 2 ^ 32) → e.1.2.2 ≤ s.rr.clock e.1.1 e.1.2.1) →
      exec (.replayAccessRelease id) s = .next { s with accs := s.accs.map (fun b => if b.id = id then { b with hold := .none } else b) })

/-! ### Privileged instructions -/

/-- R247, R135, R267: at a level below the one it needs, a privileged instruction that is not ILLEGAL takes PRIV_OP for its whole bundle (LMASK is the
model's choice, log 60) and does nothing else. -/
def Obligations.PrivilegeCheck : Prop :=
  ∀ (s : State) (iss : Issue) (c : Crew), Issues s iss c →
    let low := fun (level : Nat) => (s.teamOf c).level < level
    let traps := fun (i : Instr) => exec i s = .next (s.takeFault iss.crew { cause := .privOp, lmask := iss.mask, pc := iss.pc })
    (∀ f : F64, low 1 →
      let fine := fun (h : Hdr) (srcs : List (Use × Src)) => oddAt c (guardMask c iss.mask h) srcs 255 1 false = false
      let one := fine f.h [(.w32, f.s1)]
      let two := fine f.h [(.w32, f.s1), (.w32, f.s2)]
      let none := fine f.h []
      (fine f.h [(.w64, f.s1), (.w32, f.s2)] → traps (.tlbinv f)) ∧ ((if bit f.mod.toNat 3 then none else one) → traps (.tlbinva f))
      ∧ (one → traps (.park f)) ∧ (one → traps (.resume f)) ∧ ((if bit f.mod.toNat 1 then two else one) → traps (.kill f))
      ∧ (fine f.h [(.w32, f.s1), (.w64, f.s2)] → traps (.ctxsave f)) ∧ (fine f.h [(.w64, f.s1)] → traps (.ctxrest f))
      ∧ (two → traps (.split f)) ∧ (one → traps (.seedset f)) ∧ (one → traps (.eret f))
      ∧ (fine f.h ((if bit f.mod.toNat 0 then [] else [(.w32, f.s1)]) ++ [(.w64, f.s2)]) → traps (.gtinv f))
      ∧ ((if bit f.mod.toNat 0 then none else one) → traps (.htinv f)))
    ∧ (∀ f : F128M, low 1 →
      let fine := fun (srcs : List (Use × Src)) => oddAt c (guardMask c iss.mask f.h) srcs 255 1 false = false
      let legal := fun (i : Instr) => ∀ d, memDesc i = some d →
        memIllegal s c iss.mask (guardMask c iss.mask f.h) iss.pc d = none
      (fine [(.w64, f.s1), (.w32, f.s2)] → traps (.htwr f)) ∧ (fine [(.w64, f.s1), (.w32, f.s2), (.w64, f.s3)] → traps (.gtwr f))
      ∧ (legal (.ldphys f) → traps (.ldphys f)) ∧ (legal (.stphys f) → traps (.stphys f)))
    ∧ (∀ f : F96I,
      let n := f.imm.toNat % 2 ^ 16
      (low (if n = 0x13 ∨ n = 0x14 then 2 else 1) →
        oddAt c (guardMask c iss.mask f.h) [(useW (bit f.mod.toNat 0), f.s1)] 255 1 false = false → traps (.swr f))
      ∧ (low (if n = 0x000 ∨ n = 0x001 ∨ n = 0x003 ∨ n = 0x010 ∨ n = 0x012 then 0 else 1) →
        oddAt c (guardMask c iss.mask f.h) [] f.h.dst.toNat (regsOf (bit f.mod.toNat 0)) (bit f.mod.toNat 0) = false → traps (.srd f)))

/-- R252, R253, R257, R315, R316: SRD gives every lane the special register that it names. TR.NEXT claims the oldest record of the domain that is
neither claimed nor ended, and gives its index plus 1. TR.FDT and TID.RCB read as they were written, bits that R315 ignores and the address at which
the launch found its RCB (the model's choices, logs 55 and 17). -/
def Obligations.SpecialRegistersRead : Prop :=
  ∀ (f : F96I) (s : State) (iss : Issue) (c : Crew),
    let n := f.imm.toNat % 2 ^ 16
    let k := if bit f.mod.toNat 0 then 2 else 1
    let em := guardMask c iss.mask f.h
    let t := s.teamOf c
    let x := s.ctxOf t.ctx
    let gives := fun (s' : State) (c' : Crew) (v : Nat) => ∃ u, exec (.srd f) s = .next u ∧ LaneDone s' u iss c' em f.h [] k 12 (fun _ => false) (fun _ => v) (fun _ => 0)
    LaneRuns s iss c f.h [] k false → (n ∉ [0x000, 0x001, 0x003, 0x010, 0x012] → 1 ≤ t.level) →
    (n = 0x000 → gives s c (t.level + if c.secure then 4 else 0)) ∧ (n = 0x001 → gives s c t.ctx) ∧ (n = 0x002 → gives s c c.asid)
    ∧ (n = 0x003 → gives s c c.frames.length) ∧ (n = 0x010 → gives s c (x.ways (dieOf c.core))) ∧ (n = 0x011 → gives s c x.seed.toNat)
    ∧ (n = 0x012 → gives s c x.wayq.toNat) ∧ (n = 0x013 → gives s c x.htab.toNat) ∧ (n = 0x014 → gives s c x.asids.toNat)
    ∧ (n = 0x020 → gives s c t.rcbVa) ∧ (n = 0x021 → gives s c c.fdom) ∧ (n = 0x022 → gives s c (c.id % 16 + 16 * (c.team % 2 ^ 24)))
    ∧ (∀ p, n = 0x030 → s.partOf t.ctx = some p → gives s c
        (((s.pkg.dies.filter (fun d => decide (p.first ≤ d.phys) && decide (d.phys < p.first + 2 ^ p.log2))).filterMap (·.log)).foldl Nat.min 15 % 16
          + 16 * p.log2 + 256 * p.num))
    ∧ (n = 0x031 → gives s c ((s.pkg.dies.map (fun d => match d.log with | some j => 4 ^ j * d.cls | none => 0)).sum))
    ∧ (n = 0x100 → gives s c x.fdt.toNat)
    ∧ (n = 0x102 → gives s c (match c.claim with | some q => (q.index + 1) % 2 ^ 32 | none => 0))
    ∧ (∀ j < 8, n = 0x110 + j → gives s c (match c.claim with | some q => ((q.dws[j]?).getD 0).toNat | none => 0))
    ∧ (∀ r, n = 0x101 → em ≠ 0 → c.claim = none →
        (s.ringOf t.ctx c.fdom).recs.find? (fun y => !y.claimed && !y.ended) = some r →
        let q : Claim := { fdom := c.fdom, index := r.index, rid := r.fault.rid, dws := (s.recDws r.fault c.fdom r.index).map (BitVec.ofNat 64) }
        ∃ s', s' = { s with cp := { s.cp with rings := s'.cp.rings }, crews := s.crews.set iss.crew { c with claim := some q } }
          ∧ (s'.ringOf t.ctx c.fdom).recs = (s.ringOf t.ctx c.fdom).recs.map (fun y => if y.index = r.index then { y with claimed := true } else y)
          ∧ gives s' { c with claim := some q } ((r.index + 1) % 2 ^ 32))
    ∧ (n = 0x101 → c.claim = none → (∀ y ∈ (s.ringOf t.ctx c.fdom).recs, y.claimed = true ∨ y.ended = true) → gives s c 0)

/-- R253, R257, R258, R262, R263, R265, R266: what SWR writes, what TLBINV and TLBINVA take from the TLBs, and the operations that SWR of CTX.HTAB,
TLBINV, SPLIT, SEEDSET, HTWR and HTINV begin, for which their crew waits. That TR.FDT keeps the bits that R315 ignores is log 55, that a WAIT whose MEM
word TLBINV may have moved issues again log 125. -/
def Obligations.ContextInstructions : Prop :=
  (∀ f : F96I,
    let n := f.imm.toNat % 2 ^ 16
    let changes := fun (g : Nat → Ctx → Ctx) => PrivLaw (.swr f) f.h [(useW (bit f.mod.toNat 0), f.s1)] 12 (if n = 0x014 then 2 else 1) (fun _ _ _ _ _ => True)
      (fun s c _ _ v t => t = { s with ctxs := s.ctxs.map (fun x => if x.id = (s.teamOf c).ctx then g (val v 0) x else x) })
    (n = 0x012 → changes (fun v x => { x with wayq := BitVec.ofNat 32 (v % 2 ^ 16) })) ∧ (n = 0x014 → changes (fun v x => { x with asids := BitVec.ofNat 32 v }))
    ∧ (n = 0x100 → changes (fun v x => { x with fdt := BitVec.ofNat 64 v }))
    ∧ (n = 0x013 → PrivLaw (.swr f) f.h [(useW (bit f.mod.toNat 0), f.s1)] 12 2 (fun _ _ _ _ _ => True)
        (fun s _ k _ v t => DrainBegun s t k (.htab (BitVec.ofNat 64 (val v 0 % 2 ^ 63))))))
  ∧ (∀ f : F64,
    let scope := f.mod.toNat % 8
    let calm := fun (s : State) (c : Crew) => scope < 3 ∨ ∀ w ∈ s.store.wsecs, w.die ≠ dieOf c.core
    let first := fun (s : State) (c : Crew) => (s.ctxOf (s.teamOf c).ctx).asids.toNat % 2 ^ 16
    let count := fun (s : State) (c : Crew) => (s.ctxOf (s.teamOf c).ctx).asids.toNat / 2 ^ 16
    let own := fun (s : State) (c : Crew) (a : Nat) => first s c ≤ a ∧ a < first s c + count s c
    let cleared := fun (s t : State) (c : Crew) (k lo n : Nat) (va : Option Nat) =>
      ∃ s' s'', TlbWithout s s' lo n va c.core scope ∧ WaitsAgain s' s'' lo n va c.core scope
        ∧ DrainBegun s'' t k (.tlb lo n va c.core scope (s.tlbUsers (s.teamOf c).ctx lo n va c.core scope))
    PrivLaw (.tlbinv f) f.h [(.w64, f.s1), (.w32, f.s2)] 8 1 (fun s c _ _ v => CrewsWhole s ∧ calm s c ∧ own s c (val v 1 % 2 ^ 16))
      (fun s c k _ v t => cleared s t c k (val v 1 % 2 ^ 16) 1 (some (val v 0 % 2 ^ 57)))
    ∧ (bit f.mod.toNat 3 = false → PrivLaw (.tlbinva f) f.h [(.w32, f.s1)] 8 1 (fun s c _ _ v => CrewsWhole s ∧ calm s c ∧ own s c (val v 0 % 2 ^ 16))
        (fun s c k _ v t => cleared s t c k (val v 0 % 2 ^ 16) 1 none))
    ∧ (bit f.mod.toNat 3 = true → PrivLaw (.tlbinva f) f.h [] 8 1 (fun s c _ _ _ => CrewsWhole s ∧ calm s c)
        (fun s c k _ _ t => cleared s t c k (first s c) (count s c) none))
    ∧ PrivLaw (.split f) f.h [(.w32, f.s1), (.w32, f.s2)] 8 1
        (fun s c _ _ v => ∃ p, s.partOf (s.teamOf c).ctx = some p ∧ val v 0 % 16 < 13 ∧ val v 1 % 2 ^ 16 ≠ 0 ∧ ∀ j < 16, bit (val v 1) j = true →
          j ∈ s.partDies p ∧ ∀ u ∈ s.teams, u.ctx = (s.teamOf c).ctx → u.ended = false → dieOf u.core = j → u.dscrK * 1024 ≤ val v 0 % 16 * 2 ^ 25)
        (fun s _ k _ v t => DrainBegun s t k (.split (val v 0 % 16) ((List.range 16).filter (fun j => bit (val v 1) j))))
    ∧ PrivLaw (.seedset f) f.h [(.w32, f.s1)] 8 1 (fun _ _ _ _ _ => True) (fun s _ k _ v t => DrainBegun s t k (.seed (BitVec.ofNat 32 (val v 0))))
    ∧ (bit f.mod.toNat 0 = false → PrivLaw (.htinv f) f.h [(.w32, f.s1)] 8 1 (fun s c _ _ v => val v 0 < (s.ctxOf (s.teamOf c).ctx).hcnt)
        (fun s _ k _ v t => DrainBegun s t k (.handle (val v 0) [])))
    ∧ (bit f.mod.toNat 0 = true → PrivLaw (.htinv f) f.h [] 8 1 (fun _ _ _ _ _ => True) (fun s _ k _ _ t => DrainBegun s t k .handleAll)))
  ∧ (∀ f : F128M,
    let at1 := fun (v : List Nat) => wrap 64 ((val v 0 : Int) + signed 24 f.off.toNat)
    ∀ (img : List Byte) (loc : Loc), PrivLaw (.htwr f) f.h [(.w64, f.s1), (.w32, f.s2)] 16 1
      (fun s c _ l v => s.threadRead c l (at1 v) 64 32 = .ok (img, loc) ∧ val v 1 < (s.ctxOf (s.teamOf c).ctx).hcnt)
      (fun s _ k _ v t => ∃ s', Consulted s s' ∧ DrainBegun s' t k (.handle (val v 1) img)))

/-- R91, R92, R103, R253, R258, R262 to R266: the ends of the operations that privileged instructions begin. The TLBs have acknowledged and hold no leaf
that came back, once what was translated through an entry removed is performed or squashed, also what was translated through one that came back (that
a squashed access is not waited for is log 67). One
die has its new split: what the ways given up held is gone, ways gained hold zeros, and no line is left in the ways that die scratch takes, once
nothing touches ways that change role. The context's lines have left every cache and its seed is in effect. A handle entry is written, its reserved
bits 0, or, of HTINV, VALID cleared in one entry or in every entry. CTX.HTAB is written and the entries are those in memory. Each crew that waited
goes on. -/
def Obligations.DrainsEnd : Prop :=
  ∀ (s : State) (d : Drain), s.drains.find? (fun e => e.id == d.id) = some d →
    (∀ first count va core scope ids, d.kind = .tlb first count va core scope ids → CrewsWhole s →
      let settled := fun (ids : List Nat) =>
        (∀ a ∈ s.accs, a.id ∈ ids → a.hold ≠ .clock ∧ a.hold ≠ .tile ∧ a.hold ≠ .predict ∧ (a.hold = .none → a.units = []))
        ∧ (∀ c ∈ s.copies, c.id ∈ ids → ∀ m ∈ c.moves, m.done = true) ∧ ∀ x ∈ s.dictlds, x.id ∈ ids → x.failed ≠ none
      let more := s.tlbUsers d.ctx first count va core scope
      (¬settled ids → exec (.tlbAcknowledgement d.id) s = .next s)
      ∧ (settled ids → ∃ s' s'' t, TlbWithout s s' first count va core scope ∧ WaitsAgain s' s'' first count va core scope
          ∧ exec (.tlbAcknowledgement d.id) s = .next t
          ∧ (settled more → t = drainEnded s'' d.id)
          ∧ (¬settled more → t = { s'' with drains := s.drains.map (fun e => if e.id = d.id
              then { e with kind := .tlb first count va core scope more } else e) })))
    ∧ (∀ w k rest, d.kind = .split w (k :: rest) → s.firstSplit d = true →
      let lost := fun (ctx die o : Nat) => ctx = d.ctx ∧ die = k ∧ w * 2 ^ 25 ≤ o
      (∀ c ∈ s.copies, c.ctx = d.ctx → (c.elem = none ∨ c.fields.dk ≠ 3 ∨ dieOf c.core ≠ k)
        ∧ ∀ m ∈ c.moves, m.done = true ∨ ∀ x y o, Place.at (.dscr x y o) ∈ m.dsts → ¬lost x y o) →
      (∀ a ∈ s.accs, a.held = false → ∀ u ∈ a.units, u.done = true ∨ ∀ x y o, u.loc = .dscr x y o → ¬lost x y o) →
      (∀ x ∈ s.store.wsecs, x.die = k → s.fabricHolds (some k) (256 * x.sector) = false) →
      ∃ t, exec (.splitDieApply d.id) s = .next t
        ∧ t = { s with
            store := { s.store with
              dscr := t.store.dscr, mem := t.store.mem, wsecs := t.store.wsecs, l1 := t.store.l1, l2 := t.store.l2, llc := t.store.llc
              poison := t.store.poison, upsets := t.store.upsets }
            ctxs := s.ctxs.map (fun x => if x.id = d.ctx then { x with split := (k, w) :: x.split.filter (fun p => p.1 != k) } else x)
            drains := if rest = [] then s.drains.filter (fun e => e.id != d.id)
              else s.drains.map (fun e => if e.id = d.id then { e with kind := .split w rest } else e)
            crews := if rest = [] then s.crews.map (fun c => { c with busy := c.busy.filter (· != d.id) }) else s.crews }
        ∧ (t.dscrOf d.ctx k).mem = (s.dscrOf d.ctx k).mem.filter (fun b => decide (b.1 < min w ((s.ctxOf d.ctx).ways k) * 2 ^ 25))
        ∧ (∀ x y, (x, y) ≠ (d.ctx, k) → t.dscrOf x y = s.dscrOf x y)
        ∧ (∀ l ∈ t.store.l2, l.die = k → l.way + w < Config.l2Ways)
        ∧ (s.store.wsecs = [] → t.store.mem = s.store.mem ∧ t.store.wsecs = []))
    ∧ (∀ v, d.kind = .seed v → s.firstSplit d = true → (∀ x ∈ s.pkg.dies, x.rebuilding = false) → (∀ w ∈ s.store.wsecs, w.ctx ≠ d.ctx) →
      exec (.seedsetApply d.id) s = .next (drainEnded { s with
        store := { s.store with
          l1 := s.store.l1.filter (fun x => x.ctx != d.ctx), l2 := s.store.l2.filter (fun x => x.ctx != d.ctx), llc := s.store.llc.filter (fun x => x.ctx != d.ctx) }
        ctxs := s.ctxs.map (fun x => if x.id = d.ctx then { x with seed := v } else x) } d.id))
    ∧ (∀ h img, d.kind = .handle h img → s.handleBusy d (some h) = false → s.store.wsecs = [] → Unheld s →
      let old := (s.ctxOf d.ctx).handles
      let new := handleImage (if img = [] then (old.get (64 * h) &&& 0xFE) :: old.bytes (64 * h + 1) 63 else img)
      ∃ t, exec (.handleEntryWrite d.id) s = .next t
        ∧ t = drainEnded { s with
            store := { s.store with
              mem := s.store.mem.putBytes ((s.ctxOf d.ctx).hbase + 64 * h) new, l1 := t.store.l1, l2 := t.store.l2, upsets := t.store.upsets }
            ctxs := s.ctxs.map (fun x => if x.id = d.ctx then { x with handles := x.handles.putBytes (64 * h) new } else x) } d.id)
    ∧ (d.kind = .handleAll → s.handleBusy d none = false → s.store.wsecs = [] → Unheld s → (s.ctxOf d.ctx).handles.wf = true →
      ∃ t, exec (.handleEntryWrite d.id) s = .next t
        ∧ t = drainEnded { s with
            store := { s.store with mem := t.store.mem, l1 := t.store.l1, l2 := t.store.l2, upsets := t.store.upsets }
            ctxs := t.ctxs } d.id
        ∧ t.ctxs.length = s.ctxs.length
        ∧ (∀ (j : Nat) (x : Ctx), s.ctxs[j]? = some x → ∃ hs, t.ctxs[j]? = some (if x.id = d.ctx then { x with handles := hs } else x))
        ∧ ∀ h < (s.ctxOf d.ctx).hcnt, (t.ctxOf d.ctx).handles.get (64 * h) &&& 1 = 0)
    ∧ (∀ v, d.kind = .htab v → s.handleBusy d none = false →
      exec (.ctxHtabWrite d.id) s = .next (drainEnded { s with
        ctxs := s.ctxs.map (fun x => if x.id = d.ctx
          then { x with htab := v, handles := s.store.mem.slice (64 * (v.toNat % 2 ^ 46)) (64 * min 65536 (v.toNat / 2 ^ 46 % 2 ^ 17)) } else x) } d.id))

/-- R254, R255, R259: PARK, RESUME and KILL of one crew or of every crew of a resident team that the issuer has authority over. Crews that have nothing
under way but what waits for a handler (log 63) are parked at once; RESUME takes the causes PARK and DEBUG_STOP from their threads; KILL ends their
threads, frames, claims and holds, drops what waits for a page, a handler, a prediction or lines, and notes that the team was killed. KILL `.gate`
ends their innermost gate calls with the cause given (R170). -/
def Obligations.CrewControl : Prop :=
  ∀ f : F64,
    let all := bit f.mod.toNat 0
    let hit := fun (v : List Nat) (d : Crew) => d.team == val v 0 / 16 && (all || d.id == val v 0 % 16)
    let named := fun (s : State) (c : Crew) (v : List Nat) =>
      val v 0 < 2 ^ 28 ∧ ∃ x, s.findTeam (val v 0 / 16) = some x ∧ x.ended = false
        ∧ (if all = true then val v 0 % 16 = 0 else val v 0 % 16 < x.crews) ∧ (∀ d ∈ s.crews, hit v d = true → s.authority c x d.fdom = true)
        ∧ s.dumpCore x.serial = none ∧ (∀ w ∈ s.saved, w.team.serial ≠ x.serial)
        ∧ (∃ d ∈ s.crews, hit v d = true) ∧ ∀ j d, s.crews[j]? = some d → hit v d = true → s.crewAt d.team d.id = some j
    let each := fun (s t : State) (v : List Nat) (g : Crew → Crew → Prop) => t.crews.length = s.crews.length
      ∧ ∀ (j : Nat) (d : Crew), s.crews[j]? = some d → ∃ d', t.crews[j]? = some d' ∧ if hit v d = true then g d d' else d' = d
    let of := fun (s : State) (v : List Nat) (serial crew : Nat) => s.crews.any (fun d => hit v d && d.team == serial && d.id == crew)
    PrivLaw (.park f) f.h [(.w32, f.s1)] 8 1
      (fun s c _ _ v => named s c v ∧ s.drains = [] ∧ (∀ y ∈ s.crews, ∀ n ∈ y.busy, n < s.nextId) ∧ ∀ d ∈ s.crews, hit v d = true →
        (∀ a ∈ s.accs, a.serial = d.team → a.crew = d.id → ∃ r, a.hold = .fault r) ∧ ∀ e ∈ s.accq, e.serial = d.team → e.crew = d.id → e.granted = false)
      (fun s _ _ _ v t => t = { s with nextId := s.nextId + (s.crews.filter (hit v)).length, crews := t.crews }
        ∧ each s t v (fun d d' => CrewParks d d' .park))
    ∧ PrivLaw (.resume f) f.h [(.w32, f.s1)] 8 1
      (fun s c _ _ v => named s c v ∧ s.drains = [] ∧ ∀ d ∈ s.crews, hit v d = true →
        d.threads.length = 32 ∧ ∀ th ∈ d.threads, th.st = .ready → th.why = .none)
      (fun s _ _ _ v t => t = { s with crews := t.crews } ∧ each s t v (fun d d' =>
        d' = { d with bundles := d'.bundles, threads := d.threads.map (uncaused (fun p => match p with | .park => true | .debug _ _ => true | _ => false)) }))
    ∧ (bit f.mod.toNat 1 = false → PrivLaw (.kill f) f.h [(.w32, f.s1)] 8 1 (fun s c _ _ v => named s c v)
      (fun s _ _ _ v t => t = { s with
          accs := s.accs.filter (fun a => !(of s v a.serial a.crew && (a.held || a.hold == .predict)))
          copies := s.copies.filter (fun y => y.granted || !of s v y.serial y.crew)
          accq := s.accq.filter (fun y => y.granted || !of s v y.serial y.crew)
          cp := { s.cp with faultQ := t.cp.faultQ, rings := t.cp.rings }
          teams := s.teams.map (fun y => if y.serial = val v 0 / 16 then { y with killed := true } else y)
          crews := t.crews }
        ∧ each s t v (fun d d' => d' = { d with
            bundles := d'.bundles, frames := [], claim := none, latch := none, coll := [], holds := []
            threads := d.threads.mapIdx (fun l th => if l < 32 then ended th else th) })))
    ∧ (bit f.mod.toNat 1 = true → PrivLaw (.kill f) f.h [(.w32, f.s1), (.w32, f.s2)] 8 1
      (fun s c _ _ v => named s c v ∧ GroupsOwn s ∧ ∀ d ∈ s.crews, hit v d = true →
        d.frames ≠ [] ∧ ((s.teamOf c).level = 2 ∨ c.fdom = d.fdom) ∧ ∀ th ∈ d.threads, ∀ n, ParkCause.ending n ∉ th.causes)
      (fun s _ _ _ v t => t = { s with accs := t.accs, crews := t.crews }
        ∧ each s t v (fun d d' => CallEnds s d d' (val v 1 % 2 ^ 16) (fun a => match a.hold with | .fault _ => true | _ => false))))

/-- R260, R261: CTXSAVE of a team that is not there writes status 3 and does nothing else; of a team that is there it begins to save the team and its
cohort, one area after another by teamid, each with status 0, and each save counts for the open batch of the lane. CTXREST of an area that cannot be
read, whose status is not 1 or whose team is not saved does nothing; else it gives the team's save to the restore, which counts for the open batch.
R289: a team whose drain is over leaves its core with its crews and their accesses: it is written out, its save has status 1 and SAVED is journalled,
or, where the write meets a fault, its context is lost, LOST is journalled and its domain has a CTX_SAVE_FAULT record with that cause. R290: among the
pieces written are the header's fields, each crew's registers of its maps and its crew registers, the scratchpad and the tiles, each at its offset of
the area; a piece that lies in one page is written at the place of that page, and nothing else is. That the areas of a cohort follow one another by
teamid is log 16, that the addresses are of the issuer's ASID log 64, that a write that something holds waits log 120. -/
def Obligations.SavesAndRestores : Prop :=
  let counted := fun (ids : List Nat) (crews : List Crew) (k l : Nat) =>
    crews.modify k (fun c => { c with threads := c.threads.modify l (fun th => { th with openOps := th.openOps ++ ids }) })
  (∀ f : F64,
    let there := fun (s : State) (v : List Nat) (x : Team) => s.findTeam (val v 0 % 2 ^ 24) = some x ∧ x.ended = false ∧ s.saving (val v 0 % 2 ^ 24) = false
    PrivLaw (.ctxsave f) f.h [(.w32, f.s1), (.w64, f.s2)] 8 1
      (fun s c _ _ v => Unheld s ∧ (∀ n, s.frozen n = false) ∧ ∀ x, there s v x → ∀ u, u = x ∨ u ∈ s.cohortOf x ∧ u.ended = false ∧ s.saving u.serial = false →
        ∀ d ∈ s.crews, d.team = u.serial → s.authority c u d.fdom = true)
      (fun s c k l v t =>
        let status := fun (n : Nat) => ∀ pa, s.pinnedOff (s.teamOf c).core c.asid c.secure (val v 1) 4 .write = .ok pa → s.store.mem.wf = true →
          s.store.wsecs = [] → val v 1 % 65536 ≤ 65532 → t.store.mem.readN pa 4 = n
        ((∀ x, ¬there s v x) → t = { s with store := StoredWalk s t, pkg := { s.pkg with errs := t.pkg.errs } } ∧ status 3)
        ∧ ∀ x, there s v x → ∃ g : List Team,
          (∀ u, u ∈ g ↔ u ∈ s.cohortOf x ∧ u.ended = false ∧ s.saving u.serial = false) ∧ g.Pairwise (fun a b => a.teamid ≤ b.teamid)
          ∧ t = { s with
              store := StoredWalk s t, pkg := { s.pkg with errs := t.pkg.errs }, nextId := s.nextId + g.length
              crews := counted ((List.range g.length).map (s.nextId + ·)) s.crews k l
              saved := t.saved, dbg := t.dbg }
          ∧ ((∀ u ∈ g, s.dumpCore u.serial = none) → t.dbg = s.dbg ∧ t.saved = s.saved ++ g.mapIdx (fun j u =>
              { team := u, crews := [], accs := [], addr := val v 1 + saveSize x * j, asid := c.asid, secure := c.secure, status := 0, acts := []
                op := some (s.nextId + j) }))
          ∧ (x.clvl = 0 → x.core = (s.teamOf c).core → s.dumpCore x.serial = none → status 0)))
  ∧ (∀ f : F64,
    let area := fun (s : State) (c : Crew) (v : List Nat) =>
      let w := { (default : Saved) with team := s.teamOf c, addr := val v 0, asid := c.asid, secure := c.secure, status := 1 }
      (s.areaUse w 12 .read).saveRead w 2 0 12
    let served := fun (op : Option Nat) (c : Crew) => { c with threads := c.threads.map (fun th => { th with
      openOps := th.openOps.filter (fun i => some i != op), batches := th.batches.map (fun b => b.filter (fun i => some i != op)) }) }
    PrivLaw (.ctxrest f) f.h [(.w64, f.s1)] 8 1 (fun s _ _ _ _ => Unheld s ∧ ∀ n, s.frozen n = false)
      (fun s c k l v t =>
        let saved := fun (m : Memory) => s.saved.find? (fun y => y.team.serial == m.readN 8 3 && y.status == 1)
        ((∀ m, area s c v = .ok m → m.readN 0 4 = 1 → saved m = none) → t = { s with store := StoredWalk s t, pkg := { s.pkg with errs := t.pkg.errs } })
        ∧ ∀ m w, area s c v = .ok m → m.readN 0 4 = 1 → saved m = some w →
          t = { s with
            store := StoredWalk s t, pkg := { s.pkg with errs := t.pkg.errs }
            nextId := s.nextId + 1, crews := counted [s.nextId] (s.crews.map (served w.op)) k l
            saved := s.saved.map (fun y =>
              let y := { y with crews := y.crews.map (served w.op) }
              if y.team.serial = w.team.serial then { y with addr := val v 0, asid := c.asid, secure := c.secure, op := some s.nextId } else y) }))
  ∧ (∀ (s : State) (v : Saved) (x : Team), s.saved.find? (fun v => v.team.serial == x.serial && v.status == 0) = some v → s.findTeam x.serial = some x →
      s.saveReady x = true → s.journalRoom = true → s.saveHeld v x = false → Unheld s →
      let cs := s.crews.filter (fun c => c.team == x.serial)
      let s0 := cs.foldl State.spillsUse ((s.pushDie (dieOf x.core)).areaUse v (saveBytes x) .write)
      let out := State.saveOut s0 { v with team := x } x cs (s.accs.filter (fun a => a.serial == x.serial))
      let plain := x.scr.wf = true ∧ ∀ m ∈ x.tile, m.wf = true
      ∃ t, exec (.teamSaveWriteOut x.serial) s = .next t ∧ t.cp.wseq = s.cp.wseq + 1
        ∧ (∀ s1, out = .ok s1 → SaveAct.killAll ∉ v.acts → plain → Journalled s t 0x06 0 x.ctx x.node (x.serial % 2 ^ 24 + 2 ^ 64 * (x.slot % 2 ^ 24)))
        ∧ (∀ e, out = .error e → (∀ w ∈ s.saved, w.team.serial = x.serial) → plain →
          Journalled s t 0x08 0 x.ctx x.node (x.serial % 2 ^ 24 + 2 ^ 32 * (x.fdom % 2 ^ 16)))
        ∧ (∀ s1, out = .ok s1 → ∃ (ps : List Piece) (m : State), m = { s0 with freeCtr := m.freeCtr } ∧ m.savePieces { v with team := x } ps = out
          ∧ (let word := fun (off n a : Nat) => (off, n, Memory.ofList 0 (toBytes n a)) ∈ ps
            word 0x4 4 (parkBits v.acts) ∧ word 0x8 4 (x.serial % 2 ^ 24 + 2 ^ 24 * x.crews) ∧ word 0xC 4 x.teamid ∧ word 0x10 8 x.rcbVa
            ∧ word 0x18 4 (x.clvl + 16 * (if x.clvl = 0 then 0 else x.teamid % x.csize)) ∧ word 0x20 8 (saveSize x)
            ∧ (∀ c ∈ cs, (1024 + 98304 * c.id, 4 * c.creg.length, Memory.ofList 0 (c.creg.flatMap (fun w => toBytes 4 w.toNat))) ∈ ps)
            ∧ (∀ c ∈ cs, ∀ (lane : Nat) (th : Thread), lane < 32 → c.threads[lane]? = some th →
              let at4 := fun (level : Nat) (r : Reg) => word (1024 + 98304 * c.id + 0x4000 + 4 * (32 * (128 * level + r.n) + lane)) 4 r.v.toNat
              (∀ r ∈ th.regs, r.st ≠ .spilled → at4 0 r)
              ∧ ∀ (j : Nat) (f : Frame) (q : LaneFrame), c.frames[j]? = some f → f.lanes[lane]? = some q → ∀ r ∈ q.regs, r.st ≠ .spilled →
                at4 (c.frames.length - j) r)
            ∧ (1024 + 98304 * x.crews, 1024 * x.scrK, x.scr) ∈ ps
            ∧ ∀ j < x.tiles, (1024 + 98304 * x.crews + 1024 * x.scrK + 16384 * j, 16384, (x.tile[j]?).getD []) ∈ ps))
        ∧ (∀ s1, out = .ok s1 →
          (∀ c ∈ t.crews, c.team ≠ x.serial) ∧ (∀ u ∈ t.teams, u.serial ≠ x.serial) ∧ (∀ a ∈ t.accs, a.serial ≠ x.serial)
          ∧ (∀ c ∈ t.copies, c.serial ≠ x.serial) ∧ (∀ e ∈ t.accq, e.serial ≠ x.serial)
          ∧ (if SaveAct.killAll ∈ v.acts then ∀ w ∈ t.saved, w.team.serial ≠ x.serial
            else ∃ w ∈ t.saved, w.team = x ∧ w.status = 1 ∧ w.addr = v.addr ∧ w.asid = v.asid ∧ w.acts = v.acts
              ∧ w.crews.map (·.id) = (s.crews.filter (fun c => c.team == x.serial)).map (·.id))
          ∧ ∀ c ∈ s.crews, c.team ≠ x.serial → ∃ c' ∈ t.crews, c'.team = c.team ∧ c'.id = c.id ∧ c'.threads.map (·.regs) = c.threads.map (·.regs))
        ∧ ∀ e, out = .error e → (∀ y ∈ t.ctxs, y.id = x.ctx → y.lost = true) ∧ (∀ w ∈ t.saved, w.team.serial ≠ x.serial)
          ∧ ∃ r ∈ t.cp.faultQ, r.cause = .ctxSaveFault ∧ r.sub = e.code ∧ r.fdom = x.fdom ∧ r.ctx = x.ctx ∧ r.serial = x.serial)
  ∧ (∀ (s : State) (v : Saved) (off n pa : Nat) (b : Memory), 0 < n → (v.addr + off) % 65536 + n ≤ 65536 →
      s.pinnedOff v.team.core v.asid v.secure (v.addr + off) n .write = .ok pa → s.store.wsecs = [] → s.store.mem.wf = true → b.wf = true →
      ∃ t, s.savePieces v [(off, n, b)] = .ok t ∧ t = { s with store := StoredWalk s t }
        ∧ (∀ j < n, t.store.mem.get (pa + j) = b.get j) ∧ ∀ a, (a < pa ∨ pa + n ≤ a) → t.store.mem.get a = s.store.mem.get a)
  ∧ (∀ (s t : State) (v : Saved) (p : Piece) (l : List Piece), s.savePieces v [p] = .ok t → s.savePieces v (p :: l) = t.savePieces v l)

/-- R268, R317: ERET ends the record that its crew claims: the crew claims nothing and the record has ended, whatever has become of the crew that took the
fault. That crew stays parked (0), goes on from the record with the accesses that it held (1), is killed (2), or leaves its innermost gate call with
the cause in register c63, at once or when what the callee issued has completed (3). For a team that is saved the disposition is recorded. With no
claim ERET takes ERET_NONE, without authority PRIV_DOMAIN, and for disposition 3 at gate depth 0 GRET_EMPTY, whose LMASK, the lane that supplies the
operand, is the model's choice (log 60). -/
def Obligations.TrapReturn : Prop :=
  ∀ f : F64,
    let srcs : List (Use × Src) := [(.w32, f.s1)]
    let claims := fun (s : State) (c : Crew) (q : Claim) (y : RingRec) =>
      c.claim = some q ∧ (s.ringOf (s.teamOf c).ctx q.fdom).recs.find? (fun r => r.index == q.index) = some y
    let closed := fun (s t : State) (k ctx : Nat) (q : Claim) =>
      t = { s with
        crews := s.crews.modify k (fun c => { c with claim := none }), store := t.store, cp := { s.cp with rings := t.cp.rings }
        pkg := { s.pkg with errs := t.pkg.errs } }
      ∧ ∀ r ∈ (t.ringOf ctx q.fdom).recs, r.index = q.index → r.ended = true
    let taken := fun (s : State) (c : Crew) (v : List Nat) (q : Claim) (y : RingRec) (j : Nat) (d : Crew) =>
      claims s c q y ∧ s.crewAt y.fault.serial y.fault.crew = some j ∧ s.crews[j]? = some d ∧ d.live ≠ 0
        ∧ s.authority c (s.teamOf d) d.fdom = true
        ∧ (val v 0 % 4 = 3 → d.frames ≠ [] ∧ ((s.teamOf c).level = 2 ∨ c.fdom = d.fdom))
    let gone := fun (s : State) (y : RingRec) => s.crewAt y.fault.serial y.fault.crew = none ∧
      ∀ w, s.saved.find? (fun w => w.team.serial == y.fault.serial) = some w → w.crews.find? (fun d => d.id == y.fault.crew) = none
    let trapped := fun (s : State) (iss : Issue) (c : Crew) (l : Nat) (cause : Cause) =>
      let rd := readLane s c iss.mask srcs l
      let kept : State := { s.dropFailed c with crews := s.crews.set iss.crew { c with threads := c.threads.modify l (fun th =>
        { th with flags := th.flags ||| BitVec.ofNat 32 (readFlags rd % 1024), relog := some (rd.vals.map (BitVec.ofNat 64)), gaps := [] }) } }
      exec (.eret f) s = .next (kept.takeFault iss.crew { cause := cause, lmask := maskOf [l], pc := iss.pc })
    PrivLaw (.eret f) f.h srcs 8 1
      (fun s c _ _ _ => ∃ q, c.claim = some q ∧ ∀ y, claims s c q y →
        gone s y ∨ ∃ j d, s.crewAt y.fault.serial y.fault.crew = some j ∧ s.crews[j]? = some d ∧ d.live = 0)
      (fun s c k _ _ t => ∀ q, c.claim = some q → closed s t k (s.teamOf c).ctx q)
    ∧ PrivLaw (.eret f) f.h srcs 8 1
      (fun s c _ _ v => GroupsOwn s ∧ ∃ q y j d, taken s c v q y j d)
      (fun s c k _ v t => ∀ q y, claims s c q y → ∃ s' j d d', closed s' t k (s.teamOf c).ctx q
        ∧ s.crewAt y.fault.serial y.fault.crew = some j ∧ s.crews[j]? = some d ∧ s'.crews[j]? = some d' ∧ (∀ i, i ≠ j → s'.crews[i]? = s.crews[i]?)
        ∧ (val v 0 % 4 = 0 → s' = s)
        ∧ (val v 0 % 4 = 1 → s' = { s with accs := s'.accs, copies := s'.copies, crews := s'.crews }
          ∧ (∀ l < 32, ParkCause.fault y.fault.rid ∉ (d'.thread l).causes)
          ∧ (∀ l th, l < 32 → d.threads[l]? = some th → th.st = .parked → th.causes = [.fault y.fault.rid] → (d'.thread l).st = th.back)
          ∧ ∀ a ∈ s'.accs, a.serial = d.team → a.crew = d.id → a.hold ≠ .fault y.fault.rid)
        ∧ (val v 0 % 4 = 2 → s.saving y.fault.serial = false → s.dumpCore d.team = none →
          d'.threads.length = d.threads.length ∧ ∀ l < 32, l < d.threads.length → (d'.thread l).st = .exited)
        ∧ (val v 0 % 4 = 3 → s.dumpCore d.team = none → (∀ th ∈ d.threads, ∀ n, ParkCause.ending n ∉ th.causes) →
          CallEnds s d d' y.fault.cause.code (fun a => match a.hold with
            | .fault _ => true
            | .page va => a.kind != .copy && y.fault.page == some (d.asid, va)
            | _ => false)))
    ∧ PrivLaw (.eret f) f.h srcs 8 1
      (fun s c _ _ v => ∃ q y w d, claims s c q y ∧ s.crewAt y.fault.serial y.fault.crew = none
        ∧ s.saved.find? (fun w => w.team.serial == y.fault.serial) = some w ∧ w.crews.find? (fun d => d.id == y.fault.crew) = some d
        ∧ s.authority c w.team d.fdom = true ∧ (val v 0 % 4 = 3 → s.killGateFault c (w.ahead d) = none))
      (fun s c k _ v t => ∀ q y w, claims s c q y → s.saved.find? (fun w => w.team.serial == y.fault.serial) = some w →
        ∃ s', closed s' t k (s.teamOf c).ctx q ∧ s' = { s with
          store := s'.store
          saved := s.saved.map (fun x => if x.team.serial = w.team.serial
            then { w with acts := w.acts ++ [.eret y.fault.crew y.fault.rid (val v 0 % 4) y.fault.page y.fault.cause.code] } else x) })
    ∧ ∀ (s : State) (iss : Issue) (c : Crew) (l : Nat), Issues s iss c → 1 ≤ (s.teamOf c).level → (lanesOf (guardMask c iss.mask f.h)).head? = some l →
        s.crewIdle c = true → f.s1.last = 0 → operandCheck s c iss.mask (maskOf [l]) (maskOf [l]) iss.pc srcs 255 1 false = none →
        boundLanes c (maskOf [l]) srcs 255 1 = 0 →
        let v := (readLane s c iss.mask srcs l).vals
        (c.claim = none → trapped s iss c l .eretNone)
        ∧ ∀ q y j d, claims s c q y → s.crewAt y.fault.serial y.fault.crew = some j → s.crews[j]? = some d → d.live ≠ 0 →
          (s.authority c (s.teamOf d) d.fdom = false → trapped s iss c l .privDomain)
          ∧ (s.authority c (s.teamOf d) d.fdom = true → val v 0 % 4 = 3 → d.frames = [] → trapped s iss c l .gretEmpty)

/-- R136, R264 to R266: GTWR writes the bytes that its issuer reads as entry n of the gate table of a region that the issuer has authority over, in
memory and as GATE uses it, its reserved bits 0, and, where the entry is one that GATE takes, invalidates the L1 instruction caches of the partition;
GTINV clears VALID of an entry, or of every entry of the table. That the chain of RCBs is read as loads of the issuer is log 61, that GTAB is a
physical address log 17, that the entry is in force from the GTWR on log 71, that a write that something holds waits log 120. -/
def Obligations.GateTableWrites : Prop :=
  ∀ (ch : List (Nat × Nat)) (img : List Byte) (loc : Loc),
  let r := (ch.head?.getD (0, 0)).1
  let g := rcbGates (ch.head?.getD (0, 0)).2
  let written := fun (s t : State) (c : Crew) (n e : Nat) (icache : List ILine) =>
    ∃ s', Consulted s s' ∧ t = { s' with
      store := { s'.store with mem := s.store.mem.putBytes (g.1 + 32 * n) (toBytes 32 (gateImage e)), l1 := t.store.l1, l2 := t.store.l2, icache := icache }
      gtables := (s.noteTables ch).gtables
      gates := { ctx := (s.teamOf c).ctx, rcb := r, n := n, pa := g.1 + 32 * n, img := BitVec.ofNat 256 (gateImage e) }
        :: s.gates.filter (fun x => !(x.ctx == (s.teamOf c).ctx && x.rcb == r && x.n == n)) }
  let may := fun (s : State) (c : Crew) (l ra n : Nat) =>
    s.ownChain c l ra = .ok ch ∧ n ≤ 255 ∧ n < g.2 ∧ s.regionAuthority c ch = true ∧ s.store.wsecs = [] ∧ Unheld s
  let entry := fun (s : State) (c : Crew) (n : Nat) =>
    match s.gates.find? (fun e => e.ctx == (s.teamOf c).ctx && e.rcb == r && e.n == n) with
    | some e => e.img.toNat
    | none => s.store.mem.readN (g.1 + 32 * n) 32
  (∀ f : F128M,
    PrivLaw (.gtwr f) f.h [(.w64, f.s1), (.w32, f.s2), (.w64, f.s3)] 16 1
      (fun s c _ l v => may s c l (val v 2) (val v 1) ∧ s.threadRead c l (wrap 64 ((val v 0 : Int) + signed 24 f.off.toNat)) 32 32 = .ok (img, loc))
      (fun s c _ _ v t => written s t c (val v 1) (ofBytes img)
        (if (GateEntry.ofNat (ofBytes img)).ok (s.ctxOf (s.teamOf c).ctx) = true
          then s.store.icache.filter (fun b => match s.partOf (s.teamOf c).ctx with | some p => !(s.partDies p).contains (dieOf b.core) | none => true)
          else s.store.icache)))
  ∧ (∀ f : F64, bit f.mod.toNat 0 = false →
    PrivLaw (.gtinv f) f.h [(.w32, f.s1), (.w64, f.s2)] 8 1
      (fun s c _ l v => may s c l (val v 1) (val v 0))
      (fun s c _ _ v t => written s t c (val v 0) (entry s c (val v 0) - entry s c (val v 0) % 2) s.store.icache))
  ∧ (∀ f : F64, bit f.mod.toNat 0 = true →
    PrivLaw (.gtinv f) f.h [(.w64, f.s2)] 8 1
      (fun s c _ l v => s.ownChain c l (val v 0) = .ok ch ∧ s.regionAuthority c ch = true ∧ s.store.wsecs = [] ∧ Unheld s ∧ s.store.mem.wf = true)
      (fun s c _ _ _ t => ∃ s', Consulted s s'
        ∧ t = { s' with
            store := { s'.store with mem := t.store.mem, l1 := t.store.l1, l2 := t.store.l2 }, gtables := (s.noteTables ch).gtables, gates := t.gates }
        ∧ (∀ n < g.2,
          let e := gateImage (entry s c n - entry s c n % 2)
          t.store.mem.readN (g.1 + 32 * n) 32 = e
          ∧ ∃ x, t.gates.find? (fun e => e.ctx == (s.teamOf c).ctx && e.rcb == r && e.n == n) = some x
            ∧ x.pa = g.1 + 32 * n ∧ x.img = BitVec.ofNat 256 e)
        ∧ ∀ x, (x.ctx = (s.teamOf c).ctx ∧ x.rcb = r) ∨ (x ∈ t.gates ↔ x ∈ s.gates)))

/-- R312, R313: a record whose ring has room is written there with its index, the ring's TAIL rises, and a FAULT record is journalled; R316: a read of
TR.NEXT claims the oldest record that is neither claimed nor ended. R314: the example of R318, written as the fields of a record, has the DWs that
the rule gives: cause, domain and gate depth, CTAG and lane mask, PC, address, INFO, index, context and the number of the core (R345). That a record waits while lanes of its issue may still fault is log 74. -/
def Obligations.FaultRecords : Prop :=
   ((∀ (s : State) (r : Rec) (d : Nat) (e : FdDesc) (esc : Bool), s.cp.faultQ.find? s.deliverable = some r → s.journalRoom = true →
      s.cp.failed = false → s.host.cur ≠ .calm → Unheld s →
      let x := s.ctxOf r.ctx
      let s1 : State := { s with cp := { s.cp with faultQ := s.cp.faultQ.filter (· != r) } }
      (s1.engineUse r.core x.abase x.secure (s1.recVas r)).recTarget r = some (d, e, esc) →
      let g := s.ringOf r.ctx d
      let v := s.cp.wseq % 2 ^ 64 + 2 ^ 64 * 5 + 2 ^ 80 * (r.ctx % 4096) + 2 ^ 96 * (s.nodeOfTeam r.serial % 2 ^ 32) + 2 ^ 128 * (faultInfo r d g.tail % 2 ^ 128)
      ∃ t, exec .faultRecordDelivery s = .next t
        ∧ t = { s with
            store := StoredWalk s t, pkg := { s.pkg with errs := t.pkg.errs }
            dbg := if (s.debugOf r.core).events.any (fun y => y.rid == r.rid) then t.dbg else s.dbg
            cp := { s.cp with faultQ := s.cp.faultQ.filter (· != r), rings := t.cp.rings, wseq := s.cp.wseq + 1 } }
        ∧ t.ringOf r.ctx d = { g with tail := g.tail + 1, recs := g.recs ++ [{ index := g.tail, fault := { r with escd := esc }, claimed := false, ended := false }] }
        ∧ (∀ x y, (x, y) ≠ (r.ctx, d) → t.ringOf x y = s.ringOf x y)
        ∧ (s.store.mem.wf = true → s.store.wsecs = [] → t.store.mem.readN (s.cp.jbase * 4096 + 32 * (s.cp.wseq % s.cp.records)) 32 = v))
    ∧ (∀ (s : State) (k : Nat) (c : Crew) (r : RingRec), s.crewAt c.team c.id = some k → s.crews[k]? = some c → 1 ≤ (s.teamOf c).level → c.claim = none →
      (s.ringOf (s.teamOf c).ctx c.fdom).recs.find? (fun y => !y.claimed && !y.ended) = some r →
      let q : Claim := { fdom := c.fdom, index := r.index, rid := r.fault.rid, dws := (s.recDws r.fault c.fdom r.index).map (BitVec.ofNat 64) }
      ∃ t, exec (.trNext c.team c.id) s = .next t
        ∧ t = { s with cp := { s.cp with rings := t.cp.rings }, crews := s.crews.set k { c with claim := some q } }
        ∧ (t.ringOf (s.teamOf c).ctx c.fdom).recs =
            (s.ringOf (s.teamOf c).ctx c.fdom).recs.map (fun y => if y.index = r.index then { y with claimed := true } else y)))
  ∧
   (∀ (s : State) (r : Rec) (fdom index : Nat), r.sub < 2 ^ 8 → fdom < 2 ^ 16 → r.gdepth < 8 → r.crew < 16 → r.serial < 2 ^ 24 → r.info < 2 ^ 32 → r.ilane < 32 →
      index < 2 ^ 64 → r.ctx < 4096 → r.core < 1024 →
      let dw := fun (k : Nat) => val (s.recDws r fdom index) k
      dw 0 % 2 ^ 8 = r.cause.code ∧ dw 0 / 2 ^ 8 % 2 ^ 8 = r.sub ∧ dw 0 / 2 ^ 16 % 2 ^ 16 = fdom ∧ dw 0 / 2 ^ 32 % 8 = r.gdepth
      ∧ (dw 0 / 2 ^ 35 % 2 = 1 ↔ r.lanes = true) ∧ (dw 0 / 2 ^ 36 % 2 = 1 ↔ r.escd = true)
      ∧ dw 1 % 2 ^ 4 = r.crew ∧ dw 1 / 2 ^ 4 % 2 ^ 24 = r.serial ∧ dw 1 / 2 ^ 32 = r.lmask.toNat ∧ dw 2 = r.pc.toNat ∧ dw 3 = r.addr.toNat
      ∧ dw 4 % 2 ^ 32 = r.info ∧ dw 4 / 2 ^ 32 = r.ilane ∧ dw 5 = index ∧ dw 6 % 2 ^ 12 = r.ctx ∧ dw 6 / 2 ^ 12 = s.coreNo r.core ∧ dw 7 = 0)

/-! ### Queues, nodes and teams -/

/-- R270, R273, R357, R368: doorbells and the registers of an intake queue, whose enabling brings its context into being where there is none; CONS,
which frees journal records, LCP, and the registers that only store their fields. The model's choices: what an ignored write of a queue register
leaves alone (log 39), that a context comes into being when a queue is first enabled for it (log 18), and the offsets 2^32 * (fn + 1) + off that stand
for a function's configuration space in REGISTER_WRITE (log 19). -/
def Obligations.IntakeAndRegisterWrites : Prop :=
  (∀ (s : State) (n : Nat) (q : Queue) (v : Nat), s.cp.queues[n]? = some q → q.fn ≠ 0 → s.awake = true →
    let put := fun (q' : Queue) => { s with cp := { s.cp with queues := s.cp.queues.set n q' } }
    let ring := 2 ^ (if 4 ≤ q.log2n ∧ q.log2n ≤ 20 then q.log2n else 4)
    let errored : HostLink := { s.host with fns := s.host.fns.map (fun f =>
      if f.num = q.fn ∧ (f.tdisp = .locked ∨ f.tdisp = .run) then { f with tdisp := .error } else f) }
    let moved := fun (q' : Queue) (t : State) => exec (.queueRegisterWrite n (if q'.log2n = q.log2n ∧ q'.ctx = q.ctx then 0 else 8) v) s = .next t ∧
      t = { put q' with host := errored }
    exec (.tailWrite n v) s =
      .next (put (if (v % 2 ^ 32 + 2 ^ 32 - q.head) % 2 ^ 32 > ring then { q with terr := true } else { q with tail := v % 2 ^ 32 }))
    ∧ exec (.queueRegisterWrite n 0x18 v) s = .next (put (if bit v 1 then { q with terr := false } else q))
    ∧ (q.en = true → bit v 0 = q.loc → exec (.queueRegisterWrite n 0 v) s = .next s)
    ∧ (q.en = true → bit v 0 ≠ q.loc → ∃ t, moved { q with loc := bit v 0 } t)
    ∧ (q.en = true → s.host.ready = true → exec (.queueRegisterWrite n 8 v) s = .next (put { q with en := bit v 0 }))
    ∧ (q.en = false → (bit v 0, v / 2 ^ 12 % 2 ^ 52) ≠ (q.loc, q.rbase) →
        ∃ t, moved { q with loc := bit v 0, rbase := v / 2 ^ 12 % 2 ^ 52 } t)
    ∧ (q.en = false → bit v 0 = false → (v / 2 % 2 ^ 5, v / 2 ^ 6 % 2 ^ 12) ≠ (q.log2n, q.ctx) →
        ∃ t, moved { q with log2n := v / 2 % 2 ^ 5, ctx := v / 2 ^ 6 % 2 ^ 12 } t)
    ∧ (q.en = false → bit v 0 = true → s.host.ready = true →
        let q' := { q with en := true, log2n := v / 2 % 2 ^ 5, ctx := v / 2 ^ 6 % 2 ^ 12 }
        ∃ t, exec (.queueRegisterWrite n 8 v) s = .next t
          ∧ t = { put q' with ctxs := t.ctxs, host := if q'.log2n = q.log2n ∧ q'.ctx = q.ctx then s.host else errored }
          ∧ (s.findCtx q'.ctx ≠ none → t.ctxs = s.ctxs)
          ∧ (s.findCtx q'.ctx = none → ∃ x, t.ctxs = s.ctxs ++ [x] ∧ x.id = q'.ctx ∧ x.split = [] ∧ x.seed = 0 ∧ x.handles = [] ∧ x.lost = false
              ∧ ∀ p, s.pkg.parts.find? (fun p => p.fn == q.fn) = some p → x.part = p.num)))
  ∧ (∀ (s : State) (v : Nat), ∃ t, exec (.consWrite v) s = .next t
      ∧ t = { s with cp := { s.cp with cons := v % 2 ^ 64, queues := s.cp.queues.map (fun q => { q with
          jstall := !(decide (s.cp.wseq - v % 2 ^ 64 ≤ s.cp.records - 64) && decide ((s.cp.nodes.filter (fun n => n.st != .done)).length < 1048576)) }) } })
  ∧ (∀ (s : State) (v : Nat),
      exec (.lcpWrite v) s = .next { s with rr := { s.rr with lcp := v % 2 ^ 64 } }
      ∧ exec (.registerWrite 0x800 v) s = .next { s with cp := { s.cp with jbase := v / 2 ^ 12 % 2 ^ 52 } }
      ∧ exec (.registerWrite 0x808 v) s = .next { s with cp := { s.cp with jlog := v % 2 ^ 5 } }
      ∧ exec (.registerWrite 0x900 v) s = .next { s with pkg := { s.pkg with atb := v / 2 ^ 20 % 2 ^ 44 } }
      ∧ exec (.registerWrite 0xB00 v) s = .next { s with pkg := { s.pkg with lwl := v % 2 ^ 10 } }
      ∧ exec (.registerWrite 0xC00 v) s = .next { s with rr := { s.rr with mode := v % 2 ^ 2, ctx := v / 2 ^ 2 % 2 ^ 12 } }
      ∧ exec (.registerWrite 0xC04 v) s = .next { s with rr := { s.rr with node := v % 2 ^ 32 } }
      ∧ exec (.registerWrite 0xC08 v) s = .next { s with rr := { s.rr with lbase := v % 2 ^ 64 } }
      ∧ exec (.registerWrite 0xC10 v) s = .next { s with rr := { s.rr with llog := v % 2 ^ 5 } }
      ∧ exec (.registerWrite 0xE04 v) s = .next { s with host := { s.host with idlet := max 10 (v % 2 ^ 16) } }
      ∧ exec (.registerWrite 0xF08 v) s = .next { s with host := { s.host with imga := v / 2 ^ 12 % 2 ^ 52 } }
      ∧ exec (.registerWrite 0xF10 v) s = .next { s with host := { s.host with imglen := v % 2 ^ 32 } }
      ∧ (∀ k < 1024, exec (.registerWrite (0x3000 + 4 * k) v) s =
          .next { s with host := { s.host with config := s.host.config.putBytes (4 * k) (toBytes 4 v) } })
      ∧ (∀ fn off, off < 2 ^ 32 → s.visible fn = false → exec (.registerWrite (2 ^ 32 * (fn + 1) + off) v) s = .next s)
      ∧ (∀ n core, n < 1024 → s.allCores[n]? = some core → s.blockThere core = true →
          let d := s.debugOf core
          let at_ := fun (r : Nat) (d' : Debug) => exec (.registerWrite (0x100000 + 0x400 * n + r) v) s = .next (s.setDebug d')
          at_ 0x108 { d with attEn := bit v 0, attCtx := v / 2 % 2 ^ 12 } ∧ at_ 0x110 { d with dumpA := v % 2 ^ 64 }
          ∧ at_ 0x118 { d with dteam := v % 2 ^ 24 }
          ∧ (∀ k < 4, at_ (0x40 * k + 0x10) { d with scheds := d.scheds.modify k (fun x => { x with pc0 := v % 2 ^ 57 / 4 * 4 + v % 2 }) }
              ∧ at_ (0x40 * k + 0x18) { d with scheds := d.scheds.modify k (fun x => { x with pc1 := v % 2 ^ 57 / 4 * 4 + v % 2 }) })))

/-- R271, R272, R278, R329: the command at HEAD of the queue whose turn it is: HEAD rises, ACCEPT is journalled and the node waits with its count of
predecessors, a copy of it in the node store, or REFUSE is journalled with the refusal. That a record that something holds waits is log 120. -/
def Obligations.CommandsAccepted : Prop :=
  ∀ (s : State) (q : Nat), s.awake = true → s.cp.failed = false → s.accepting = true → s.nextQueue = some q → Unheld s →
    let x := s.queue q
    let e := s.ringBytes x.loc (x.rbase * 4096 + 64 * (x.head % x.entries)) 64
    let id := e / 2 ^ 32 % 2 ^ 32
    let goes := fun (t : State) (new : List Node) (kind info : Nat) =>
      exec (.commandAccept q) s = .next t
      ∧ t = { s with
          store := Stored s t
          cp := { s.cp with queues := t.cp.queues, nodes := s.cp.nodes ++ new, nstore := s.cp.nstore ++ new, wseq := s.cp.wseq + 1, turn := q } }
      ∧ Journalled s t kind q x.ctx id info
      ∧ t.queue q = { x with head := (x.head + 1) % 2 ^ 32, jstall := (t.queue q).jstall }
      ∧ ∀ k, k ≠ q → t.queue k = { s.queue k with jstall := (t.queue k).jstall }
    (∀ c, (e % 2 ^ 8 > 3 ∧ c = 1 ∨ e % 2 ^ 8 ≤ 3 ∧ (e / 2 ^ 8 % 2 ^ 4 > 8 ∨ e % 2 ^ 8 = 3 ∧ e / 2 ^ 256 % 2 ^ 64 % 8 ≠ 0) ∧ c = 5) →
      ∃ t, goes t [] 2 c)
    ∧ (e % 2 ^ 8 ≤ 3 → e / 2 ^ 8 % 2 ^ 4 ≤ 8 → (e % 2 ^ 8 = 3 → e / 2 ^ 256 % 2 ^ 64 % 8 = 0) → (∀ d ∈ s.cp.heldDecs, (d.1, d.2.1) ≠ (x.ctx, id)) →
      ∃ t n, goes t [n] 1 x.head
        ∧ n.ctx = x.ctx ∧ n.id = id ∧ n.kind = e % 2 ^ 8 ∧ n.queue = q ∧ n.pred = e / 2 ^ 64 % 2 ^ 32 ∧ n.st = .waiting ∧ n.seq = s.cp.wseq
        ∧ n.arg0 = e / 2 ^ 256 % 2 ^ 64 ∧ n.arg1 = e / 2 ^ 320 % 2 ^ 64 ∧ n.arg2 = e / 2 ^ 384 % 2 ^ 64
        ∧ n.succs.length = e / 2 ^ 96 % 2 ^ 16 ∧ n.bufs.length = e / 2 ^ 8 % 2 ^ 4)

/-- R278, R283, R383: a node whose count is zero starts, and START is journalled: a NOP finishes at once, a COPY copies its bytes, a SIGNAL stores its 8
bytes, a LAUNCH enters with its teams to deal or is refused. A node that is over finishes: FINISH is journalled and its successors' counts fall.
Teams left are dealt to a queue engine with room. The model's choices: units that could never hold a group are passed over (log 22), and a COPY moves
all its bytes in one step (log 23). -/
def Obligations.NodesRun : Prop :=
  ∀ (s : State) (ctx node kind : Nat) (n : Node),
    let begun := s.cp.nodes.map (fun x => if x = n then { x with st := .started } else x)
    let mem1 := s.store.mem.writeN (s.cp.jbase * 4096 + 32 * (s.cp.wseq % s.cp.records)) 32 (journalRec s 3 0 ctx node 0)
    let left := s.cp.nodes.filter (fun x => !(x == n || (x.ctx == ctx && x.id == node && x.st == .started)))
    (s.startable ctx node kind = some n → n.bufs = [] → Unheld s →
      (kind = 0 → n.succs = [] → s.launch? ctx node = none → s.cp.wseq - s.cp.cons + 2 ≤ s.cp.records →
        ∃ t, exec (.nopCommand ctx node) s = .next t
          ∧ t = { s with
              store := Stored s t
              cp := { s.cp with queues := t.cp.queues, bufs := t.cp.bufs, nodes := left, nstore := t.cp.nstore, wseq := s.cp.wseq + 2 } })
      ∧ (kind = 2 → s.rangeHeld n.arg0 n.arg2 = false → s.rangeHeld n.arg1 n.arg2 = false → n.arg2 ≠ 0 → s.store.wsecs = [] → s.store.poison = [] →
        (∀ x ∈ s.store.upsets, x.at (.phys n.arg0) n.arg2 = false) →
        s.located n.arg0 = true → s.located (n.arg0 + n.arg2 - 1) = true → s.located n.arg1 = true → s.located (n.arg1 + n.arg2 - 1) = true →
        ∃ t, exec (.copyCommand ctx node) s = .next t
          ∧ t = { s with
              store := { s.store with
                mem := mem1.putBytes n.arg1 (mem1.bytes n.arg0 n.arg2), l1 := t.store.l1, l2 := t.store.l2, upsets := t.store.upsets }
              cp := { s.cp with nodes := begun, wseq := s.cp.wseq + 1 } })
      ∧ (kind = 3 → s.rangeHeld n.arg0 8 = false → s.store.wsecs = [] → s.located n.arg0 = true →
        ∃ t, exec (.signalCommand ctx node) s = .next t
          ∧ t = { s with
              store := { s.store with mem := mem1.putBytes n.arg0 (toBytes 8 n.arg1), l1 := t.store.l1, l2 := t.store.l2 }
              cp := { s.cp with nodes := begun, wseq := s.cp.wseq + 1 } })
      ∧ (∀ l, kind = 1 → s.checkLaunch n = .ok l →
        ∃ t, exec (.launch ctx node) s = .next t ∧ Journalled s t 3 0 ctx node 0
          ∧ t = { s with
              store := { StoredWalk s t with icache := t.store.icache }, pkg := { s.pkg with errs := t.pkg.errs }, rr := t.rr, gtables := t.gtables
              cp := { s.cp with
                queues := t.cp.queues, nodes := begun, wseq := s.cp.wseq + 1, launches := t.cp.launches, engines := t.cp.engines
                orderNext := t.cp.orderNext, dealAfter := t.cp.dealAfter } }
          ∧ t.cp.launches.map (·.team) = s.cp.launches.map (·.team) ++ [l.team])
      ∧ (∀ c, kind = 1 → s.checkLaunch n = .error c → c < 2 ^ 128 →
        ∃ t, exec (.launch ctx node) s = .next t ∧ Journalled s t 2 n.queue ctx node c
          ∧ t = { s with
              store := StoredWalk s t, pkg := { s.pkg with errs := t.pkg.errs }
              cp := { s.cp with
                queues := t.cp.queues, nodes := s.cp.nodes.filter (fun x => !(x == n)), nstore := t.cp.nstore, wseq := s.cp.wseq + 1 } }))
    ∧ (∀ k y, s.node? ctx node = some n → n.st = .started → n.kind ≠ 1 → s.launch? ctx node = none → s.journalRoom = true → s.cp.failed = false → Unheld s →
      n.succs = [k] → k ≠ node → s.node? ctx k = some y → 1 ≤ y.pred →
      let bad := n.bad || s.teams.any (fun x => x.ctx == ctx && x.node == node && x.killed)
      ∃ t, exec (.nodeFinish ctx node) s = .next t ∧ Journalled s t 4 0 ctx node (if bad then 1 else 0)
        ∧ t = { s with
            store := Stored s t
            cp := { s.cp with
              queues := t.cp.queues, bufs := t.cp.bufs, nstore := t.cp.nstore, wseq := s.cp.wseq + 1
              nodes := (s.cp.nodes.filter (fun x => !(x.ctx == ctx && x.id == node && x.st == .started))).map (fun x =>
                if x.ctx = ctx ∧ x.id = k ∧ x.st ≠ .done then { x with pred := x.pred - 1 } else x) } })
    ∧ (∀ l core last, s.launch? ctx node = some l → (∀ e ∈ s.cp.engines, s.stuckOf ctx node e = []) → s.strayGroups ctx node = [] → l.dealt < l.team.teams →
      let m := l.team.teams - l.dealt
      m ≤ groupSize l.team → s.dealTo l.team m = some (core, last) →
      let q : QEntry := { ctx := ctx, node := node, prio := l.team.prio, order := s.cp.orderNext, teamids := (List.range m).map (· + l.dealt), saved := [] }
      let u := s.setEngine ((s.queueEngine core).insert q)
      exec (.teamDeal ctx node) s = .next { u with cp := { u.cp with
        orderNext := s.cp.orderNext + 1, dealAfter := last
        launches := s.cp.launches.map (fun x => if x.team.ctx = ctx ∧ x.team.node = node then { x with dealt := x.dealt + m } else x) } })

/-- R27, R28, R34, R282, R288, R291: the head of a queue engine is admitted when its conditions hold: a lone team takes its crew slots and its team
slot, and each thread starts READY at EPC with no register; the teams of a group start together in one unit of their level; a saved team comes back
with what its area holds. A head that has waited 4,096 cycles has teams of lower priority saved at their own save areas. -/
def Obligations.TeamsAdmitted : Prop :=
  ∀ (s : State) (core : Nat) (q : QEntry) (rest : List QEntry) (l : Launch), (s.queueEngine core).entries = q :: rest → s.launch? q.ctx q.node = some l →
    let u := s.setEngine { s.queueEngine core with entries := rest, headWait := 0 }
    (∀ k slot slots, q.saved = [] → q.teamids = [k] → l.team.clvl = 0 → s.coreAlive core = true → s.journalRoomFor 0 = true → u.takes l.team (.new k) core = true →
      u.freeTeamSlot l.team = some slot → takeSlots 0 l.team.crews (u.freeSlots core) = some slots →
      ∃ t new, exec (.teamAdmit core) s = .next t
        ∧ t = { u with
            store := t.store, crews := s.crews ++ new, cp := { u.cp with nodes := t.cp.nodes, serialNext := (u.newSerial + 1) % 2 ^ 24 }
            teams := s.teams ++ [{ l.team with serial := u.newSerial, teamid := k, core := core, slot := slot, tile := List.replicate l.team.tiles [] }] }
        ∧ new.map (·.id) = List.range l.team.crews ∧ new.map (·.slot) = slots
        ∧ ∀ c ∈ new, c.team = u.newSerial ∧ c.core = core ∧ c.fdom = l.team.fdom ∧ c.frames = [] ∧ c.bundles = [allLanes] ∧ c.threads.length = 32
            ∧ c.creg = List.replicate 64 0
            ∧ ∀ th ∈ c.threads, th.pc = l.team.epc ∧ th.st = .ready ∧ th.regs = [] ∧ th.idx = List.replicate 8 0 ∧ th.lastIssue = s.cycle ∧ th.causes = [])
    ∧ (∀ t, q.saved = [] → l.team.clvl ≠ 0 → s.cp.failed = false → s.tryAdmit core = some t →
      exec (.cohortAdmit core) s = .next t ∧ t.teams.map (·.teamid) = s.teams.map (·.teamid) ++ q.teamids
      ∧ ∀ x ∈ t.teams.drop s.teams.length, s.unitOf l.team.clvl x.core = s.unitOf l.team.clvl core)
    ∧ (s.tryAdmit core = none → exec (.teamAdmit core) s = .next s ∧ exec (.cohortAdmit core) s = .next s)
    ∧ (∀ v x cs slots, q.saved = [v.team.serial] → q.teamids = [] → s.saved.find? (fun w => w.team.serial == v.team.serial) = some v → v.status = 1 →
      v.op = none → v.acts = [] → v.team.clvl = 0 → s.coreAlive core = true → s.journalRoomFor 1 = true → u.takes v.team (.saved v.team.serial) core = true →
      (u.areaUse v (saveBytes v.team) .read).restoreRead v = .ok (x, cs) → takeSlots 0 v.team.crews (u.freeSlots core) = some slots →
      ∃ t, exec (.teamRestore v.team.serial core) s = .next t
        ∧ t.teams = s.teams ++ [{ x with core := core }] ∧ t.saved = s.saved.filter (fun w => w.team.serial != v.team.serial)
        ∧ (Unheld s → t.cp.wseq = s.cp.wseq + 1)
        ∧ ∃ new, t.crews = s.crews ++ new ∧ new.length = cs.length
          ∧ ∀ (j : Nat) (c d : Crew), cs[j]? = some c → new[j]? = some d →
              d.id = c.id ∧ d.core = core ∧ d.creg = c.creg ∧ d.frames = c.frames ∧ d.threads.map (·.regs) = c.threads.map (·.regs)
              ∧ d.threads.map (·.pc) = c.threads.map (·.pc))
    ∧ (∀ x, s.entryTeam q = some x → 4096 ≤ (s.queueEngine core).headWait → s.cp.failed = false → s.tryAdmit core = none → s.dbg = [] →
      ∃ t new, exec (.preemptionStart core) s = .next t ∧ t.saved = s.saved ++ new ∧ t.teams = s.teams ∧ t.crews = s.crews
        ∧ (t.queueEngine core).headWait = 0
        ∧ ∀ w ∈ new, w.status = 0 ∧ w.addr = w.team.saveB + w.team.slot * saveSize w.team
            ∧ ∃ y ∈ s.teams, y.prio < x.prio ∧ ∃ z ∈ s.cohortOf y, z.serial = w.team.serial)

/-- R250, R281, R284, R285: an idle core steps its LFSR and asks the core of its unit that it names, two requests at each level; the victim gives
entries that may move, within their partition and no more than the thief has places for, or none, and after ten requests the thief waits; the wait
ends. Of n entries it gives at most floor(n/2), or one, and one at least where one may move; where all of that half may move, and no group is
among them, it gives the half at its tail. What it gives where its tail may not move, or is a group, is log 25, and where the rounds start again after
an answer is log 131. -/
def Obligations.StealingSteps : Prop :=
  ∀ (s : State) (core : Nat),
    let e := s.queueEngine core
    (∀ v, s.maySteal core = true →
      let l := (2 * e.lfsr + ((if bit e.lfsr 15 then 1 else 0) + (if bit e.lfsr 13 then 1 else 0) + (if bit e.lfsr 12 then 1 else 0)
        + (if bit e.lfsr 10 then 1 else 0)) % 2) % 2 ^ 16
      let unit := s.allCores.filter (fun k => s.unitOf (1 + e.requests / 2) k == s.unitOf (1 + e.requests / 2) core)
      unit[l % unit.length]? = some v → v ≠ core → s.coreAlive v = true →
      exec (.stealRequest core) s = .next (s.setEngine { e with lfsr := l, requests := e.requests + 1, asked := some v }))
    ∧ (∀ v, e.asked = some v → v ≠ core → s.host.cur = .gale ∨ s.host.cur = .breeze → s.given v core = [] →
      exec (.stealAnswer v core) s = .next (s.setEngine
        (if e.requests ≥ 10 then { e with asked := none, requests := 0, backoff := 1025 } else { e with asked := none })))
    ∧ (∀ v, e.asked = some v → v ≠ core → s.host.cur = .gale ∨ s.host.cur = .breeze → s.given v core ≠ [] →
      ∃ t, exec (.stealAnswer v core) s = .next t ∧ t = { s with cp := { s.cp with engines := t.cp.engines } }
        ∧ (t.queueEngine v).entries = (s.queueEngine v).entries.filter (fun q => !(s.given v core).contains q)
        ∧ (∀ q, q ∈ (t.queueEngine core).entries ↔ q ∈ e.entries ∨ q ∈ s.given v core)
        ∧ (t.queueEngine core).requests = 0 ∧ (t.queueEngine core).asked = none ∧ (∀ k, k ≠ v → k ≠ core → t.queueEngine k = s.queueEngine k)
        ∧ (e.entries.length ≤ 64 → (t.queueEngine core).entries.length ≤ 64)
        ∧ ∀ q ∈ s.given v core, q.saved = [] ∧ ∃ x, s.entryTeam q = some x ∧ s.unitOf (x.slvl + 1) core = s.unitOf (x.slvl + 1) v
            ∧ s.inPartition x.ctx core = true)
    ∧ (∀ v,
      let vs := (s.queueEngine v).entries
      (s.given v core).length ≤ max 1 (vs.length / 2)
      ∧ ((∃ q ∈ vs, s.mayMove v core q = true) → e.entries.length < 64 → s.given v core ≠ [])
      ∧ (2 ≤ vs.length → (∀ q ∈ vs.reverse.take (vs.length / 2), s.mayMove v core q = true ∧ ∃ x, s.entryTeam q = some x ∧ x.clvl = 0) →
          e.entries.length + vs.length / 2 ≤ 64 → s.given v core = vs.reverse.take (vs.length / 2)))
    ∧ (e.backoff = 1 → exec (.stealBackoffExpiry core) s = .next (s.setEngine { e with backoff := 0 }))

/-- R49, R52, R53, R136: for a crew whose allocation is blocked the percolator takes the excess entries of a victim on the same core; a spill write
frees its entry; a refill brings the value back to an entry; R82: a fetch fills a sector with the bytes of memory, and the bundles that wait for it
can issue. -/
def Obligations.SpillsRefillsFetches : Prop :=
  ∀ (s : State) (k : Nat) (c : Crew), s.crewAt c.team c.id = some k → s.crews[k]? = some c →
    (∀ j d, s.crewBlocked c ≠ 0 → s.victim k (s.crewBlocked c) = some j → s.crews[j]? = some d →
      ∃ t d', exec (.percolatorSpill c.team c.id) s = .next t ∧ t = { s with crews := s.crews.set j d' } ∧ j ≠ k ∧ d.core = c.core
        ∧ ∀ (l : Nat) (th : Thread), l < 32 → d.threads[l]? = some th → ∃ th', d'.threads[l]? = some th' ∧ th'.regs = th.regs.map (fun r =>
            if r.st = .mapped ∧ (0, r.n) ∈ d.excess (s.teamOf d).regmin l then { r with st := if r.pend ∧ !r.keep then .spilled else .spilling, lvl := 0 } else r))
    ∧ (∀ l g n r pa, (c.regsAt l g).find? (fun r => r.n == n && r.st.leaving) = some r → s.spillHeld c r.lvl n l .write = false →
      s.spillPa c r.lvl n l .write = .ok pa → s.store.wsecs = [] →
      ∃ t c', exec (.spillWriteComplete c.team c.id l g n) s = .next t
        ∧ t = { s with
            store := { StoredWalk s t with mem := s.store.mem.putBytes pa (toBytes 4 r.v.toNat), wsecs := [] }
            pkg := { s.pkg with errs := t.pkg.errs }, crews := s.crews.set k c' }
        ∧ c'.regsAt l g = (c.regsAt l g).map (fun r => if r.n = n ∧ r.st.leaving = true then { r with st := .spilled } else r))
    ∧ (∀ l g n r pa, c.spilledLevel l n = some g → (c.regsAt l g).find? (fun r => r.n == n) = some r → s.canTake c l 1 = true →
      s.spillHeld c r.lvl n l .read = false →
      let s1 := s.spillUse c r.lvl n l
      s1.spillPa c r.lvl n l .read = .ok pa → s1.poisonRead (dieOf c.core) (.phys pa) 4 = none → s.store.wsecs = [] →
      ∃ t c', exec (.registerRefillComplete c.team c.id l n) s = .next t ∧ t = { s with store := t.store, pkg := t.pkg, crews := s.crews.set k c' }
        ∧ Looked s t
        ∧ c'.regsAt l g = (c.regsAt l g).map (fun r =>
            if r.n = n then { r with v := BitVec.ofNat 32 (s.store.mem.readN pa 4), st := .mapped } else r))
    ∧ (∀ pc pa, s.fetch c pc = .wait pa → s.fetchReady c pa = true → pa / 256 ∉ s.store.poison →
      (∀ u ∈ s.store.upsets, u.at (.phys (pa / 256 * 256)) 256 = false) → (∀ x ∈ s.store.icache, x.secs.length = 4) →
      let waits := fun (l : Nat) => l < 32 ∧ ∃ th, c.threads[l]? = some th ∧ th.st = .stalled ∧ th.why = .fetch ∧ th.pc = pc
      (∃ l, waits l) →
      ∃ t c', exec (.fetchComplete c.team c.id pc) s = .next t
        ∧ t = { s with store := { StoredWalk s t with llTlb := s.store.llTlb, icache := t.store.icache }, crews := t.crews }
        ∧ (s.store.wsecs = [] → t.store.mem = s.store.mem)
        ∧ (∀ j < 8, t.fetchBlock c.core (pa / 256 * 256 + 32 * j) = some (t.store.mem.bytes (pa / 256 * 256 + 32 * j) 32))
        ∧ t.crews[k]? = some c' ∧ ∀ l, waits l → (c'.thread l).st = .ready)

/-! ### The package -/

/-- R94, R375, R376: temperatures, limits and refresh; R377, R379, R380: the package enters the deepest state that HLT allows, CALM loses the caches and
die scratch, and a wake begins an exit that takes the latency of the state that is left, for a write of HLT too (the model's choice, log 40). -/
def Obligations.TemperaturesAndPower : Prop :=
  (∀ (s : State) (k v : Nat), (s.die k).out = false →
    let on := fun (f : Die → Die) => { s with pkg := { s.pkg with dies := s.pkg.dies.map (fun d => if d.phys = k then f d else d) } }
    exec (.cacheDieTempUpdate k v) s = .next (on (fun d => { d with
      temp := v % 256, scald := if v % 256 > d.limit then true else if v % 256 + 5 ≤ d.limit then false else d.scald }))
    ∧ exec (.limitWrite k v) s = .next (on (fun d => { d with limit := min 105 (max 70 (v % 256)) })))
  ∧ (∀ (s : State) (k : Nat) (ts : List Nat), (s.tower k).present = true → ts ≠ [] → (∀ x ∈ ts, x < 256) →
    ∃ t u, exec (.towerTempPoll k ts) s = .next t
      ∧ t = { s with pkg := { s.pkg with towers := s.pkg.towers.map (fun x => if x.num = k then u else x) } }
      ∧ u = { s.tower k with last := ts, tmax := u.tmax, rmax := u.rmax }
      ∧ (∀ x ∈ ts, x ≤ u.tmax) ∧ u.tmax ∈ 0 :: ts
      ∧ ∀ r, u.rmax ≤ r ↔ ∀ (j : Nat) (x : Nat), ts[j]? = some x →
          let h := max x (((s.tower k).last[j]?).getD 0)
          (85 < h → 1 ≤ r) ∧ (95 < h → 2 ≤ r) ∧ (105 < h → 3 ≤ r))
  ∧ (∀ s : State,
    let h := s.host
    let us : PState → Nat := fun p => match p with | .gale => 0 | .breeze => 2 | .zephyr => 200 | .calm => 20000
    let deep := fun (n : Nat) => if n ≥ 20000 then PState.calm else if n ≥ 200 then .zephyr else if n ≥ 2 then .breeze else .gale
    let leaves := fun (u : State) (p : PState) => { u with host := { u.host with exiting := some p, timer := 1000 * us u.host.cur } }
    (s.pkgIdle = true → 1000 * h.idlet ≤ h.idle → us h.cur < us (deep h.hlt) → h.entering = none → h.exiting = none →
      exec .idleTimerExpiry s = .next { s with host := { h with entering := some (deep h.hlt) } })
    ∧ (∀ p, h.entering = some p → h.exiting = none → p ≠ .calm → (h.wakeAfter = false → us p ≤ us (deep h.hlt)) → (h.wakeAfter = true → p ≠ .gale) →
      let u := { s with
        pkg := { s.pkg with dies := s.pkg.dies.map (fun d => if p = .zephyr ∧ d.log ≠ none ∧ d.failed = false then { d with asleep := true, wakeAge := none } else d) }
        host := { h with cur := p, entering := none, wakeAfter := false, idle := 0 } }
      exec .powerEntryComplete s = .next (if h.wakeAfter = true then leaves u .gale else u))
    ∧ (h.entering = some .calm →
      ∃ t, exec .powerEntryComplete s = .next t ∧ t.host.cur = .calm ∧ t.host.entering = none
        ∧ t.store = { s.store with mem := t.store.mem, wsecs := t.store.wsecs, l1 := [], l2 := [], llc := [], icache := [], coreTlb := [], llTlb := []
                                   lookups := [], dscr := [], poison := t.store.poison, upsets := t.store.upsets }
        ∧ ((∀ d ∈ s.pkg.dies, d.failed = false) → t.store.wsecs = []) ∧ (s.store.wsecs = [] → t.store.mem = s.store.mem)
        ∧ ∀ d ∈ t.dicts, d.entries = [])
    ∧ (h.entering = none → h.exiting = none → h.cur ≠ .gale →
      exec .wake s = .next (leaves s .gale) ∧ exec .packageWakeEvent s = .next (leaves s .gale))
    ∧ (h.entering ≠ none → exec .wake s = .next { s with host := { h with wakeAfter := true } }
      ∧ exec .packageWakeEvent s = .next { s with host := { h with wakeAfter := true } })
    ∧ (∀ p, h.exiting = some p → h.timer = 0 →
      exec .powerExitComplete s = .next { s with
        pkg := { s.pkg with dies := s.pkg.dies.map (fun d =>
          if (p = .gale ∨ p = .breeze) ∧ d.asleep = true ∧ d.wakeAge = none then { d with wakeAge := some 0, hbAt := 0 } else d) }
        cp := { s.cp with hbAge := 0 }, host := { h with cur := p, exiting := none, idle := 0 } })
    ∧ (∀ v, h.entering = none → h.exiting = none →
      let u := { s with host := { h with hlt := v % 2 ^ 20 } }
      exec (.hltWrite v) s = .next (if us (deep (v % 2 ^ 20)) < us h.cur then leaves u (deep (v % 2 ^ 20)) else u)))

/-- R325, R326: a scrub pass counts a corrected codeword, or counts and poisons; R327, R328: a core fails, and the teams on it, and a spare core or
slice takes its number. R327, R342, R343: a die that has not answered for 5 µs, or whose link has not woken, is declared failed: its teams are
killed, and what its cores had under way is lost; the rebuild of its shards poisons what it held in M, O or W. A loss that poisons sectors counts
them. R329, R330: the heartbeat of the command processor, and the standby's takeover, which rebuilds the nodes' counts from the node store; a second
failure loses every context, kills its teams and is reported. The model's choices: when a scrub counts (log 102), what a takeover redoes (log 45), where
it finds the node store (log 103), which processor starts as active (log 30), what the argument of VERTICAL_LINK_HEARTBEAT says, and that a later
answer does not take the first miss back (log 119). That a record that something holds waits is log 120. -/
def Obligations.LossesAndErrors : Prop :=
   (∀ s : State,
      let counted := fun (k ce ue : Nat) => s.pkg.errs.modify k (fun e => (min (2 ^ 32 - 1) (e.1 + ce), min (2 ^ 32 - 1) (e.2 + ue)))
      (∀ a n k, a < 2 ^ 52 → s.homeStack a = some k → s.homeStack (64 * (a / 64)) = some k → s.stackOff k = false →
        s.host.cur = .gale ∨ s.host.cur = .breeze → (∀ u ∈ s.store.upsets, u.ten = none → u.line ≠ a / 64) →
        exec (.scrubPass a 0) s = .next s
        ∧ exec (.scrubPass a 1) s = .next { s with pkg := { s.pkg with errs := counted k 1 0 } }
        ∧ (2 ≤ n → a / 256 ∉ s.store.poison → exec (.scrubPass a n) s = .next { s with
            pkg := { s.pkg with errs := counted k 0 1 }, store := { s.store with poison := a / 256 :: s.store.poison } })
        ∧ (2 ≤ n → a / 256 ∈ s.store.poison → exec (.scrubPass a n) s = .next s))
      ∧ (∀ k, exec (.errorCountClear k) s = .next { s with pkg := { s.pkg with errs := s.pkg.errs.modify k (fun _ => (0, 0)) } })
      ∧ (∀ k, s.coreAlive k = true →
        ∃ t, exec (.coreFailure k) s = .next t ∧ t.pkg = { s.pkg with failedCores := s.pkg.failedCores ++ [k], errs := t.pkg.errs }
          ∧ ∀ x ∈ s.teams, x.ended = false → x.core = k →
              (∀ c ∈ t.crews, c.team ≠ x.serial)
              ∧ ∃ r ∈ t.cp.faultQ, r.cause = .dieLost ∧ r.sub = 2 ∧ r.serial = x.serial ∧ r.ctx = x.ctx)
      ∧ (∀ k, k ∈ s.pkg.failedCores → (∀ c ∈ s.crews, c.core ≠ k) →
        ∃ t, exec (.spareCoreMap k) s = .next t
          ∧ t = { s with pkg := t.pkg, store := { s.store with l1 := t.store.l1, icache := t.store.icache, coreTlb := t.store.coreTlb, lookups := t.store.lookups } }
          ∧ t.pkg = { s.pkg with
              failedCores := s.pkg.failedCores.filter (fun x => x != k)
              sparesUsed := if k / 16 ∈ s.pkg.sparesUsed then s.pkg.sparesUsed else s.pkg.sparesUsed ++ [k / 16]
              lostCores := if k / 16 ∈ s.pkg.sparesUsed then s.pkg.lostCores ++ [k] else s.pkg.lostCores })
      ∧ (∀ d sl, s.pkg.dies.find? (fun x => x.log == some d && !x.failed) ≠ none →
        ∃ t, exec (.spareSliceMap d sl) s = .next t
          ∧ t = { s with
              pkg := { s.pkg with dies := t.pkg.dies, errs := t.pkg.errs }
              store := { s.store with poison := t.store.poison, l2 := t.store.l2, wsecs := t.store.wsecs, dscr := t.store.dscr } }
          ∧ (∀ l, l ∈ t.store.l2 ↔ l ∈ s.store.l2 ∧ ¬(l.die = d ∧ sliceOf (1024 * l.line) ((s.ctxOf l.ctx).seedFor l.shr) = sl))
          ∧ (∀ l ∈ s.store.l2, l.die = d → sliceOf (1024 * l.line) ((s.ctxOf l.ctx).seedFor l.shr) = sl → ∀ j < 4,
              l.sts[j]? = some .m ∨ l.sts[j]? = some .o → 4 * l.line + j ∈ t.store.poison)
          ∧ (∀ k ∈ s.store.poison, k ∈ t.store.poison)
          ∧ ∃ n, t.pkg.errs = counted (s.physDie d / 2) 0 n ∧ (n = 0 ↔ ∀ k ∈ t.store.poison, k ∈ s.store.poison)))
  ∧
   (∀ s : State,
      let lost := fun (k d : Nat) (t : State) => (t.die d).failed = true ∧ (t.die d).rebuilding = true ∧ bit t.pkg.dfail d = true
        ∧ (∀ x ∈ s.teams, x.ended = false → x.core / 64 = k → (∀ c ∈ t.crews, c.team ≠ x.serial)
            ∧ ∃ r ∈ t.cp.faultQ, r.cause = .dieLost ∧ r.sub = 1 ∧ r.serial = x.serial)
        ∧ (∀ a ∈ t.accs, a.core / 64 ≠ k) ∧ (∀ e ∈ t.accq, e.core / 64 ≠ k) ∧ (∀ c ∈ t.copies, c.core / 64 ≠ k) ∧ (∀ x ∈ t.dictlds, x.core / 64 ≠ k)
        ∧ (∀ x ∈ t.store.dscr, x.die ≠ k)
      let die := fun (d : Nat) (f : Die → Die) => { s with pkg := { s.pkg with dies := s.pkg.dies.map (fun x => if x.phys = d then f x else x) } }
      (∀ d k n, (s.die d).log = some k → (s.die d).failed = false → (s.die d).hbMiss = some n → 5000 ≤ n →
        ∃ t, exec (.linkLost d) s = .next t ∧ lost k d t ∧ t.pkg.dcause = s.pkg.dcause)
      ∧ (∀ d k n, (s.die d).log = some k → (s.die d).failed = false → (s.die d).wakeAge = some n → 1000 * min 1000 (max 10 s.pkg.lwl) ≤ n →
        ∃ t, exec (.linkWakeExpired d) s = .next t ∧ lost k d t ∧ bit t.pkg.dcause d = true)
      ∧ (∀ d n, (s.die d).log ≠ none → (s.die d).failed = false → ((s.die d).asleep = false ∨ (s.die d).wakeAge ≠ none) →
        exec (.verticalLinkHeartbeat d n) s = .next (die d (fun x => if n = 1 then { x with hbAt := s.cycle, asleep := false, wakeAge := none }
          else if n = 0 ∨ x.asleep = false then { x with hbAt := s.cycle, hbMiss := some (x.hbMiss.getD 0) } else { x with hbAt := s.cycle })))
      ∧ (∀ d k, (s.die d).rebuilding = true → (s.die d).log = some k →
        ∃ t, exec (.shardRebuild d) s = .next t
          ∧ t = { s with
              pkg := { s.pkg with
                dies := s.pkg.dies.map (fun x => if x.phys = d then { x with rebuilding := false } else x)
                errs := t.pkg.errs, shardAt := t.pkg.shardAt }
              store := { s.store with
                poison := t.store.poison, l2 := s.store.l2.filter (fun l => l.die != k), wsecs := s.store.wsecs.filter (fun w => w.die != k) } }
          ∧ (∀ n, n ∈ t.store.poison ↔ n ∈ s.store.poison ∨ (∃ w ∈ s.store.wsecs, w.die = k ∧ w.sector = n)
              ∨ ∃ l ∈ s.store.l2, l.die = k ∧ ∃ j < 4, n = 4 * l.line + j ∧ (l.sts[j]? = some .m ∨ l.sts[j]? = some .o))
          ∧ (∀ st j, j < 2 →
            let other := 2 * (d / 2) + (1 - d % 2)
            t.pkg.shardOf st (1024 * j) =
              if st = d / 2 ∧ s.pkg.shardOf st (1024 * j) = d ∧ s.pkg.dies.any (fun x => x.phys == other && x.log.isSome && !x.failed) = true
              then other else s.pkg.shardOf st (1024 * j))
          ∧ ∃ n, t.pkg.errs = s.pkg.errs.modify (s.physDie k / 2) (fun e => (min (2 ^ 32 - 1) e.1, min (2 ^ 32 - 1) (e.2 + n)))
            ∧ (n = 0 ↔ ∀ j ∈ t.store.poison, j ∈ s.store.poison))
      ∧ (s.cp.failed = false → exec .cpHeartbeat s = .next { s with cp := { s.cp with hbAge := 0 } })
      ∧ (5000 ≤ s.cp.hbAge → s.cp.standby = true → Unheld s →
        ∃ t, exec .cpHeartbeatTimeout s = .next t
          ∧ t = { s with
              store := Stored s t, saved := t.saved, pkg := { s.pkg with errs := t.pkg.errs }
              cp := { s.cp with
                nodes := t.cp.nodes, heldDecs := t.cp.heldDecs, wseq := s.cp.wseq + 1, active := 4 - s.cp.active, standby := false, failed := false
                hbAge := 0, takeovers := s.cp.takeovers + 1 } }
          ∧ t.saved.map (·.team) = s.saved.map (·.team)
          ∧ (∀ n ∈ s.cp.nodes, ∀ c, s.cp.nstore.find? (fun x => x.ctx == n.ctx && x.id == n.id && x.seq == n.seq) = some c →
              ∃ m ∈ t.cp.nodes, m.ctx = n.ctx ∧ m.id = n.id ∧ m.succs = c.succs
                ∧ m.pred = c.pred - ((s.cp.nstore.filter (fun x => x.st == .done && x.ctx == c.ctx)).map (fun x => x.succs.count c.id)).sum)
          ∧ Journalled s t 12 0 0 0 ((4 - s.cp.active) / 4 + 2 ^ 64 * (s.cp.wseq % 2 ^ 64)))
      ∧ (5000 ≤ s.cp.hbAge → s.cp.standby = false → s.cp.failed = true →
        let fresh := fun (ctx : Nat) => ∃ x ∈ s.ctxs, x.id = ctx ∧ x.lost = false
        ∃ t, exec .cpHeartbeatTimeout s = .next t ∧ t.cp.lossReport = true ∧ t.ctxs = s.ctxs.map (fun x => { x with lost := true })
          ∧ (∀ u ∈ s.teams, u.ended = false → fresh u.ctx → s.dumpCore u.serial = none → (∀ w ∈ s.saved, w.team.serial ≠ u.serial) →
              ∀ c ∈ t.crews, c.team = u.serial → ∀ l < 32, ∀ th, c.threads[l]? = some th → th.st = .exited)
          ∧ (∀ w ∈ t.saved, fresh w.team.ctx → SaveAct.killAll ∈ w.acts)))

/-- R339, R341: a detector fires for a buffer, the token's holder drains at most 16 and passes the token on, and a port goes down after 16 failures in a
row. R109, R270, R377: a write from outside is made at the home, and none reaches the memory of a table (R266, log 96); an access to a package that
sleeps is kept and begins its exit. R367: a hidden
function reads as all ones. R369: a function-level reset of a function with its partition's dies, or with none. That its order is one step, taken at once in BREEZE, is log 37;
the offsets that stand for a function's configuration space are log 19. -/
def Obligations.NetworkAndOutside : Prop :=
  ∀ s : State,
    (∀ r b, exec (.routerTimeoutDetect r b) s = .next { s with pkg :=
      if r = 8 then { s.pkg with launoFired := if b ∈ s.pkg.launoFired then s.pkg.launoFired else s.pkg.launoFired ++ [b] }
      else { s.pkg with routers := s.pkg.routers.map (fun x => if x.stack = r ∧ b ∉ x.fired then { x with fired := x.fired ++ [b] } else x) } })
    ∧ exec (.squallTokenVisit 0) s = .next { s with pkg := { s.pkg with
        token := (s.pkg.token + 1) % 8, tokenAge := 0
        routers := s.pkg.routers.map (fun x => if x.stack = s.pkg.token then { x with fired := x.fired.drop 16 } else x) } }
    ∧ (∀ d, d ≠ 0 → exec (.squallTokenVisit d) s = .next { s with pkg := { s.pkg with launoFired := s.pkg.launoFired.drop 16 } })
    ∧ (∀ p ok n, s.pkg.ports[p]? = some n → exec (.flitReplay p ok) s = .next { s with pkg := { s.pkg with
        ports := s.pkg.ports.set p (if 16 ≤ n then 16 else if ok = 1 then 0 else n + 1) } })
    ∧ (∀ (i : Instr) (a : Nat) (w : Bool) (d : List Byte), i = .hostDeviceMemoryAccess a w d ∨ i = .incomingLaunoRequest a w d →
      (s.outsideWaits i = false → w = false → exec i s = .next s)
      ∧ (s.outsideWaits i = false → w = true → s.tableAt a d.length = true → exec i s = .next s)
      ∧ (s.outsideWaits i = false → w = true → s.tableAt a d.length = false → d ≠ [] → s.located a = true → s.located (a + d.length - 1) = true →
          s.store.wsecs = [] →
          ∃ t, exec i s = .next t
            ∧ t = { s with store := { s.store with
                mem := s.store.mem.putBytes a d, l1 := t.store.l1, l2 := t.store.l2, poison := t.store.poison, upsets := t.store.upsets } })
      ∧ (s.outsideWaits i = true → ∃ t, exec i s = .next t
          ∧ t = { s with host := { s.host with held := s.host.held ++ [i], exiting := t.host.exiting, timer := t.host.timer, wakeAfter := t.host.wakeAfter } }
          ∧ (s.host.cur ≠ .gale → s.host.entering = none → t.host.exiting = some .gale)
          ∧ (s.host.entering ≠ none → t.host.wakeAfter = true)))
    ∧ (∀ fn off, s.visible fn = false → s.confRead fn off = 2 ^ 32 - 1)
    ∧ exec (.functionLevelReset 0) s = .next { s with host := { s.host with
        busMaster := false, fns := s.host.fns.map (fun f => if f.num = 0 then { f with conf := [] } else f) } }
    ∧ (∀ fn, fn ≠ 0 → s.visible fn = false → exec (.functionLevelReset fn) s = .next s)
    ∧ (∀ fn, fn ≠ 0 → s.visible fn = true → s.host.cur = .gale ∨ s.host.cur = .breeze → s.host.entering = none →
      let ds := match s.pkg.parts.find? (fun x => x.fn == fn) with | some p => s.partDies p | none => []
      ∃ t, exec (.functionLevelReset fn) s = .next t
        ∧ t.host = { s.host with fns := s.host.fns.map (fun f => if f.num = fn then { f with tdisp := .unlocked, streams := [], conf := [] } else f) }
        ∧ t.pkg = { s.pkg with errs := t.pkg.errs } ∧ (∀ e ∈ t.drains, ∀ w ks, e.kind = .split w ks → ∀ k ∈ ks, k ∉ ds)
        ∧ (∀ x ∈ t.store.dscr, x.die ∉ ds) ∧ (∀ x ∈ t.ctxs, ∀ y ∈ x.split, y.1 ∉ ds) ∧ (ds = [] → t.store.dscr = s.store.dscr ∧ t.ctxs = s.ctxs)
        ∧ (∀ l ∈ t.store.l2, l.die ∈ ds → ∀ st ∈ l.sts, st ≠ .m ∧ st ≠ .o)
        ∧ (∀ x ∈ s.teams, x.ended = false → x.core / 64 ∈ ds → ∀ c ∈ t.crews, c.team ≠ x.serial))

/-- R347 to R349: a write of STOP or CSTOP is due on the next cycle, when each scheduler with a stop due stops and its crews are parked with
DEBUG_STOP; a matching comparator stops a scheduler before the instruction issues; RUN and STEP let go on the crews that nothing else parks (log 42);
SOF is stored. R350, R351: GO starts the dump of a team that is parked whole on the core, and is refused otherwise; the parts of a dump are written
in their order, the status word last, one part at a time once the team has drained, and the dump ends complete with the last; one whose team is gone
or that meets a home that is off or poison is aborted. R356: FRZ and CLR act on every counter of the core at once. -/
def Obligations.DebugBlock : Prop :=
   (∀ (s : State) (core n : Nat), s.blockThere core = true → n < 4 → (s.debugOf core).scheds.length = 4 →
      let d := s.debugOf core
      let x := d.sched n
      let put := fun (t : State) (y : Sched) => { t with dbg := ({ d with scheds := d.scheds.set n y } : Debug) :: s.dbg.filter (fun e => e.core != core) }
      let goes := fun (i : Instr) (stepping : Bool) => ∃ t, exec i s = .next t
        ∧ t = put { s with crews := t.crews } { x with stopped := false, stepping := stepping }
        ∧ t.crews.length = s.crews.length
        ∧ ∀ (k : Nat) (c : Crew), s.crews[k]? = some c → c.threads.length = 32 → (∀ th ∈ c.threads, th.st = .ready → th.why = .none) →
            let mine := c.core = core ∧ c.slot % 4 = n ∧ ∀ th ∈ c.threads, ∀ p ∈ th.causes, p = .debug core n
            ∃ c', t.crews[k]? = some c'
              ∧ (mine → c' = { c with bundles := c'.bundles, threads := c.threads.map (uncaused (fun p => p == .debug core n)) })
              ∧ (¬mine → c' = c)
      (x.stopped = false → exec (.stop core n) s = .next (put s { x with due := some (x.due.getD 1) }))
      ∧ (x.stopped = true → goes (.run core n) false) ∧ goes (.step core n) true
      ∧ (∀ v, v % 8 = 0 → exec (.sofWrite core n v) s = .next (put s { x with sof := bit v 7 }))
      ∧ (x.stopped = false → x.stepping = false →
        (∃ c ∈ s.crews, c.core = core ∧ c.slot % 4 = n ∧ c.busy = [] ∧ ∃ b ∈ c.bundles, ∃ l i, (lanesOf b).head? = some l
          ∧ (∀ j ∈ lanesOf b, (c.thread j).st = .ready)
          ∧ (bit x.pc0 0 = true ∧ x.pc0 / 4 = (c.thread l).pc.toNat / 4 % 2 ^ 55 ∨ bit x.pc1 0 = true ∧ x.pc1 / 4 = (c.thread l).pc.toNat / 4 % 2 ^ 55)
          ∧ s.fetch c (c.thread l).pc = .ok i ∧ i ≠ .padWord ∧ (collects i = false ∨ b = allLanes ∨ c.live ≠ allLanes)) →
        ∃ t, exec (.pcMatchStop core n) s = .next t
          ∧ t = put { s with crews := t.crews } { x with stopped := true, stepping := false, due := none, why := 3, scyc := s.cycle }
          ∧ t.crews.length = s.crews.length
          ∧ ∀ (k : Nat) (c : Crew), s.crews[k]? = some c → ∃ c', t.crews[k]? = some c'
              ∧ (c.core = core ∧ c.slot % 4 = n → CrewParks c c' (.debug core n)) ∧ (¬(c.core = core ∧ c.slot % 4 = n) → c' = c))
      ∧ ((∀ k < 4, (d.sched k).stopped = false) →
        ∃ t, exec (.cstop core) s = .next t ∧ t = { s with dbg := t.dbg } ∧ (∀ j, j ≠ core → t.debugOf j = s.debugOf j)
          ∧ ∀ k < 4, (t.debugOf core).sched k = { d.sched k with due := some ((d.sched k).due.getD (if k = 0 then 1 else 6)) }))
  ∧
   (∀ s : State, (s.dbg.map (·.core)).Nodup → (∀ d ∈ s.dbg, d.scheds.length = 4) →
      let t := s.stopDue
      let due := fun (core n : Nat) => ((s.debugOf core).sched n).stopped = false ∧ ((s.debugOf core).sched n).due ≠ none
      t = { s with dbg := t.dbg, crews := t.crews } ∧ t.crews.length = s.crews.length
      ∧ (∀ core n w, n < 4 → ((s.debugOf core).sched n).stopped = false → ((s.debugOf core).sched n).due = some w →
          (t.debugOf core).sched n = { (s.debugOf core).sched n with stopped := true, stepping := false, due := none, why := w, scyc := s.cycle })
      ∧ ∀ (k : Nat) (c : Crew), s.crews[k]? = some c → ∃ c', t.crews[k]? = some c'
          ∧ (due c.core (c.slot % 4) → CrewParks c c' (.debug c.core (c.slot % 4))) ∧ (¬due c.core (c.slot % 4) → c' = c))
  ∧
   (∀ (s : State) (core : Nat), s.blockThere core = true →
      let d := s.debugOf core
      let parked := fun (x : Team) => x.core = core ∧ x.ended = false ∧ s.saving x.serial = false
        ∧ ∀ c ∈ s.crews, c.team = x.serial → ∀ th ∈ c.threads, th.st = .parked ∨ th.st = .exited
      let shut := fun (n : Nat) => { d with dstat := n, dump := none, bars := [] }
      let writes := fun (t : State) => exec (.dumpWrite core) s = .next t
        ∧ t = { s with dbg := t.dbg, freeCtr := t.freeCtr, store := StoredWalk s t, pkg := { s.pkg with errs := t.pkg.errs } }
      let reads2 := fun (a : Nat) (t : State) => s.located a = true → a % 256 = 0 → a / 256 ∉ s.store.poison → s.store.mem.wf = true →
        t.store.mem.readN a 4 = 2
      (∀ x, d.dstat ≠ 1 → s.findTeam d.dteam = some x → parked x →
        ∃ bars, exec (.go core) s = .next (s.setDebug { d with
          dstat := 1, dump := some { team := d.dteam, addr := d.dumpA / 65536 * 65536 }, events := [], told := [], bars := bars }))
      ∧ (d.dstat ≠ 1 → (∀ x, s.findTeam d.dteam = some x → ¬parked x) → exec (.go core) s = .next (s.setDebug { d with dstat := 3 }))
      ∧ (d.dstat = 1 → exec (.go core) s = .next s)
      ∧ (∀ x, d.dump = some x → s.findTeam x.team = none → d.waiting = [] → ∃ t, writes t ∧ t.debugOf core = shut 4 ∧ reads2 x.addr t)
      ∧ (∀ x y p rest, d.dump = some x → s.findTeam x.team = some y → s.dumpReady x y = true → d.waiting = [] → x.todo.getD (s.dumpParts d y) = p :: rest →
        (x.todo = none → s.store.upsets = []) →
        let pieces := s.partPieces d p rest.isEmpty
        (s.dumpReach (x.addr + p.off) p.len = (p.len, false) →
          ∃ t, writes t
            ∧ (s.store.wsecs = [] → t.store.mem = pieces.foldl (fun m q =>
                if q.1 ≥ p.len then m else m.paste (x.addr + p.off + q.1) (min q.2.1 (p.len - q.1)) q.2.2) s.store.mem)
            ∧ t.debugOf core = if rest = [] then shut 2 else { d with dump := some { x with todo := some rest } })
        ∧ ((s.dumpReach (x.addr + p.off) p.len).2 = true → (∀ q ∈ pieces, q.2.2.wf = true) →
          ∃ t, writes t ∧ t.debugOf core = shut 4 ∧ reads2 x.addr t))
      ∧ (∀ y, ∃ h n ps met,
          s.dumpParts d y = { off := 0, len := 0x400, pieces := [(0, n, h)] } :: ps
            ++ [{ off := 0, len := 0xB0, pieces := [areaPiece 0 (toBytes 4 1)], met := met }]
          ∧ (∀ c ∈ h, 4 ≤ c.1) ∧ ∀ p ∈ ps, 0x400 ≤ p.off)
      ∧ (∀ v, exec (.frz core v) s = .next (s.setDebug { d with frz := bit v 0 }))
      ∧ exec (.clr core) s = .next (s.setDebug { d with leaves := List.replicate 11 0, total := 0 }))

/-- R368, R371: what each request of the mailbox answers and changes; the vendor-defined sets answer ERROR UnsupportedRequest outside a secure session,
and TDISP on the management function (log 28). The bytes of certificates, signatures and the like, which the spec does not give, are
`Config.payload`'s; that a KEY_EXCHANGE must come before its FINISH, that requests outside a session and of TDISP in another state are refused so, and
the boot ROM's bytes are the model's choices too (log 10). SHA-384 is that of FIPS 180-4 (log 109). -/
def Obligations.MailboxRequests : Prop :=
  ∀ (s : State) (fn : Nat), s.visible fn = true →
    let f := s.fn fn
    let free := fun (name : String) (arg : Nat) => Response.bytes name (Config.payload name arg f.responses.length)
    let gives := fun (i : Instr) (r : Response) (g : Fn → Fn) => exec i s = .next { s with host := { s.host with
      fns := s.host.fns.map (fun x => if x.num = fn then g { x with responses := x.responses ++ [r] } else x) } }
    let no := fun (i : Instr) (name : String) => gives i (.unsupported name) id
    gives (.getVersion fn) (.bytes "GET_VERSION" [0x12, 0x13]) id ∧ gives (.getCapabilities fn) (free "GET_CAPABILITIES" 0) id
    ∧ gives (.negotiateAlgorithms fn) (.algorithms "ECDSA P-384" "SHA-384") id ∧ gives (.getDigests fn) (free "GET_DIGESTS" 0) id
    ∧ gives (.getCertificate fn) (free "GET_CERTIFICATE" 0) id ∧ (∀ n, gives (.challenge fn n) (free "CHALLENGE" n) id)
    ∧ gives (.getMeasurements fn 1) (.bytes "GET_MEASUREMENTS" ((sha384 s.host.firmware).map BitVec.toNat)) id
    ∧ gives (.getMeasurements fn 2) (.bytes "GET_MEASUREMENTS" ((sha384 Config.bootRom).map BitVec.toNat)) id
    ∧ gives (.getMeasurements fn 3) (.bytes "GET_MEASUREMENTS" ((sha384 (s.host.applied.bytes 0 4096)).map BitVec.toNat)) id
    ∧ (∀ n, n ∉ [1, 2, 3, 4] → no (.getMeasurements fn n) "GET_MEASUREMENTS")
    ∧ (∀ n, gives (.keyExchange fn n) (free "KEY_EXCHANGE" n) (fun x => { x with handshake := true }))
    ∧ (f.handshake = true → gives (.finish fn) (free "FINISH" 0) (fun x => { x with handshake := false, session := true }))
    ∧ (f.handshake = false → no (.finish fn) "FINISH")
    ∧ no (.unsupportedRequest fn) "UNSUPPORTED_REQUEST"
    ∧ (f.session = true →
      gives (.heartbeat fn) (.ok "HEARTBEAT") id ∧ gives (.keyUpdate fn) (.ok "KEY_UPDATE") id
      ∧ gives (.endSession fn) (.ok "END_SESSION") (fun x => { x with session := false }))
    ∧ (f.session = false →
      no (.heartbeat fn) "HEARTBEAT" ∧ no (.keyUpdate fn) "KEY_UPDATE" ∧ no (.endSession fn) "END_SESSION" ∧ no (.query fn) "QUERY"
      ∧ (∀ a k, no (.keyProg fn a k) "KEY_PROG" ∧ no (.kSetGo fn a) "K_SET_GO" ∧ no (.kSetStop fn a) "K_SET_STOP")
      ∧ no (.getTdispVersion fn) "GET_TDISP_VERSION" ∧ no (.getTdispCapabilities fn) "GET_TDISP_CAPABILITIES"
      ∧ no (.lockInterfaceRequest fn) "LOCK_INTERFACE_REQUEST" ∧ no (.getDeviceInterfaceReport fn) "GET_DEVICE_INTERFACE_REPORT"
      ∧ no (.getDeviceInterfaceState fn) "GET_DEVICE_INTERFACE_STATE" ∧ no (.startInterfaceRequest fn) "START_INTERFACE_REQUEST"
      ∧ no (.stopInterfaceRequest fn) "STOP_INTERFACE_REQUEST")
    ∧ (f.session = true →
      gives (.query fn) (free "QUERY" 0) id
      ∧ (∀ a k, gives (.keyProg fn a k) (.ok "KEY_PROG") (fun x => { x with streams := (a, k, false) :: x.streams.filter (fun y => y.1 != a) }))
      ∧ (∀ a, gives (.kSetGo fn a) (.ok "K_SET_GO") (fun x => { x with streams := x.streams.map (fun y => if y.1 = a then (y.1, y.2.1, true) else y) })
          ∧ gives (.kSetStop fn a) (.ok "K_SET_STOP") (fun x => { x with streams := x.streams.map (fun y => if y.1 = a then (y.1, y.2.1, false) else y) })))
    ∧ (f.session = true → fn = 0 →
      no (.getTdispVersion fn) "GET_TDISP_VERSION" ∧ no (.getTdispCapabilities fn) "GET_TDISP_CAPABILITIES"
      ∧ no (.lockInterfaceRequest fn) "LOCK_INTERFACE_REQUEST" ∧ no (.getDeviceInterfaceReport fn) "GET_DEVICE_INTERFACE_REPORT"
      ∧ no (.getDeviceInterfaceState fn) "GET_DEVICE_INTERFACE_STATE" ∧ no (.startInterfaceRequest fn) "START_INTERFACE_REQUEST"
      ∧ no (.stopInterfaceRequest fn) "STOP_INTERFACE_REQUEST")
    ∧ (f.session = true → fn ≠ 0 →
      gives (.getTdispVersion fn) (free "GET_TDISP_VERSION" 0) id ∧ gives (.getTdispCapabilities fn) (free "GET_TDISP_CAPABILITIES" 0) id
      ∧ gives (.getDeviceInterfaceReport fn) (free "GET_DEVICE_INTERFACE_REPORT" 0) id
      ∧ gives (.getDeviceInterfaceState fn)
          (.value "GET_DEVICE_INTERFACE_STATE" (match f.tdisp with | .unlocked => 0 | .locked => 1 | .run => 2 | .error => 3)) id
      ∧ (f.tdisp = .unlocked → gives (.lockInterfaceRequest fn) (.ok "LOCK_INTERFACE_REQUEST") (fun x => { x with tdisp := .locked }))
      ∧ (f.tdisp ≠ .unlocked → gives (.lockInterfaceRequest fn) (free "LOCK_INTERFACE_REQUEST" 0) id)
      ∧ (f.tdisp = .locked → gives (.startInterfaceRequest fn) (.ok "START_INTERFACE_REQUEST") (fun x => { x with tdisp := .run }))
      ∧ (f.tdisp ≠ .locked → gives (.startInterfaceRequest fn) (free "START_INTERFACE_REQUEST" 0) id)
      ∧ gives (.stopInterfaceRequest fn) (.ok "STOP_INTERFACE_REQUEST") (fun x => { x with tdisp := .unlocked }))

/-- R345, R372 to R374: GO runs bring-up: an image that does not verify asks for recovery (1); no trained die (2), a refused configuration (3) or a
command processor that does not start (4) stops it; else the dies in service are numbered in order, the configuration is applied, and the package is
ready. After 2, 3 or 4 GO tries again; after 1 it takes the recovery image, where bus mastering and the image's length allow it, and goes on if that
verifies. A ready package ignores GO. That what training, tests and the command processor's start come to is GO's argument is log 36, that Bus Master
Enable is the PCI Command bit log 19, that no partition or more than 16 are refused log 29, which command processor starts log 30. -/
def Obligations.BringUp : Prop :=
  ∀ (s : State) (bad : Nat),
    let gone := fun (stack : Nat) => bit bad (16 + 2 * stack) || bit bad (17 + 2 * stack)
    let up := fun (k : Nat) => !bit bad k && !gone (k / 2)
    let u := s.numberUnits bad
    let stops := fun (n : Nat) => ∃ t, exec (.bringupGo bad) s = .next t ∧ t.host.ready = false ∧ t.host.bstat = n
    (s.host.ready = true → exec (.bringupGo bad) s = .next s)
    ∧ (s.host.ready = false → s.host.bstat = 0 → Config.imageVerifies s.host.firmware = false →
      exec (.bringupGo bad) s = .next { s with host := { s.host with bstat := 1 } })
    ∧ (s.host.ready = false → s.host.bstat = 1 → (s.host.busMaster = false ∨ s.host.imglen < 4096 ∨ 2 ^ 26 < s.host.imglen) →
      exec (.bringupGo bad) s = .next s)
    ∧ (s.host.ready = false → s.host.bstat = 1 → s.host.busMaster = true → 4096 ≤ s.host.imglen → s.host.imglen ≤ 2 ^ 26 →
      let img := s.store.hostMem.bytes (4096 * s.host.imga) s.host.imglen
      (Config.imageVerifies img = false → exec (.bringupGo bad) s = .next s)
      ∧ (Config.imageVerifies img = true →
        exec (.bringupGo bad) s = exec (.bringupGo bad) { s with host := { s.host with firmware := img, bstat := 0 } }))
    ∧ (s.host.ready = false → (s.host.bstat = 0 ∧ Config.imageVerifies s.host.firmware = true ∨ 2 ≤ s.host.bstat) →
      ((∀ k < 16, up k = false) → stops 2)
      ∧ ((∃ k < 16, up k = true) → u.cfgGood = false → stops 3)
      ∧ ((∃ k < 16, up k = true) → u.cfgGood = true → (bit bad 32 = true ∨ gone 0 = true ∧ gone 4 = true) → stops 4)
      ∧ ((∃ k < 16, up k = true) → u.cfgGood = true → bit bad 32 = false → (gone 0 = false ∨ gone 4 = false) →
        ∃ t, exec (.bringupGo bad) s = .next t
          ∧ t.host = { s.host with bstat := 0, ready := true, hlt := s.host.config.readN 8 4 % 2 ^ 20, applied := s.host.config }
          ∧ t.cp = { s.cp with
              queues := s.cp.queues.mapIdx (fun q x => { x with fn := s.host.config.readN (0xE0 + q) 1 })
              active := if gone 0 then 4 else 0, standby := !gone 0 && !gone 4, hbAge := 0, failed := false }
          ∧ ∀ k < 16, (t.die k).log = (if up k then some ((List.range k).countP up) else none)
              ∧ (t.die k).cls = s.host.config.readN 0x50 4 / 4 ^ k % 4 ∧ (t.tower k).present = !gone (k / 2)))

/-! ### The machine as a whole -/

/-- R126 to R133: each well-formed instruction decodes from its encoding, whatever bytes follow, and bytes that decode are the encoding of what they
decode to. -/
def Obligations.DecodeEncodeAgree : Prop :=
  (∀ (i : Instr) (rest : List Byte), WellFormed i = true → decode (encode i ++ rest) = .ok (i, rest))
  ∧ ∀ (bs rest : List Byte) (i : Instr), decode bs = .ok (i, rest) → WellFormed i = true ∧ bs = encode i ++ rest

/-- R12: from every state between two steps, a step that answers a state leaves one: no bundle is half issued, and no scheduler has taken two slots in
the cycle that runs. A step leaves the cycle as it is and may take slots, or ends the cycle and frees them all. -/
def Obligations.StepKeepsSlots : Prop :=
  ∀ s t : State, BetweenSteps s → step s = .next t →
    BetweenSteps t ∧ ((t.cycle = s.cycle ∧ ∃ new, t.slotsUsed = s.slotsUsed ++ new) ∨ (t.cycle = s.cycle + 1 ∧ t.slotsUsed = []))

/-- The state right after reset lies between two steps, and holds the values that the register tables of R270, R326, R342, R347, R350, R356, R357, R368,
R376 and R377 give for reset; the queue engines' LFSRs hold coreid + 1 (R284). -/
def Obligations.ResetState : Prop :=
  let s := State.reset
  BetweenSteps s ∧ s.crews = [] ∧ s.teams = [] ∧ s.store.mem.wf = true
  ∧ s.cp.queues.length = 64
  ∧ (∀ q ∈ s.cp.queues, q.loc = false ∧ q.rbase = 0 ∧ q.en = false ∧ q.log2n = 4 ∧ q.ctx = 0 ∧ q.head = 0 ∧ q.tail = 0 ∧ q.jstall = false ∧ q.terr = false)
  ∧ (∀ core, (s.queueEngine core).lfsr = core + 1)
  ∧ s.pkg.errs = List.replicate 8 (0, 0) ∧ s.pkg.lwl = 100 ∧ s.pkg.dfail = 0 ∧ s.pkg.dcause = 0
  ∧ (∀ core, let d := s.debugOf core
      d.scheds = List.replicate 4 { stopped := false, stepping := false, why := 0, sof := false, scyc := 0, pc0 := 0, pc1 := 0 }
      ∧ d.dumpA = 0 ∧ d.dteam = 0 ∧ d.dstat = 0 ∧ d.leaves = List.replicate 11 0 ∧ d.total = 0 ∧ d.frz = false)
  ∧ s.rr.mode = 0 ∧ s.rr.ctx = 0 ∧ s.rr.node = 0 ∧ s.rr.lbase = 0 ∧ s.rr.llog = 16 ∧ s.rr.lwp = 0 ∧ s.rr.lcp = 0
  ∧ (∀ fn, (s.fn fn).tdisp = .unlocked)
  ∧ (∀ k, (s.die k).temp = 0 ∧ (s.die k).limit = 95 ∧ (s.die k).scald = false) ∧ (∀ k, (s.tower k).tmax = 0 ∧ (s.tower k).rmax = 0)
  ∧ s.host.hlt = 0 ∧ s.host.idlet = 1000 ∧ s.host.cur = .gale

/-- Where the next action is the issue of a bundle and the bytes of the fetch block at its PC decode to an instruction, the step is `exec` of that
instruction for the bundle, and what follows at once from the state it leaves; the cycle then closes (R12, R127, R136). -/
def Obligations.StepRunsDecoded : Prop :=
  ∀ (s : State) (x : Cand) (c : Crew) (l pa : Nat) (b : List Byte) (i : Instr) (rest : List Byte),
    let s1 := { s with freeCtr := s.freeCtr + 1, closing := true }
    let pc := (c.thread l).pc
    let bytes := b.drop (pa % 32)
    s.action = .issue x → s.crews[x.crew]? = some c → (lanesOf x.mask).head? = some l → s1.fetchPa c pc = .ok pa →
    s.fetchBlock c.core pa = some b →
    decode bytes = .ok (i, rest) → pa % 32 + (bytes.length - rest.length) ≤ 32 →
    let issued := { s1.tlbHits c [pc.toNat] with cur := some { crew := x.crew, mask := x.mask, pc := pc } }
    (∀ t, exec i issued = .next t → step s = .next (s1.after (s1.slotTaken x { t with cur := none }) { t with cur := none }))
    ∧ (∀ e, exec i issued = .fault e → step s = .fault e) ∧ ∀ r, exec i issued = .refused r → step s = .refused r

/-- Words of the spec's worked encodings (ADD and the pad word of 06, LD of 08, CALL of 11, ERET of 16) decode to the instructions they stand for. -/
def Obligations.WorkedEncodingsDecode : Prop :=
  decodeTableWord 64 0x10020012_00017000 = some (.add
    { h := { gp := 7, gn := 0, dst := 1 }, s1 := { code := 0, last := 0, pat := 1, parm := 1 }, s2 := { code := 0, last := 1, pat := 0, parm := 0 }, mod := 4 })
  ∧ decodeTableWord 96 0xFFFFFFFA_00000000_00FF1205 = some (.call
    { h := { gp := 1, gn := 0, dst := 255 }, s1 := { code := 0, last := 0, pat := 0, parm := 0 }, s2 := { code := 0, last := 0, pat := 0, parm := 0 }
      mod := 0, imm := 0xFFFFFFFA })
  ∧ decodeTableWord 128 0x00001000_06860000_00000001_040A7402 = some (.ld
    { h := { gp := 7, gn := 0, dst := 10 }, s1 := { code := 4, last := 1, pat := 0, parm := 0 }, s2 := { code := 0, last := 0, pat := 0, parm := 0 }
      mod := 0, s3 := { code := 0, last := 0, pat := 0, parm := 0 }, fmt := 3, pg := 0, scp := 2, rd := 3, ord := 0, sp := 0, cnt := 0, rsv := 0, off := 16 })
  ∧ decodeTableWord 64 0x00000000_E2FFAE2C = some (.eret
    { h := { gp := 2, gn := 1, dst := 255 }, s1 := { code := 0xE2, last := 0, pat := 0, parm := 0 }, s2 := { code := 0, last := 0, pat := 0, parm := 0 }, mod := 0 })
  ∧ decodeTableWord 32 3 = some .padWord

/-- Bytes written are read back, little-endian; and two memories in canonical form that read alike are equal (R59). -/
def Obligations.MemoryReadsBack : Prop :=
  (∀ (m : Memory) (a n v : Nat), m.wf = true → (m.writeN a n v).readN a n = v % 2 ^ (8 * n))
  ∧ (∀ (m : Memory) (a n v b k : Nat), m.wf = true → (b + k ≤ a ∨ a + n ≤ b) → (m.writeN a n v).readN b k = m.readN b k)
  ∧ ∀ m m' : Memory, m.wf = true → m'.wf = true → (∀ a, m.get a = m'.get a) → m = m'

/-- R36: p7 always reads as true, a write to p7 is discarded and sets no flag, and the guard "not p7" is ILLEGAL; p0 to p6 are written and guard lanes,
negated or not. -/
def Obligations.PredicateSeven : Prop :=
  (∀ (th : Thread) (v : Bool), th.setPred 7 v = th)
  ∧ (∀ (th : Thread) (n k : Nat) (v : Bool), n < 7 → k < 8 → (th.setPred n v).preds.getLsbD k = if k = n then v else th.preds.getLsbD k)
  ∧ (∀ (c : Crew) (mask : Mask) (h : Hdr) (l : Nat), (c.thread l).relog = none →
      (guardMask c mask h).getLsbD l =
        (mask.getLsbD l && ((decide (h.gp = 7) || (c.thread l).preds.getLsbD h.gp.toNat) != decide (h.gn = 1))))
  ∧ (∀ (s : State) (c : Crew) (mask : Mask) (x : Src) (l : Nat), (c.thread l).relog = none → x.code = 7 → (readLane s c mask [(.sel, x)] l).vals = [1])
  ∧ (∀ (i : Instr) (op : Nat) (f : Fields), opcodeOf i = some (op, f) →
      (f.hdr.gn = 1 ∧ f.hdr.gp = 7 → illegalSub i = some 4) ∧ (illegalSub i = some 4 → f.hdr.gn = 1 ∧ f.hdr.gp = 7))
end

