-- ==== Sys2Proof/Laws/Lane.lean ====
section
/-! SUPPORT. What the operations of a lane instruction do: lanes of a mask, register lists, releases, delivery, and `runLane` as a
whole. -/
namespace Sys2Proof.Machine

theorem modLanes_get (c : Crew) (m : Mask) (f : Nat → Thread → Thread) (l : Nat) :
    (c.modLanes m f).threads[l]? = (c.threads[l]?).map (fun t => if m.getLsbD l then f l t else t) := by
  simp [Crew.modLanes]

theorem reg?_release (t : Thread) (m n : Nat) : (t.release m).reg? n = if n = m then none else t.reg? n := by
  unfold Thread.release Thread.reg?
  simp only [List.find?_filter]
  split
  · subst_vars; rw [List.find?_eq_none]; intro x hx; simp
  · rename_i h
    congr 1; funext r
    by_cases hr : r.n = n <;> simp [hr, h]

theorem reg?_setReg (t : Thread) (m n : Nat) (v : Word) :
    (t.setReg m v).reg? n = if n = m then some { n := m, v := v, st := .mapped, pend := false, bad := false, lvl := 0 } else t.reg? n := by
  unfold Thread.setReg Thread.reg?
  simp only [List.find?_cons, List.find?_filter]
  by_cases h : n = m
  · simp [h]
  · have h' : (m == n) = false := by simpa using fun e => h e.symm
    simp only [h, h', if_false]
    congr 1; funext r
    by_cases hr : r.n = n <;> simp [hr, h]

theorem releases_eq (ns : List Nat) (t : Thread) : ns.foldl Thread.release t = { t with regs := (ns.foldl Thread.release t).regs } := by
  induction ns generalizing t with
  | nil => rfl
  | cons m ns ih => rw [List.foldl_cons, ih]; rfl

theorem reg?_releases (ns : List Nat) (t : Thread) (n : Nat) :
    (ns.foldl Thread.release t).reg? n = if ns.contains n then none else t.reg? n := by
  induction ns generalizing t with
  | nil => simp
  | cons m ns ih =>
    rw [List.foldl_cons, ih, reg?_release]
    by_cases h : n = m <;> by_cases h2 : n ∈ ns <;> simp [h, h2]

/-- What the release of one source does to a thread in a lane of the bundle. -/
theorem releaseSrc_get (mask em : Mask) (wide : Bool) (u : Use) (x : Src) (c : Crew) (l : Nat) :
    (releaseSrc mask em wide u x c).threads[l]? = (c.threads[l]?).map (fun t =>
      if (if wide || x.pat != 0 then mask else em).getLsbD l && x.last == 1 && isXreg x.code.toNat && t.reads x
      then ((List.range u.regs).map (fun j => namedReg t x.code.toNat + j)).foldl Thread.release t else t) := by
  unfold releaseSrc
  by_cases h : (x.last == 1 && isXreg x.code.toNat) = true
  · rw [if_pos h]
    simp only [Bool.and_eq_true] at h
    simp only [modLanes_get]
    congr 1; funext t
    cases t.reads x <;> simp [h, beq_iff_eq.mp h.1]
  · rw [if_neg h]
    cases c.threads[l]? with
    | none => rfl
    | some t =>
      simp only [Option.map_some, Option.some.injEq]
      rw [if_neg]; intro h2; apply h; simp only [Bool.and_eq_true] at h2 ⊢; exact ⟨h2.1.1.2, h2.1.2⟩

theorem releaseSrc_rest (mask em : Mask) (wide : Bool) (u : Use) (x : Src) (c : Crew) :
    releaseSrc mask em wide u x c = { c with threads := (releaseSrc mask em wide u x c).threads } := by
  unfold releaseSrc; split <;> rfl

theorem releaseAll_rest (mask em : Mask) (wide : Bool) (srcs : List (Use × Src)) (c : Crew) :
    releaseAll mask em wide srcs c = { c with threads := (releaseAll mask em wide srcs c).threads } := by
  unfold releaseAll
  induction srcs generalizing c with
  | nil => rfl
  | cons p srcs ih => rw [List.foldl_cons, ih]; rw [releaseSrc_rest]

theorem namedReg_regs (t : Thread) (r : List Reg) (d : Nat) : namedReg { t with regs := r } d = namedReg t d := rfl

/-- Releases of all sources, in a lane of the bundle: the registers of `lostRegs` are gone, the rest of the thread is as it was. -/
theorem releaseAll_get (mask em : Mask) (wide : Bool) (srcs : List (Use × Src)) (c : Crew) (l : Nat) (th : Thread)
    (ht : c.threads[l]? = some th) (hm : mask.getLsbD l = true) :
    ∃ th', (releaseAll mask em wide srcs c).threads[l]? = some th' ∧ th' = { th with regs := th'.regs }
      ∧ ∀ n, th'.reg? n = if (lostRegs th (em.getLsbD l) (fun _ => wide) srcs).contains n then none else th.reg? n := by
  unfold releaseAll
  induction srcs generalizing c th with
  | nil => exact ⟨th, ht, rfl, fun n => by simp [lostRegs]⟩
  | cons p srcs ih =>
    rw [List.foldl_cons]
    have h1 := releaseSrc_get mask em wide p.1 p.2 c l
    rw [ht, Option.map_some] at h1
    obtain ⟨th', e1, e2, e3⟩ := ih _ _ h1
    refine ⟨th', e1, ?_, ?_⟩
    · have hx : ∀ (b : Bool) (ns : List Nat), (if b then ns.foldl Thread.release th else th)
          = { th with regs := (if b then ns.foldl Thread.release th else th).regs } := by
        intro b ns; cases b
        · rfl
        · exact releases_eq ns th
      rw [hx] at e2; exact e2
    · intro n
      rw [e3]
      have hl : (if wide || p.2.pat != 0 then mask else em).getLsbD l = (em.getLsbD l || wide || p.2.pat != 0) := by
        by_cases h : (wide || p.2.pat != 0) = true
        · rw [if_pos h, hm, Bool.or_assoc, h, Bool.or_true]
        · rw [if_neg h, Bool.or_assoc, Bool.eq_false_iff.mpr h, Bool.or_false]
      rw [hl]
      generalize em.getLsbD l = ex
      split
      · rename_i hc
        have hc' : (p.2.last == 1 && isXreg p.2.code.toNat && (ex || wide || p.2.pat != 0) && th.reads p.2) = true := by
          simp only [Bool.and_eq_true] at hc ⊢; exact ⟨⟨⟨hc.1.1.2, hc.1.2⟩, hc.1.1.1⟩, hc.2⟩
        rw [reg?_releases]
        have : lostRegs (((List.range p.1.regs).map (fun j => namedReg th p.2.code.toNat + j)).foldl Thread.release th) ex (fun _ => wide) srcs
            = lostRegs th ex (fun _ => wide) srcs := by rw [releases_eq]; rfl
        have hcons : lostRegs th ex (fun _ => wide) (p :: srcs)
            = (List.range p.1.regs).map (fun j => namedReg th p.2.code.toNat + j) ++ lostRegs th ex (fun _ => wide) srcs := by
          simp only [lostRegs, List.flatMap_cons, hc', if_true]
        rw [this, hcons]
        generalize (List.range p.1.regs).map (fun j => namedReg th p.2.code.toNat + j) = A
        generalize lostRegs th ex (fun _ => wide) srcs = B
        by_cases ha : n ∈ A <;> by_cases hb : n ∈ B <;> simp [ha, hb]
      · rename_i hc
        have hc' : (p.2.last == 1 && isXreg p.2.code.toNat && (ex || wide || p.2.pat != 0) && th.reads p.2) = false := by
          apply Bool.eq_false_iff.mpr; intro h; apply hc
          simp only [Bool.and_eq_true] at h ⊢; exact ⟨⟨⟨h.1.2, h.1.1.1⟩, h.1.1.2⟩, h.2⟩
        have hcons : lostRegs th ex (fun _ => wide) (p :: srcs) = lostRegs th ex (fun _ => wide) srcs := by
          simp only [lostRegs, List.flatMap_cons, hc', Bool.false_eq_true, if_false, List.nil_append]
        rw [hcons]

/-- Lanes outside the bundle keep their threads. -/
theorem releaseAll_out (mask em : Mask) (wide : Bool) (srcs : List (Use × Src)) (c : Crew) (l : Nat) (hm : mask.getLsbD l = false)
    (he : em.getLsbD l = false) : (releaseAll mask em wide srcs c).threads[l]? = c.threads[l]? := by
  unfold releaseAll
  induction srcs generalizing c with
  | nil => rfl
  | cons p srcs ih =>
    rw [List.foldl_cons, ih, releaseSrc_get]
    have : (if wide || p.2.pat != 0 then mask else em).getLsbD l = false := by split <;> assumption
    rw [this]; simp

theorem releaseAll_length (mask em : Mask) (wide : Bool) (srcs : List (Use × Src)) (c : Crew) :
    (releaseAll mask em wide srcs c).threads.length = c.threads.length := by
  unfold releaseAll
  induction srcs generalizing c with
  | nil => rfl
  | cons p srcs ih => rw [List.foldl_cons, ih]; unfold releaseSrc; split <;> simp [Crew.modLanes]

/-- Delivery to a destination code: the registers it names hold the words of the value, predicate and index codes their register, and
nothing else of the thread changes. -/
theorem deliver_reg? (t : Thread) (d k v n : Nat) :
    (t.deliver d k v).reg? n = if (dstRegs t d k).contains n
      then some { n := n, v := BitVec.ofNat 32 (v / 2 ^ (32 * (n - namedReg t d)) % 2 ^ 32), st := .mapped, pend := false, bad := false, lvl := 0 }
      else t.reg? n := by
  unfold Thread.deliver
  by_cases h255 : d = 255
  · subst h255; simp [dstRegs, isXreg]
  · rw [if_neg (by simpa using h255)]
    by_cases hx : isXreg d = true
    · rw [if_pos hx]
      simp only [dstRegs, hx, if_true]
      generalize namedReg t d = b
      induction k generalizing n with
      | zero => simp
      | succ k ih =>
        rw [List.range_succ, List.map_append, List.foldl_append, List.map_append]
        simp only [List.map_cons, List.map_nil, List.foldl_cons, List.foldl_nil]
        rw [reg?_setReg, ih]
        by_cases hn : n = b + k
        · subst hn; simp
        · have : ¬ n ∈ [b + k] := by simpa using hn
          by_cases hm : n ∈ List.map (fun j => b + j) (List.range k) <;> simp [hn, hm]
    · rw [if_neg hx]
      simp only [dstRegs, hx, Bool.false_eq_true, if_false, List.contains_nil]
      split
      · unfold Thread.setPred; split <;> rfl
      · split <;> rfl

theorem setRegs_rest (l : List (Nat × Nat)) (t : Thread) :
    l.foldl (fun t p => t.setReg p.1 (BitVec.ofNat 32 p.2)) t
      = { t with regs := (l.foldl (fun t p => t.setReg p.1 (BitVec.ofNat 32 p.2)) t).regs } := by
  induction l generalizing t with
  | nil => rfl
  | cons p l ih => rw [List.foldl_cons, ih]; rfl

theorem deliver_rest (t : Thread) (d k v : Nat) :
    t.deliver d k v = { t with
      regs := (t.deliver d k v).regs
      preds := if decide (200 ≤ d) && decide (d < 208) then (t.setPred (d - 200) (v % 2 == 1)).preds else t.preds
      idx := if decide (208 ≤ d) && decide (d < 216) then t.idx.set (d - 208) (BitVec.ofNat 32 v) else t.idx } := by
  unfold Thread.deliver
  by_cases h255 : d = 255
  · subst h255; rfl
  · rw [if_neg (by simpa using h255)]
    by_cases hx : isXreg d = true
    · rw [if_pos hx, setRegs_rest]
      have h1 : (decide (200 ≤ d) && decide (d < 208)) = false := by
        simp only [isXreg, Bool.or_eq_true, Bool.and_eq_true, decide_eq_true_eq] at hx; simp; omega
      have h2 : (decide (208 ≤ d) && decide (d < 216)) = false := by
        simp only [isXreg, Bool.or_eq_true, Bool.and_eq_true, decide_eq_true_eq] at hx; simp; omega
      rw [h1, h2]; rfl
    · rw [if_neg hx]
      by_cases hp : (decide (200 ≤ d) && decide (d < 208)) = true
      · have hi : (decide (208 ≤ d) && decide (d < 216)) = false := by
          simp only [Bool.and_eq_true, decide_eq_true_eq] at hp; simp; omega
        rw [if_pos hp, hi, hp]; unfold Thread.setPred; split <;> rfl
      · rw [if_neg hp]
        by_cases hi : (decide (208 ≤ d) && decide (d < 216)) = true
        · rw [if_pos hi, hi, Bool.eq_false_iff.mpr hp]; rfl
        · rw [if_neg hi, Bool.eq_false_iff.mpr hi, Bool.eq_false_iff.mpr hp]; rfl

theorem getLsbD_allLanes (l : Nat) (h : l < 32) : allLanes.getLsbD l = true := by
  unfold allLanes
  simp only [BitVec.getLsbD_ofNat, Nat.testBit_two_pow_sub_one, h, decide_true, Bool.and_self]

theorem maskOf_bit (ls : List Nat) (hls : ∀ x ∈ ls, x < 32) (l : Nat) (m : Mask) :
    (ls.foldl (fun m k => m ||| BitVec.ofNat 32 (2 ^ k)) m).getLsbD l = (m.getLsbD l || ls.contains l) := by
  induction ls generalizing m with
  | nil => simp
  | cons x ls ih =>
    rw [List.foldl_cons, ih (fun y hy => hls y (List.mem_cons_of_mem _ hy))]
    have hx : x < 32 := hls x (List.mem_cons_self ..)
    have : (BitVec.ofNat 32 (2 ^ x)).getLsbD l = (l == x) := by
      rw [BitVec.getLsbD_ofNat, Nat.testBit_two_pow]
      by_cases h : l = x
      · subst h; simp [hx]
      · have h' : ¬ x = l := fun e => h e.symm
        simp [h, h']
    rw [BitVec.getLsbD_or, this, List.contains_cons, Bool.or_assoc]

theorem mem_lanesOf (m : Mask) (l : Nat) : l ∈ lanesOf m ↔ m.getLsbD l = true := by
  unfold lanesOf
  simp only [List.mem_filter, List.mem_range, and_iff_right_iff_imp]
  intro h
  rcases Nat.lt_or_ge l 32 with hl | hl
  · exact hl
  · rw [BitVec.getLsbD_of_ge _ _ hl] at h; exact absurd h (by decide)

theorem maskOf_getLsbD (ls : List Nat) (hls : ∀ x ∈ ls, x < 32) (l : Nat) : (maskOf ls).getLsbD l = ls.contains l := by
  unfold maskOf; rw [maskOf_bit ls hls]; simp

theorem lanesOf_lt (m : Mask) : ∀ x ∈ lanesOf m, x < 32 := by
  intro x hx; unfold lanesOf at hx; simp at hx; exact hx.1

/-- The guard lanes are lanes of the bundle. -/
theorem guardMask_sub (c : Crew) (mask : Mask) (h : Hdr) (l : Nat) (hl : (guardMask c mask h).getLsbD l = true) : mask.getLsbD l = true := by
  unfold guardMask at hl
  rw [maskOf_getLsbD _ (by intro x hx; simp at hx; exact lanesOf_lt _ _ hx.1)] at hl
  simp only [List.contains_eq_mem, List.mem_filter, decide_eq_true_eq] at hl
  exact (mem_lanesOf _ _).mp hl.1

theorem rebundle_threads (c : Crew) (m : Mask) :
    (c.rebundle m).threads = (c.modLanes m (fun _ t => { t with st := .ready, why := .none })).threads := rfl

theorem rebundle_rest (c : Crew) (m : Mask) : c.rebundle m = { c with threads := (c.rebundle m).threads, bundles := (c.rebundle m).bundles } := rfl

theorem advance_rest (c : Crew) (m : Mask) (cy : Nat) (f : Nat → Thread → DWord) :
    c.advance m cy f = { c with threads := (c.advance m cy f).threads, bundles := (c.advance m cy f).bundles } := rfl

theorem advance_get (c : Crew) (m : Mask) (cy : Nat) (f : Nat → Thread → DWord) (l : Nat) :
    (c.advance m cy f).threads[l]? = (c.threads[l]?).map (fun t => if m.getLsbD l then
      { t with pc := f l t, lastIssue := cy, woke := false, relog := none, st := .ready, why := .none } else t) := by
  unfold Crew.advance
  rw [rebundle_threads, modLanes_get, modLanes_get]
  cases c.threads[l]? with
  | none => rfl
  | some t => simp only [Option.map_some]; split <;> rfl

theorem crew?_lt {s : State} {k : Nat} {c : Crew} (h : s.crew? k = some c) : k < s.crews.length := by
  unfold State.crew? at h; exact (List.getElem?_eq_some_iff.mp h).1

theorem modCrew_const {s : State} {k : Nat} {c c' : Crew} (h : s.crew? k = some c) :
    s.modCrew k (fun _ => c') = { s with crews := s.crews.set k c' } := by
  unfold State.modCrew
  have : s.crews.modify k (fun _ => c') = s.crews.set k c' := by
    apply List.ext_getElem?; intro i
    rw [List.getElem?_modify, List.getElem?_set]
    by_cases hi : k = i
    · subst hi
      have hl := crew?_lt h
      simp [hl]
    · simp [hi]
  rw [this]


/-! ### Lane instructions as a whole -/

/-- A crew changed by `setCreg` differs in its crew registers only. -/
theorem setCreg_rest (c : Crew) (n k v : Nat) : c.setCreg n k v = { c with creg := (c.setCreg n k v).creg, cbad := (c.setCreg n k v).cbad } := rfl

theorem deliverCreg_threads (c : Crew) (d k : Nat) (em : Mask) (v : Nat → Nat) : (c.deliverCreg d k em v).threads = c.threads := by
  unfold Crew.deliverCreg; split
  · split <;> rfl
  · rfl

theorem deliverCreg_rest (c : Crew) (d k : Nat) (em : Mask) (v : Nat → Nat) :
    c.deliverCreg d k em v = { c with creg := (c.deliverCreg d k em v).creg, cbad := (c.deliverCreg d k em v).cbad } := by
  unfold Crew.deliverCreg; split
  · split <;> rfl
  · rfl

theorem deliverCreg_creg (c : Crew) (ts : List Thread) (d k : Nat) (em : Mask) (v : Nat → Nat) :
    (({ c with threads := ts } : Crew).deliverCreg d k em v).creg = (c.deliverCreg d k em v).creg := by
  unfold Crew.deliverCreg; split
  · split <;> rfl
  · rfl

theorem deliverCreg_cbad (c : Crew) (ts : List Thread) (d k : Nat) (em : Mask) (v : Nat → Nat) :
    (({ c with threads := ts } : Crew).deliverCreg d k em v).cbad = (c.deliverCreg d k em v).cbad := by
  unfold Crew.deliverCreg; split
  · split <;> rfl
  · rfl

/-- Threads after the effect of a lane instruction that every lane of the bundle survives. -/
theorem apply_thread (o : LaneOp) (s : State) (c : Crew) (mask em : Mask) (hpost : o.post = fun _ t => t)
    (hcpost : o.cpost = fun _ c => c) (hsub : ∀ l, em.getLsbD l = true → mask.getLsbD l = true) (l : Nat) (th : Thread)
    (ht : c.threads[l]? = some th) :
    ∃ th', (o.apply s c mask em mask).threads[l]? = some th'
      ∧ (mask.getLsbD l = false → th' = th)
      ∧ (mask.getLsbD l = true →
          LaneAfter th th' (em.getLsbD l) (fun _ => false) (takenSrcs o.coll o.h.dst.toNat em o.srcs) o.h.dst.toNat o.k o.len s.cycle
            (o.f (fun l => (readLane s c mask o.srcs l).vals) l).1
            (orF (o.f (fun l => (readLane s c mask o.srcs l).vals) l).2 (readFlags (readLane s c mask o.srcs l)))) := by
  unfold LaneOp.apply
  simp only [hpost, hcpost, ite_self]
  rw [advance_get, deliverCreg_threads, modLanes_get]
  by_cases hm : mask.getLsbD l = true
  · obtain ⟨t1, e1, e2, e3⟩ := releaseAll_get mask em false (takenSrcs o.coll o.h.dst.toNat em o.srcs) c l th ht hm
    rw [e1]
    simp only [Option.map_some, hm, if_true, Option.some.injEq, exists_eq_left', Bool.true_eq_false, false_implies, true_implies, true_and]
    cases he : em.getLsbD l with
    | false =>
      rw [he] at e3
      simp only [Bool.false_eq_true, if_false]
      refine ⟨fun n => ?_, ?_⟩
      · have := e3 n
        simp only [Thread.reg?, regAfter, Bool.false_and, Bool.false_eq_true, if_false] at this ⊢
        exact this
      · simp only [Bool.false_and, Bool.false_eq_true, if_false]; rw [e2]
    | true =>
      rw [he] at e3
      simp only [if_true]
      refine ⟨fun n => ?_, ?_⟩
      · have h1 : ∀ (t : Thread) (fl : Nat), (t.raise fl).reg? n = t.reg? n := fun _ _ => rfl
        have h2 := deliver_reg? t1 o.h.dst.toNat o.k (o.f (fun l => (readLane s c mask o.srcs l).vals) l).1 n
        have h3 : dstRegs t1 o.h.dst.toNat o.k = dstRegs th o.h.dst.toNat o.k := by rw [e2]; rfl
        have h4 : namedReg t1 o.h.dst.toNat = namedReg th o.h.dst.toNat := by rw [e2]; rfl
        rw [h3, h4, e3 n] at h2
        simp only [regAfter, Bool.true_and]
        exact h2
      · generalize hv : (o.f (fun l => (readLane s c mask o.srcs l).vals) l).1 = v
        have hd := deliver_rest t1 o.h.dst.toNat o.k v
        generalize t1.deliver o.h.dst.toNat o.k v = t2 at hd ⊢
        have hp : (t1.setPred (o.h.dst.toNat - 200) (v % 2 == 1)).preds = (th.setPred (o.h.dst.toNat - 200) (v % 2 == 1)).preds := by
          rw [e2]; unfold Thread.setPred; split <;> rfl
        rw [hp] at hd
        have e4 : t1.preds = th.preds ∧ t1.idx = th.idx := by rw [e2]; exact ⟨rfl, rfl⟩
        rw [e4.1, e4.2] at hd
        rw [e2] at hd
        simp only [Thread.raise, Bool.true_and, if_true]
        rw [hd]
  · have hm' : mask.getLsbD l = false := by simpa using hm
    have he : em.getLsbD l = false := by
      cases h : em.getLsbD l with
      | false => rfl
      | true => rw [hsub l h] at hm'; exact absurd hm' (by decide)
    rw [releaseAll_out _ _ _ _ _ _ hm' he, ht]
    simp only [Option.map_some, hm', he, Bool.false_eq_true, if_false, Option.some.injEq, exists_eq_left', false_implies, and_true, forall_const]

theorem faultsOf_zero (k : Cause) (sub : Nat) : faultsOf 0 k sub = [] := rfl

/-- No check of the operands stops an instruction only where no indexed pair is odd. -/
theorem operandCheck_odd {s : State} {c : Crew} {mask em serve : Mask} {pc : DWord} {srcs : List (Use × Src)} {d k : Nat} {two : Bool}
    (h : operandCheck s c mask em serve pc srcs d k two = none) : oddAt c em srcs d k two = false := by
  cases ho : oddAt c em srcs d k two with
  | false => rfl
  | true => unfold operandCheck at h; rw [ho] at h; exact absurd h (by simp)

/-- What `runLane` does under `LaneRuns`: the one lemma that a statement about a lane instruction needs. -/
theorem runLane_done (o : LaneOp) (s : State) (iss : Issue) (c : Crew) (hpost : o.post = fun _ t => t) (hcpost : o.cpost = fun _ c => c)
    (hr : LaneRuns s iss c o.h o.srcs o.k o.coll) :
    ∃ t, runLane o s = .next t
      ∧ LaneDone s t iss c (guardMask c iss.mask o.h) o.h (takenSrcs o.coll o.h.dst.toNat (guardMask c iss.mask o.h) o.srcs) o.k o.len (fun _ => false)
          (fun l => (o.f (fun l => (readLane s c iss.mask o.srcs l).vals) l).1)
          (fun l => orF (o.f (fun l => (readLane s c iss.mask o.srcs l).vals) l).2 (readFlags (readLane s c iss.mask o.srcs l))) := by
  obtain ⟨⟨hcur, hcrew⟩, hcoll, hguard, hcheck, hbound⟩ := hr
  have hodd := operandCheck_odd hcheck
  have hc : (if (o.coll || isCreg o.h.dst.toNat) then collective c iss.mask (guardMask c iss.mask o.h) iss.pc (isCreg o.h.dst.toNat) else none) = none := by
    by_cases h : (o.coll || isCreg o.h.dst.toNat) = true
    · rw [if_pos h]
      obtain ⟨h1, h2⟩ := hcoll (by simpa using h)
      have h3 : (!isCreg o.h.dst.toNat && guardMask c iss.mask o.h != 0 && guardMask c iss.mask o.h != allLanes) = false := by
        cases hco : o.coll with
        | false => rw [hco, Bool.false_or] at h; rw [h]; rfl
        | true => rcases hguard hco with h | h | h <;> simp [h]
      unfold collective
      rw [h1] at h3 ⊢
      simp only [h2, bne_self_eq_false, Bool.false_eq_true, if_false]
      rw [if_neg (by rw [h3]; decide)]
    · rw [if_neg h]
  refine ⟨s.modCrew iss.crew (fun _ => o.apply s c iss.mask (guardMask c iss.mask o.h) iss.mask), ?_, ?_⟩
  · unfold runLane
    simp only [hcur, hcrew]
    rw [hodd, if_neg Bool.false_ne_true, hc, hcheck, hbound]
    simp
  · rw [modCrew_const hcrew]
    refine ⟨_, rfl, ?_, ?_, ?_⟩
    · unfold LaneOp.apply
      simp only [hcpost, ite_self]
      rw [advance_rest, deliverCreg_rest, releaseAll_rest]
      simp only [Crew.modLanes, deliverCreg_creg, deliverCreg_cbad]
    · unfold LaneOp.apply
      simp only [hcpost, ite_self]
      simp only [Crew.advance, rebundle_threads, Crew.modLanes, List.length_mapIdx, deliverCreg_threads, releaseAll_length]
    · intro l th ht
      exact apply_thread o s c iss.mask _ hpost hcpost (guardMask_sub c iss.mask o.h) l th ht

end Sys2Proof.Machine
end

