-- ==== Sys2Proof/Laws/Control.lean ====
section
/-! SUPPORT. What `runCtl` does when no lane faults or makes an access. -/
namespace Sys2Proof.Machine

theorem releaseAll_thread_length (mask em : Mask) (wide : Bool) (srcs : List (Use × Src)) (c : Crew) :
    (releaseAll mask em wide srcs c).threads.length = c.threads.length := releaseAll_length mask em wide srcs c

theorem lanesOf_zero : lanesOf (0 : Mask) = [] := by decide

theorem and_not_zero (m : Mask) : m &&& ~~~(0 : Mask) = m := by
  apply BitVec.eq_of_getLsbD_eq; intro i hi
  rw [BitVec.getLsbD_and, BitVec.getLsbD_not]; simp [hi]

theorem filterMap_nothing {α β : Type} (l : List α) : l.filterMap (fun _ => (none : Option β)) = [] := by
  induction l with
  | nil => rfl
  | cons x l ih => simp only [List.filterMap_cons_none, ih]

theorem find_map {α : Type} (ls : List Nat) (g : Nat → α) (l : Nat) (h : l ∈ ls) :
    (ls.map (fun x => (x, g x))).find? (fun p => p.1 == l) = some (l, g l) := by
  induction ls with
  | nil => simp at h
  | cons x ls ih =>
    by_cases hx : x = l
    · subst hx; simp
    · have h2 : l ∈ ls := by
        rcases List.mem_cons.mp h with h | h
        · exact absurd h.symm hx
        · exact h
      have h3 : (x == l) = false := by simpa using hx
      simp only [List.map_cons, List.find?_cons, h3]; exact ih h2

theorem find_map_none {α : Type} (ls : List Nat) (g : Nat → α) (l : Nat) (h : ¬ l ∈ ls) :
    (ls.map (fun x => (x, g x))).find? (fun p => p.1 == l) = none := by
  rw [List.find?_eq_none]; intro x hx
  obtain ⟨y, hy, rfl⟩ := List.mem_map.mp hx
  simp only [beq_iff_eq]; intro e; exact h (e ▸ hy)

theorem modLanes_rest (c : Crew) (m : Mask) (f : Nat → Thread → Thread) : c.modLanes m f = { c with threads := (c.modLanes m f).threads } := rfl

theorem modLanes_zero (c : Crew) (f : Nat → Thread → Thread) : c.modLanes 0 f = c := by
  have : c.threads.mapIdx (fun l t => if (0 : Mask).getLsbD l then f l t else t) = c.threads := by
    apply List.ext_getElem?; intro i; simp
  unfold Crew.modLanes; rw [this]

theorem stall_zero (c : Crew) (w : Why) : c.stall 0 w = c := modLanes_zero c _

theorem thread_eq {c : Crew} {l : Nat} {th : Thread} (h : c.threads[l]? = some th) : c.thread l = th := by
  unfold Crew.thread; rw [h]; rfl

theorem modLanes_congr (c : Crew) (m : Mask) (f g : Nat → Thread → Thread) (h : ∀ l t, m.getLsbD l = true → f l t = g l t) :
    c.modLanes m f = c.modLanes m g := by
  have : c.threads.mapIdx (fun l t => if m.getLsbD l then f l t else t) = c.threads.mapIdx (fun l t => if m.getLsbD l then g l t else t) := by
    congr 1; funext l t; split
    · rename_i hb; exact h l t hb
    · rfl
  unfold Crew.modLanes; rw [this]

theorem advance_congr (c : Crew) (m : Mask) (cy : Nat) (f g : Nat → Thread → DWord) (h : ∀ l t, m.getLsbD l = true → f l t = g l t) :
    c.advance m cy f = c.advance m cy g := by
  unfold Crew.advance; rw [modLanes_congr]; intro l t hb; simp only [h l t hb]

theorem tlbHits_nil (s : State) (c : Crew) : s.tlbHits c [] = s := rfl

theorem pageRecords_nil (s : State) (c : Crew) (pc : DWord) : s.pageRecords c pc [] = s := rfl

/-- Where no lane takes a fault, none logs what it has read. -/
theorem logLanes_zero (c : Crew) (s : State) (c0 : Crew) (mask : Mask) (srcs : Nat → List (Use × Src)) (whole : Bool) (extra : Nat → List Nat) :
    c.logLanes s c0 mask 0 srcs whole extra = c := modLanes_zero ..

/-- Where every lane that executes goes on at a target, `runCtl` moves each there and changes nothing else. -/
theorem runCtl_done (i : Instr) (h : Hdr) (srcs : List (Use × Src)) (len : Nat) (go : Thread → List Nat → Go)
    (go' : Thread → List Nat → Option (DWord × (Thread → Thread))) (s : State) (iss : Issue) (c : Crew)
    (hgo : ∀ t v x, go' t v = some x → go t v = .next x.1 x.2)
    (hf : ∀ t v x (t' : Thread) r fl, go' t v = some x →
      x.2 { t' with regs := r, flags := fl } = { x.2 { t' with flags := fl } with regs := r })
    (hcur : s.cur = some iss) (hcrew : s.crew? iss.crew = some c)
    (hcheck : operandCheck s c iss.mask (guardMask c iss.mask h) (guardMask c iss.mask h) iss.pc srcs 255 1 false = none)
    (hbound : boundLanes c (guardMask c iss.mask h) srcs 255 1 = 0)
    (hall : ∀ l ∈ lanesOf (guardMask c iss.mask h), (go' (c.thread l) (readLane s c iss.mask srcs l).vals).isSome = true) :
    ∃ t c', runCtl i h srcs len go s = .next t
      ∧ t = { s with crews := s.crews.set iss.crew c', nextId := t.nextId }
      ∧ c' = { c with threads := c'.threads, bundles := c'.bundles }
      ∧ c'.threads.length = c.threads.length
      ∧ ∀ (l : Nat) (th : Thread), c.threads[l]? = some th →
          ∃ th', c'.threads[l]? = some th'
            ∧ (iss.mask.getLsbD l = false → th' = th)
            ∧ (iss.mask.getLsbD l = true →
                CtlAfter th th' ((guardMask c iss.mask h).getLsbD l) srcs len s.cycle (readFlags (readLane s c iss.mask srcs l))
                  (((go' th (readLane s c iss.mask srcs l).vals).map (·.1)).getD 0)
                  (((go' th (readLane s c iss.mask srcs l).vals).map (·.2)).getD id)) := by
  have hsub := guardMask_sub c iss.mask h
  generalize hem : guardMask c iss.mask h = em at *
  obtain ⟨P, hP⟩ : ∃ P : Nat → DWord, P = fun l => ((go' (c.thread l) (readLane s c iss.mask srcs l).vals).map (·.1)).getD 0 := ⟨_, rfl⟩
  obtain ⟨Q, hQ⟩ : ∃ Q : Nat → Thread → Thread, Q = fun l => ((go' (c.thread l) (readLane s c iss.mask srcs l).vals).map (·.2)).getD id := ⟨_, rfl⟩
  have hgs : (lanesOf em).map (fun l => (l, go (c.thread l) (readLane s c iss.mask srcs l).vals))
      = (lanesOf em).map (fun l => (l, Go.next (P l) (Q l))) := by
    apply List.map_congr_left
    intro l hl
    have h1 := hall l hl
    cases hx : go' (c.thread l) (readLane s c iss.mask srcs l).vals with
    | none => rw [hx] at h1; exact absurd h1 (by decide)
    | some x =>
      have h2 := hgo _ _ _ hx
      simp only [hP, hQ, hx, Option.map_some, Option.getD_some]
      rw [h2]
  obtain ⟨c1, hc1⟩ : ∃ c1, c1 = releaseAll iss.mask em false srcs c := ⟨_, rfl⟩
  obtain ⟨c2, hc2⟩ : ∃ c2, c2 = c1.modLanes em (fun l t => Q l (t.raise (readFlags (readLane s c iss.mask srcs l)))) := ⟨_, rfl⟩
  obtain ⟨c4, hc4⟩ : ∃ c4, c4 = c2.advance iss.mask s.cycle (fun l t => if em.getLsbD l then P l else t.pc + BitVec.ofNat 64 len) := ⟨_, rfl⟩
  have hfind : ∀ l, ((lanesOf em).map (fun l => (l, Go.next (P l) (Q l)))).find? (fun g => g.1 == l)
      = if em.getLsbD l then some (l, Go.next (P l) (Q l)) else none := by
    intro l
    by_cases hl : em.getLsbD l = true
    · rw [if_pos hl]; exact find_map _ (fun l => Go.next (P l) (Q l)) l ((mem_lanesOf _ _).mpr hl)
    · rw [if_neg hl]; exact find_map_none _ (fun l => Go.next (P l) (Q l)) l (fun hm => hl ((mem_lanesOf _ _).mp hm))
  have hm0 : maskOf [] = 0 := rfl
  have h00 : ((0 : Mask) ||| 0) = 0 := by decide
  refine ⟨{ s with crews := s.crews.set iss.crew c4, nextId := s.nextId + 1 + 32 }, c4, ?_, rfl, ?_, ?_, ?_⟩
  · unfold runCtl
    simp only [hcur, hcrew, hem, hcheck, hbound, and_not_zero]
    rw [hgs]
    simp only [State.fresh, List.filterMap_map, Function.comp_def, filterMap_nothing, List.map_nil, List.isEmpty_nil, Bool.not_true,
      Bool.false_eq_true, if_false, Bool.false_and, List.append_nil, hm0, Bool.and_self, if_true, List.filter_nil]
    simp only [List.filterMap_nil, List.isEmpty_nil, Bool.not_true, Bool.false_eq_true, if_false, List.append_nil, List.map_nil, hm0,
      Bool.and_self, if_true, List.filter_nil, logLanes_zero, modLanes_zero, stall_zero, h00, faultsOf_zero, List.nil_append, and_not_zero, beq_self_eq_true, pageRecords_nil, List.flatMap_nil, tlbHits_nil,
      List.foldl_nil, hfind]
    rw [← hc1]
    have e3 : ∀ x y : Crew, x = y → s.crews.modify iss.crew (fun _ => x) = s.crews.set iss.crew y := by
      intro x y hxy; subst hxy
      have := modCrew_const (c' := x) hcrew
      exact congrArg State.crews this
    refine congrArg Host.Outcome.next ?_
    simp only [State.modCrew, State.mk.injEq, true_and, and_true]
    refine ⟨hcur, e3 _ _ ?_⟩
    rw [hc4, hc2]
    rw [modLanes_congr c1 em _ (fun l t => Q l (t.raise (readFlags (readLane s c iss.mask srcs l))))]
    · apply advance_congr; intro l t hb
      by_cases h : em.getLsbD l = true
      · rw [if_pos h, if_pos h]
      · rw [if_neg h, if_neg h]
    · intro l t hb; rw [if_pos hb]
  · rw [hc4, hc2, hc1]; simp only [Crew.advance, Crew.rebundle, Crew.leave, Crew.modLanes]
    rw [releaseAll_rest]
  · rw [hc4, hc2, hc1]; simp only [Crew.advance, rebundle_threads, Crew.modLanes, List.length_mapIdx, releaseAll_length]
  · intro l th ht
    rw [hc4, advance_get, hc2, modLanes_get, hc1]
    by_cases hm : iss.mask.getLsbD l = true
    · obtain ⟨t1, e1, e2, e3⟩ := releaseAll_get iss.mask em false srcs c l th ht hm
      rw [e1]
      simp only [Option.map_some, hm, if_true, Option.some.injEq, exists_eq_left', Bool.true_eq_false, false_implies, true_implies, true_and]
      cases he : em.getLsbD l with
      | false =>
        rw [he] at e3
        simp only [Bool.false_eq_true, if_false]
        refine ⟨fun n => ?_, ?_⟩
        · have := e3 n
          simp only [Thread.reg?] at this ⊢
          exact this
        · simp only [Bool.false_eq_true, if_false]; rw [e2]
      | true =>
        rw [he] at e3
        have h1 := hall l ((mem_lanesOf _ _).mpr he)
        rw [thread_eq ht] at h1
        cases hx : go' th (readLane s c iss.mask srcs l).vals with
        | none => rw [hx] at h1; exact absurd h1 (by decide)
        | some x =>
          have h2 : Q l = x.2 ∧ P l = x.1 := by rw [hP, hQ]; simp only [thread_eq ht, hx, Option.map_some, Option.getD_some, and_self]
          have h3 : x.2 (t1.raise (readFlags (readLane s c iss.mask srcs l)))
              = { x.2 { th with flags := th.flags ||| BitVec.ofNat 32 (readFlags (readLane s c iss.mask srcs l) % 1024) } with regs := t1.regs } := by
            rw [e2]; exact hf _ _ x th t1.regs _ hx
          simp only [if_true, h2.1, h2.2, hx, Option.map_some, Option.getD_some, h3]
          refine ⟨fun n => ?_, ?_⟩
          · have := e3 n
            simp only [Thread.reg?] at this ⊢
            exact this
          · rfl
    · have hm' : iss.mask.getLsbD l = false := by simpa using hm
      have he : em.getLsbD l = false := by
        cases h : em.getLsbD l with
        | false => rfl
        | true => rw [hsub l h] at hm'; exact absurd hm' (by decide)
      rw [releaseAll_out _ _ _ _ _ _ hm' he, ht]
      simp only [Option.map_some, hm', he, Bool.false_eq_true, if_false, Option.some.injEq, exists_eq_left', false_implies, and_true, forall_const]

end Sys2Proof.Machine
end

