-- ==== Sys2Proof/Laws/Memory.lean ====
section
/-! SUPPORT. Byte memory: what each operation reads as, and that each keeps the canonical form. -/
namespace Sys2Proof.Machine

/-- The canonical form, said of the list as a whole. -/
theorem Memory.wf_iff (m : Memory) : m.wf = true ↔ m.Pairwise (fun c d => c.1 < d.1) ∧ ∀ c ∈ m, c.2 ≠ 0 := by
  induction m with
  | nil => simp [Memory.wf]
  | cons c l ih =>
    cases l with
    | nil => simp [Memory.wf]
    | cons d l =>
      simp only [Memory.wf, Bool.and_eq_true, decide_eq_true_eq, bne_iff_ne, ih]
      constructor
      · rintro ⟨⟨h1, h2⟩, h3, h4⟩
        refine ⟨List.pairwise_cons.mpr ⟨?_, h3⟩, ?_⟩
        · intro x hx
          rcases List.mem_cons.mp hx with rfl | hx
          · exact h2
          · exact Nat.lt_trans h2 ((List.pairwise_cons.mp h3).1 x hx)
        · intro x hx
          rcases List.mem_cons.mp hx with rfl | hx
          · exact h1
          · exact h4 x hx
      · rintro ⟨h1, h2⟩
        have h3 := List.pairwise_cons.mp h1
        exact ⟨⟨h2 c (by simp), h3.1 d (by simp)⟩, h3.2, fun x hx => h2 x (List.mem_cons_of_mem _ hx)⟩

theorem Memory.get_nil (a : Nat) : Memory.get [] a = 0 := rfl

theorem Memory.get_cons (k : Nat) (v : Byte) (l : Memory) (a : Nat) :
    Memory.get ((k, v) :: l) a = if k = a then v else Memory.get l a := by
  unfold Memory.get
  by_cases h : k = a
  · simp [h]
  · simp [h]

/-- An address below every listed one reads zero. -/
theorem Memory.get_below (m : Memory) (a : Nat) (h : ∀ c ∈ m, a < c.1) : m.get a = 0 := by
  induction m with
  | nil => rfl
  | cons c l ih =>
    obtain ⟨k, v⟩ := c
    rw [Memory.get_cons, if_neg (by have := h (k, v) (by simp); simp only at this; omega)]
    exact ih (fun c hc => h c (List.mem_cons_of_mem _ hc))

/-- What a write of one byte reads as. -/
theorem Memory.get_set (m : Memory) (a b : Nat) (v : Byte) (h : m.wf = true) : (m.set a v).get b = if b = a then v else m.get b := by
  rw [Memory.wf_iff] at h
  obtain ⟨hp, hz⟩ := h
  induction m with
  | nil =>
    by_cases hv : v = 0
    · simp [Memory.set, hv, Memory.get_nil]
    · have hs : Memory.set [] a v = [(a, v)] := by
        simp only [Memory.set]; rw [if_neg (by simpa using hv)]
      rw [hs, Memory.get_cons, Memory.get_nil]
      by_cases hb : b = a
      · rw [if_pos hb, if_pos hb.symm]
      · rw [if_neg hb, if_neg (fun e => hb e.symm)]
  | cons c l ih =>
    obtain ⟨k, w⟩ := c
    have hp' := List.pairwise_cons.mp hp
    have ih' := ih hp'.2 (fun x hx => hz x (List.mem_cons_of_mem _ hx))
    simp only [Memory.set]
    split
    · rename_i hlt
      split
      · rename_i hv
        have hv : v = 0 := by simpa using hv
        by_cases hb : b = a
        · subst hb
          rw [if_pos rfl, hv]
          apply Memory.get_below
          intro x hx
          rcases List.mem_cons.mp hx with rfl | hx
          · exact hlt
          · exact Nat.lt_trans hlt (hp'.1 x hx)
        · rw [if_neg hb]
      · rw [Memory.get_cons]
        by_cases hb : b = a
        · subst hb; simp
        · rw [if_neg hb, if_neg (fun e => hb e.symm)]
    · split
      · rename_i hge he
        have he : a = k := by simpa using he
        subst he
        split
        · rename_i hv
          have hv : v = 0 := by simpa using hv
          by_cases hb : b = a
          · subst hb
            rw [if_pos rfl, hv]
            exact Memory.get_below _ _ (fun x hx => hp'.1 x hx)
          · rw [if_neg hb, Memory.get_cons, if_neg (fun e => hb e.symm)]
        · rw [Memory.get_cons, Memory.get_cons]
          by_cases hb : b = a
          · subst hb; simp
          · rw [if_neg hb, if_neg (fun e => hb e.symm), if_neg (fun e => hb e.symm)]
      · rename_i hge he
        have he : a ≠ k := by simpa using he
        rw [Memory.get_cons, Memory.get_cons, ih']
        by_cases hb : b = a
        · subst hb; rw [if_pos rfl, if_neg (fun e => he e.symm)]; simp
        · rw [if_neg hb, if_neg hb]

/-- The addresses that a write leaves listed: those listed before, and the one written. -/
theorem Memory.mem_set (m : Memory) (a : Nat) (v : Byte) (c : Host.Cell) (h : c ∈ m.set a v) : c ∈ m ∨ c.1 = a ∧ c.2 = v ∧ v ≠ 0 := by
  induction m with
  | nil =>
    simp only [Memory.set] at h
    split at h
    · simp at h
    · rename_i hv; right; simp only [List.mem_singleton] at h; subst h; exact ⟨rfl, rfl, by simpa using hv⟩
  | cons d l ih =>
    obtain ⟨k, w⟩ := d
    simp only [Memory.set] at h
    split at h
    · split at h
      · exact .inl h
      · rename_i hv
        rcases List.mem_cons.mp h with rfl | h
        · exact .inr ⟨rfl, rfl, by simpa using hv⟩
        · exact .inl h
    · split at h
      · rename_i he
        split at h
        · exact .inl (List.mem_cons_of_mem _ h)
        · rename_i hv
          rcases List.mem_cons.mp h with rfl | h
          · exact .inr ⟨by simpa using (beq_iff_eq.mp he).symm, rfl, by simpa using hv⟩
          · exact .inl (List.mem_cons_of_mem _ h)
      · rcases List.mem_cons.mp h with rfl | h
        · exact .inl (by simp)
        · rcases ih h with h | h
          · exact .inl (List.mem_cons_of_mem _ h)
          · exact .inr h

/-- A write of one byte keeps the canonical form. -/
theorem Memory.wf_set (m : Memory) (a : Nat) (v : Byte) (h : m.wf = true) : (m.set a v).wf = true := by
  rw [Memory.wf_iff] at *
  refine ⟨?_, ?_⟩
  · obtain ⟨hp, -⟩ := h
    induction m with
    | nil => simp only [Memory.set]; split <;> simp
    | cons d l ih =>
      obtain ⟨k, w⟩ := d
      have hp' := List.pairwise_cons.mp hp
      simp only [Memory.set]
      split
      · rename_i hlt
        split
        · exact hp
        · refine List.pairwise_cons.mpr ⟨?_, hp⟩
          intro x hx
          rcases List.mem_cons.mp hx with rfl | hx
          · exact hlt
          · exact Nat.lt_trans hlt (hp'.1 x hx)
      · split
        · split
          · exact hp'.2
          · exact List.pairwise_cons.mpr ⟨hp'.1, hp'.2⟩
        · rename_i h1 h2
          refine List.pairwise_cons.mpr ⟨?_, ih hp'.2⟩
          intro x hx
          rcases Memory.mem_set l a v x hx with hx | ⟨hx, -⟩
          · exact hp'.1 x hx
          · have : a ≠ k := by simpa using h2
            simp only [hx]; omega
  · intro c hc
    rcases Memory.mem_set m a v c hc with hc | ⟨-, h2, h3⟩
    · exact h.2 c hc
    · rw [h2]; exact h3

/-- A write of bytes keeps the canonical form. -/
theorem Memory.wf_putBytes (bs : List Byte) (m : Memory) (a : Nat) (h : m.wf = true) : (m.putBytes a bs).wf = true := by
  induction bs generalizing m a with
  | nil => exact h
  | cons b bs ih => exact ih _ _ (Memory.wf_set m a b h)

theorem Memory.wf_writeN (m : Memory) (a n v : Nat) (h : m.wf = true) : (m.writeN a n v).wf = true := Memory.wf_putBytes _ m a h

/-- What a write of bytes reads as. -/
theorem Memory.get_putBytes (bs : List Byte) (m : Memory) (a b : Nat) (h : m.wf = true) :
    (m.putBytes a bs).get b = if a ≤ b ∧ b < a + bs.length then (bs[b - a]?).getD 0 else m.get b := by
  induction bs generalizing m a with
  | nil => rw [if_neg (by simp only [List.length_nil]; omega)]; rfl
  | cons x bs ih =>
    simp only [Memory.putBytes]
    rw [ih _ _ (Memory.wf_set m a x h), Memory.get_set m a b x h]
    simp only [List.length_cons]
    by_cases h1 : b = a
    · subst h1
      rw [if_neg (by omega), if_pos rfl, if_pos (by omega)]; simp
    · by_cases h2 : a + 1 ≤ b ∧ b < a + 1 + bs.length
      · rw [if_pos h2, if_pos (by omega)]
        have : b - a = (b - (a + 1)) + 1 := by omega
        rw [this, List.getElem?_cons_succ]
      · rw [if_neg h2, if_neg h1, if_neg (by omega)]

/-- The memory of a list of bytes is in canonical form, and lies from its address up. -/
theorem Memory.wf_ofList (bs : List Byte) (a : Nat) : (Memory.ofList a bs).wf = true ∧ ∀ c ∈ Memory.ofList a bs, a ≤ c.1 ∧ c.1 < a + bs.length := by
  induction bs generalizing a with
  | nil => exact ⟨rfl, by simp [Memory.ofList]⟩
  | cons b bs ih =>
    obtain ⟨h1, h2⟩ := ih (a + 1)
    simp only [Memory.ofList, List.length_cons]
    split
    · exact ⟨h1, fun c hc => by have := h2 c hc; omega⟩
    · rename_i hb
      rw [Memory.wf_iff] at *
      refine ⟨⟨List.pairwise_cons.mpr ⟨fun x hx => by have := h2 x hx; simp only; omega, h1.1⟩, ?_⟩, ?_⟩
      · intro c hc
        rcases List.mem_cons.mp hc with rfl | hc
        · simpa using hb
        · exact h1.2 c hc
      · intro c hc
        rcases List.mem_cons.mp hc with rfl | hc
        · simp only; omega
        · have := h2 c hc; omega

/-- A filter keeps the canonical form. -/
theorem Memory.wf_filter (m : Memory) (p : Host.Cell → Bool) (h : m.wf = true) : Memory.wf (m.filter p) = true := by
  rw [Memory.wf_iff] at *
  exact ⟨h.1.filter p, fun c hc => h.2 c (List.mem_filter.mp hc).1⟩

/-- A slice keeps the canonical form. -/
theorem Memory.wf_slice (m : Memory) (a n : Nat) (h : m.wf = true) : (m.slice a n).wf = true := by
  rw [Memory.wf_iff] at *
  unfold Memory.slice
  refine ⟨?_, ?_⟩
  · rw [List.pairwise_filterMap]
    refine h.1.imp ?_
    intro c d hcd x hx y hy
    simp only [Option.ite_none_right_eq_some, Option.some.injEq, Bool.and_eq_true, decide_eq_true_eq] at hx hy
    obtain ⟨hx, rfl⟩ := hx; obtain ⟨hy, rfl⟩ := hy
    simp only; omega
  · intro c hc
    obtain ⟨d, hd, hx⟩ := List.mem_filterMap.mp hc
    simp only [Option.ite_none_right_eq_some, Option.some.injEq] at hx
    obtain ⟨-, rfl⟩ := hx
    exact h.2 d hd

/-- A paste keeps the canonical form. -/
theorem Memory.wf_paste (m src : Memory) (a n : Nat) (h : m.wf = true) (h2 : src.wf = true) : (m.paste a n src).wf = true := by
  rw [Memory.wf_iff] at *
  unfold Memory.paste
  refine ⟨?_, ?_⟩
  · rw [List.pairwise_append, List.pairwise_append]
    refine ⟨⟨h.1.filter _, ?_, ?_⟩, h.1.filter _, ?_⟩
    · rw [List.pairwise_map]; refine (h2.1.filter _).imp ?_; intro c d hcd; simp only; omega
    · intro x hx y hy
      obtain ⟨d, hd, rfl⟩ := List.mem_map.mp hy
      have := (List.mem_filter.mp hx).2; simp only [decide_eq_true_eq] at this; simp only; omega
    · intro x hx y hy
      have hy' := (List.mem_filter.mp hy).2; simp only [decide_eq_true_eq] at hy'
      rcases List.mem_append.mp hx with hx | hx
      · have := (List.mem_filter.mp hx).2; simp only [decide_eq_true_eq] at this; omega
      · obtain ⟨d, hd, rfl⟩ := List.mem_map.mp hx
        have := (List.mem_filter.mp hd).2; simp only [decide_eq_true_eq] at this; simp only; omega
  · intro c hc
    rcases List.mem_append.mp hc with hc | hc
    · rcases List.mem_append.mp hc with hc | hc
      · exact h.2 c (List.mem_filter.mp hc).1
      · obtain ⟨d, hd, rfl⟩ := List.mem_map.mp hc
        exact h2.2 d (List.mem_filter.mp hd).1
    · exact h.2 c (List.mem_filter.mp hc).1

/-- The memory right after reset is in canonical form. -/
theorem Memory.wf_reset : State.reset.store.mem.wf = true := rfl

end Sys2Proof.Machine
end

