-- ==== Sys2Proof/Laws/Order.lean ====
section
/-! SUPPORT. What `inOrder` does: it keeps the elements, orders them, and leaves an ordered list as it is. -/
namespace Sys2Proof.Machine

theorem ordInsert_perm {α : Type} (le : α → α → Bool) (a : α) (l : List α) : (ordInsert le a l).Perm (a :: l) := by
  induction l with
  | nil => exact .refl _
  | cons b l ih =>
    unfold ordInsert
    split
    · exact .refl _
    · exact (List.Perm.cons b ih).trans (.swap a b l)

theorem inOrder_perm {α : Type} (le : α → α → Bool) (l : List α) : (inOrder le l).Perm l := by
  induction l with
  | nil => exact .refl _
  | cons a l ih => exact (ordInsert_perm le a _).trans (List.Perm.cons a ih)

@[simp] theorem mem_inOrder {α : Type} (le : α → α → Bool) (l : List α) (x : α) : x ∈ inOrder le l ↔ x ∈ l := (inOrder_perm le l).mem_iff
@[simp] theorem length_inOrder {α : Type} (le : α → α → Bool) (l : List α) : (inOrder le l).length = l.length := (inOrder_perm le l).length_eq

theorem inOrder_pairwise {α : Type} (le : α → α → Bool) (total : ∀ a b, le a b = true ∨ le b a = true)
    (trans : ∀ a b c, le a b = true → le b c = true → le a c = true) (l : List α) : (inOrder le l).Pairwise (fun a b => le a b = true) := by
  have ins : ∀ (a : α) (m : List α), m.Pairwise (fun a b => le a b = true) → (ordInsert le a m).Pairwise (fun a b => le a b = true) := by
    intro a m
    induction m with
    | nil => intro _; simp [ordInsert]
    | cons b m ih =>
      intro h
      unfold ordInsert
      split
      · rename_i hab
        refine List.pairwise_cons.2 ⟨fun c hc => ?_, h⟩
        rcases List.mem_cons.1 hc with rfl | hc
        · exact hab
        · exact trans _ _ _ hab (List.rel_of_pairwise_cons h hc)
      · rename_i hab
        refine List.pairwise_cons.2 ⟨fun c hc => ?_, ih (List.Pairwise.of_cons h)⟩
        rcases List.mem_cons.1 ((ordInsert_perm le a m).mem_iff.1 hc) with rfl | hc
        · exact (total _ _).resolve_left hab
        · exact List.rel_of_pairwise_cons h hc
  induction l with
  | nil => exact .nil
  | cons a l ih => exact ins a _ ih

end Sys2Proof.Machine
end

