-- ==== Sys2Proof/Laws/PerInstr.lean ====
section
/-! SUPPORT. One fact for every instruction as syntax: the opcode map of R133 and its way back agree. -/
namespace Sys2Proof.Laws

open Sys2Proof Sys2Proof.Machine

/-- The instruction that the tables of R133 build from an opcode and fields. -/
def rebuild (op : Nat) : Fields → Option Instr
  | .f64 f => buildF64 op f
  | .f96t f => buildF96T op f
  | .f96i f => buildF96I op f
  | .f128m f => buildF128M op f
  | .f128x f => buildF128X op f

/-- The format of fields (R129). -/
def formatIs : Fields → Format
  | .f64 _ => .f64
  | .f96t _ => .f96t
  | .f96i _ => .f96i
  | .f128m _ => .f128m
  | .f128x _ => .f128x

/-- An instruction with an opcode has one below 1024, in the format the opcode map gives it, and its opcode and fields build it again; one
without is the pad word, or an event, which has no bytes. -/
def OpcodeMap.Statement (i : Instr) : Prop :=
  match opcodeOf i with
  | some (op, f) => op < 1024 ∧ formatOf op = some (formatIs f) ∧ rebuild op f = some i
  | none => i = .padWord ∨ encode i = []

theorem OpcodeMap.add (f : F64) : OpcodeMap.Statement (.add f) := ⟨by decide, rfl, rfl⟩
theorem OpcodeMap.sub (f : F64) : OpcodeMap.Statement (.sub f) := ⟨by decide, rfl, rfl⟩
theorem OpcodeMap.mul (f : F64) : OpcodeMap.Statement (.mul f) := ⟨by decide, rfl, rfl⟩
theorem OpcodeMap.mulhi (f : F64) : OpcodeMap.Statement (.mulhi f) := ⟨by decide, rfl, rfl⟩
theorem OpcodeMap.min (f : F64) : OpcodeMap.Statement (.min f) := ⟨by decide, rfl, rfl⟩
theorem OpcodeMap.max (f : F64) : OpcodeMap.Statement (.max f) := ⟨by decide, rfl, rfl⟩
theorem OpcodeMap.abs (f : F64) : OpcodeMap.Statement (.abs f) := ⟨by decide, rfl, rfl⟩
theorem OpcodeMap.neg (f : F64) : OpcodeMap.Statement (.neg f) := ⟨by decide, rfl, rfl⟩
theorem OpcodeMap.and (f : F64) : OpcodeMap.Statement (.and f) := ⟨by decide, rfl, rfl⟩
theorem OpcodeMap.or (f : F64) : OpcodeMap.Statement (.or f) := ⟨by decide, rfl, rfl⟩
theorem OpcodeMap.xor (f : F64) : OpcodeMap.Statement (.xor f) := ⟨by decide, rfl, rfl⟩
theorem OpcodeMap.not (f : F64) : OpcodeMap.Statement (.not f) := ⟨by decide, rfl, rfl⟩
theorem OpcodeMap.shl (f : F64) : OpcodeMap.Statement (.shl f) := ⟨by decide, rfl, rfl⟩
theorem OpcodeMap.shr (f : F64) : OpcodeMap.Statement (.shr f) := ⟨by decide, rfl, rfl⟩
theorem OpcodeMap.sar (f : F64) : OpcodeMap.Statement (.sar f) := ⟨by decide, rfl, rfl⟩
theorem OpcodeMap.rol (f : F64) : OpcodeMap.Statement (.rol f) := ⟨by decide, rfl, rfl⟩
theorem OpcodeMap.popc (f : F64) : OpcodeMap.Statement (.popc f) := ⟨by decide, rfl, rfl⟩
theorem OpcodeMap.clz (f : F64) : OpcodeMap.Statement (.clz f) := ⟨by decide, rfl, rfl⟩
theorem OpcodeMap.brev (f : F64) : OpcodeMap.Statement (.brev f) := ⟨by decide, rfl, rfl⟩
theorem OpcodeMap.adda (f : F64) : OpcodeMap.Statement (.adda f) := ⟨by decide, rfl, rfl⟩
theorem OpcodeMap.mov (f : F64) : OpcodeMap.Statement (.mov f) := ⟨by decide, rfl, rfl⟩
theorem OpcodeMap.div (f : F64) : OpcodeMap.Statement (.div f) := ⟨by decide, rfl, rfl⟩
theorem OpcodeMap.rem (f : F64) : OpcodeMap.Statement (.rem f) := ⟨by decide, rfl, rfl⟩
theorem OpcodeMap.setp (f : F64) : OpcodeMap.Statement (.setp f) := ⟨by decide, rfl, rfl⟩
theorem OpcodeMap.pand (f : F64) : OpcodeMap.Statement (.pand f) := ⟨by decide, rfl, rfl⟩
theorem OpcodeMap.por (f : F64) : OpcodeMap.Statement (.por f) := ⟨by decide, rfl, rfl⟩
theorem OpcodeMap.pxor (f : F64) : OpcodeMap.Statement (.pxor f) := ⟨by decide, rfl, rfl⟩
theorem OpcodeMap.pnot (f : F64) : OpcodeMap.Statement (.pnot f) := ⟨by decide, rfl, rfl⟩
theorem OpcodeMap.flclr (f : F64) : OpcodeMap.Statement (.flclr f) := ⟨by decide, rfl, rfl⟩
theorem OpcodeMap.mad (f : F96T) : OpcodeMap.Statement (.mad f) := ⟨by decide, rfl, rfl⟩
theorem OpcodeMap.sel (f : F96T) : OpcodeMap.Statement (.sel f) := ⟨by decide, rfl, rfl⟩
theorem OpcodeMap.bfx (f : F96T) : OpcodeMap.Statement (.bfx f) := ⟨by decide, rfl, rfl⟩
theorem OpcodeMap.bfi (f : F96T) : OpcodeMap.Statement (.bfi f) := ⟨by decide, rfl, rfl⟩
theorem OpcodeMap.wsh (f : F96T) : OpcodeMap.Statement (.wsh f) := ⟨by decide, rfl, rfl⟩
theorem OpcodeMap.ixset (f : F96T) : OpcodeMap.Statement (.ixset f) := ⟨by decide, rfl, rfl⟩
theorem OpcodeMap.movi (f : F96I) : OpcodeMap.Statement (.movi f) := ⟨by decide, rfl, rfl⟩
theorem OpcodeMap.addi (f : F96I) : OpcodeMap.Statement (.addi f) := ⟨by decide, rfl, rfl⟩
theorem OpcodeMap.muli (f : F96I) : OpcodeMap.Statement (.muli f) := ⟨by decide, rfl, rfl⟩
theorem OpcodeMap.andi (f : F96I) : OpcodeMap.Statement (.andi f) := ⟨by decide, rfl, rfl⟩
theorem OpcodeMap.ori (f : F96I) : OpcodeMap.Statement (.ori f) := ⟨by decide, rfl, rfl⟩
theorem OpcodeMap.xori (f : F96I) : OpcodeMap.Statement (.xori f) := ⟨by decide, rfl, rfl⟩
theorem OpcodeMap.setpi (f : F96I) : OpcodeMap.Statement (.setpi f) := ⟨by decide, rfl, rfl⟩
theorem OpcodeMap.bra (f : F96I) : OpcodeMap.Statement (.bra f) := ⟨by decide, rfl, rfl⟩
theorem OpcodeMap.call (f : F96I) : OpcodeMap.Statement (.call f) := ⟨by decide, rfl, rfl⟩
theorem OpcodeMap.meet (f : F96I) : OpcodeMap.Statement (.meet f) := ⟨by decide, rfl, rfl⟩
theorem OpcodeMap.gate (f : F96I) : OpcodeMap.Statement (.gate f) := ⟨by decide, rfl, rfl⟩
theorem OpcodeMap.jmp (f : F64) : OpcodeMap.Statement (.jmp f) := ⟨by decide, rfl, rfl⟩
theorem OpcodeMap.callx (f : F64) : OpcodeMap.Statement (.callx f) := ⟨by decide, rfl, rfl⟩
theorem OpcodeMap.ret (f : F64) : OpcodeMap.Statement (.ret f) := ⟨by decide, rfl, rfl⟩
theorem OpcodeMap.exit (f : F64) : OpcodeMap.Statement (.exit f) := ⟨by decide, rfl, rfl⟩
theorem OpcodeMap.elect (f : F64) : OpcodeMap.Statement (.elect f) := ⟨by decide, rfl, rfl⟩
theorem OpcodeMap.vote (f : F64) : OpcodeMap.Statement (.vote f) := ⟨by decide, rfl, rfl⟩
theorem OpcodeMap.trap (f : F64) : OpcodeMap.Statement (.trap f) := ⟨by decide, rfl, rfl⟩
theorem OpcodeMap.bkpt (f : F64) : OpcodeMap.Statement (.bkpt f) := ⟨by decide, rfl, rfl⟩
theorem OpcodeMap.gret (f : F64) : OpcodeMap.Statement (.gret f) := ⟨by decide, rfl, rfl⟩
theorem OpcodeMap.nop (f : F64) : OpcodeMap.Statement (.nop f) := ⟨by decide, rfl, rfl⟩
theorem OpcodeMap.wait (f : F128X) : OpcodeMap.Statement (.wait f) := ⟨by decide, rfl, rfl⟩
theorem OpcodeMap.padWord : OpcodeMap.Statement .padWord := Or.inl rfl
theorem OpcodeMap.ld (f : F128M) : OpcodeMap.Statement (.ld f) := ⟨by decide, rfl, rfl⟩
theorem OpcodeMap.st (f : F128M) : OpcodeMap.Statement (.st f) := ⟨by decide, rfl, rfl⟩
theorem OpcodeMap.ldm (f : F128M) : OpcodeMap.Statement (.ldm f) := ⟨by decide, rfl, rfl⟩
theorem OpcodeMap.stm (f : F128M) : OpcodeMap.Statement (.stm f) := ⟨by decide, rfl, rfl⟩
theorem OpcodeMap.aadd (f : F128M) : OpcodeMap.Statement (.aadd f) := ⟨by decide, rfl, rfl⟩
theorem OpcodeMap.amin (f : F128M) : OpcodeMap.Statement (.amin f) := ⟨by decide, rfl, rfl⟩
theorem OpcodeMap.amax (f : F128M) : OpcodeMap.Statement (.amax f) := ⟨by decide, rfl, rfl⟩
theorem OpcodeMap.aand (f : F128M) : OpcodeMap.Statement (.aand f) := ⟨by decide, rfl, rfl⟩
theorem OpcodeMap.aor (f : F128M) : OpcodeMap.Statement (.aor f) := ⟨by decide, rfl, rfl⟩
theorem OpcodeMap.axor (f : F128M) : OpcodeMap.Statement (.axor f) := ⟨by decide, rfl, rfl⟩
theorem OpcodeMap.axch (f : F128M) : OpcodeMap.Statement (.axch f) := ⟨by decide, rfl, rfl⟩
theorem OpcodeMap.acas (f : F128M) : OpcodeMap.Statement (.acas f) := ⟨by decide, rfl, rfl⟩
theorem OpcodeMap.afadd (f : F128M) : OpcodeMap.Statement (.afadd f) := ⟨by decide, rfl, rfl⟩
theorem OpcodeMap.amaxswap (f : F128M) : OpcodeMap.Statement (.amaxswap f) := ⟨by decide, rfl, rfl⟩
theorem OpcodeMap.ainc (f : F128M) : OpcodeMap.Statement (.ainc f) := ⟨by decide, rfl, rfl⟩
theorem OpcodeMap.adec (f : F128M) : OpcodeMap.Statement (.adec f) := ⟨by decide, rfl, rfl⟩
theorem OpcodeMap.afmin (f : F128M) : OpcodeMap.Statement (.afmin f) := ⟨by decide, rfl, rfl⟩
theorem OpcodeMap.afmax (f : F128M) : OpcodeMap.Statement (.afmax f) := ⟨by decide, rfl, rfl⟩
theorem OpcodeMap.fence (f : F64) : OpcodeMap.Statement (.fence f) := ⟨by decide, rfl, rfl⟩
theorem OpcodeMap.stsig (f : F128M) : OpcodeMap.Statement (.stsig f) := ⟨by decide, rfl, rfl⟩
theorem OpcodeMap.binit (f : F128M) : OpcodeMap.Statement (.binit f) := ⟨by decide, rfl, rfl⟩
theorem OpcodeMap.bexpb (f : F128M) : OpcodeMap.Statement (.bexpb f) := ⟨by decide, rfl, rfl⟩
theorem OpcodeMap.barr (f : F128M) : OpcodeMap.Statement (.barr f) := ⟨by decide, rfl, rfl⟩
theorem OpcodeMap.binv (f : F128M) : OpcodeMap.Statement (.binv f) := ⟨by decide, rfl, rfl⟩
theorem OpcodeMap.pref (f : F128M) : OpcodeMap.Statement (.pref f) := ⟨by decide, rfl, rfl⟩
theorem OpcodeMap.clwb (f : F128M) : OpcodeMap.Statement (.clwb f) := ⟨by decide, rfl, rfl⟩
theorem OpcodeMap.clevict (f : F128M) : OpcodeMap.Statement (.clevict f) := ⟨by decide, rfl, rfl⟩
theorem OpcodeMap.clrrv (f : F128M) : OpcodeMap.Statement (.clrrv f) := ⟨by decide, rfl, rfl⟩
theorem OpcodeMap.fadd (f : F64) : OpcodeMap.Statement (.fadd f) := ⟨by decide, rfl, rfl⟩
theorem OpcodeMap.fsub (f : F64) : OpcodeMap.Statement (.fsub f) := ⟨by decide, rfl, rfl⟩
theorem OpcodeMap.fmul (f : F64) : OpcodeMap.Statement (.fmul f) := ⟨by decide, rfl, rfl⟩
theorem OpcodeMap.fdiv (f : F64) : OpcodeMap.Statement (.fdiv f) := ⟨by decide, rfl, rfl⟩
theorem OpcodeMap.fmin (f : F64) : OpcodeMap.Statement (.fmin f) := ⟨by decide, rfl, rfl⟩
theorem OpcodeMap.fmax (f : F64) : OpcodeMap.Statement (.fmax f) := ⟨by decide, rfl, rfl⟩
theorem OpcodeMap.fabs (f : F64) : OpcodeMap.Statement (.fabs f) := ⟨by decide, rfl, rfl⟩
theorem OpcodeMap.fneg (f : F64) : OpcodeMap.Statement (.fneg f) := ⟨by decide, rfl, rfl⟩
theorem OpcodeMap.fsqrt (f : F64) : OpcodeMap.Statement (.fsqrt f) := ⟨by decide, rfl, rfl⟩
theorem OpcodeMap.frcp (f : F64) : OpcodeMap.Statement (.frcp f) := ⟨by decide, rfl, rfl⟩
theorem OpcodeMap.frsq (f : F64) : OpcodeMap.Statement (.frsq f) := ⟨by decide, rfl, rfl⟩
theorem OpcodeMap.fexp2 (f : F64) : OpcodeMap.Statement (.fexp2 f) := ⟨by decide, rfl, rfl⟩
theorem OpcodeMap.flog2 (f : F64) : OpcodeMap.Statement (.flog2 f) := ⟨by decide, rfl, rfl⟩
theorem OpcodeMap.ftanh (f : F64) : OpcodeMap.Statement (.ftanh f) := ⟨by decide, rfl, rfl⟩
theorem OpcodeMap.fscl (f : F64) : OpcodeMap.Statement (.fscl f) := ⟨by decide, rfl, rfl⟩
theorem OpcodeMap.frnd (f : F64) : OpcodeMap.Statement (.frnd f) := ⟨by decide, rfl, rfl⟩
theorem OpcodeMap.fclass (f : F64) : OpcodeMap.Statement (.fclass f) := ⟨by decide, rfl, rfl⟩
theorem OpcodeMap.fsetp (f : F64) : OpcodeMap.Statement (.fsetp f) := ⟨by decide, rfl, rfl⟩
theorem OpcodeMap.cvt (f : F64) : OpcodeMap.Statement (.cvt f) := ⟨by decide, rfl, rfl⟩
theorem OpcodeMap.perm (f : F64) : OpcodeMap.Statement (.perm f) := ⟨by decide, rfl, rfl⟩
theorem OpcodeMap.redux (f : F64) : OpcodeMap.Statement (.redux f) := ⟨by decide, rfl, rfl⟩
theorem OpcodeMap.pack (f : F64) : OpcodeMap.Statement (.pack f) := ⟨by decide, rfl, rfl⟩
theorem OpcodeMap.upk (f : F64) : OpcodeMap.Statement (.upk f) := ⟨by decide, rfl, rfl⟩
theorem OpcodeMap.hadd2 (f : F64) : OpcodeMap.Statement (.hadd2 f) := ⟨by decide, rfl, rfl⟩
theorem OpcodeMap.hsub2 (f : F64) : OpcodeMap.Statement (.hsub2 f) := ⟨by decide, rfl, rfl⟩
theorem OpcodeMap.hmul2 (f : F64) : OpcodeMap.Statement (.hmul2 f) := ⟨by decide, rfl, rfl⟩
theorem OpcodeMap.hmin2 (f : F64) : OpcodeMap.Statement (.hmin2 f) := ⟨by decide, rfl, rfl⟩
theorem OpcodeMap.hmax2 (f : F64) : OpcodeMap.Statement (.hmax2 f) := ⟨by decide, rfl, rfl⟩
theorem OpcodeMap.hsetp2 (f : F64) : OpcodeMap.Statement (.hsetp2 f) := ⟨by decide, rfl, rfl⟩
theorem OpcodeMap.ffma (f : F96T) : OpcodeMap.Statement (.ffma f) := ⟨by decide, rfl, rfl⟩
theorem OpcodeMap.hfma2 (f : F96T) : OpcodeMap.Statement (.hfma2 f) := ⟨by decide, rfl, rfl⟩
theorem OpcodeMap.fsel (f : F96T) : OpcodeMap.Statement (.fsel f) := ⟨by decide, rfl, rfl⟩
theorem OpcodeMap.quant (f : F96T) : OpcodeMap.Statement (.quant f) := ⟨by decide, rfl, rfl⟩
theorem OpcodeMap.cvpk (f : F96T) : OpcodeMap.Statement (.cvpk f) := ⟨by decide, rfl, rfl⟩
theorem OpcodeMap.faddi (f : F96I) : OpcodeMap.Statement (.faddi f) := ⟨by decide, rfl, rfl⟩
theorem OpcodeMap.fmuli (f : F96I) : OpcodeMap.Statement (.fmuli f) := ⟨by decide, rfl, rfl⟩
theorem OpcodeMap.mma (f : F128X) : OpcodeMap.Statement (.mma f) := ⟨by decide, rfl, rfl⟩
theorem OpcodeMap.mmag (f : F128X) : OpcodeMap.Statement (.mmag f) := ⟨by decide, rfl, rfl⟩
theorem OpcodeMap.aclr (f : F64) : OpcodeMap.Statement (.aclr f) := ⟨by decide, rfl, rfl⟩
theorem OpcodeMap.amov (f : F64) : OpcodeMap.Statement (.amov f) := ⟨by decide, rfl, rfl⟩
theorem OpcodeMap.ald (f : F128X) : OpcodeMap.Statement (.ald f) := ⟨by decide, rfl, rfl⟩
theorem OpcodeMap.ast (f : F128X) : OpcodeMap.Statement (.ast f) := ⟨by decide, rfl, rfl⟩
theorem OpcodeMap.aepi (f : F128X) : OpcodeMap.Statement (.aepi f) := ⟨by decide, rfl, rfl⟩
theorem OpcodeMap.tcopy (f : F128X) : OpcodeMap.Statement (.tcopy f) := ⟨by decide, rfl, rfl⟩
theorem OpcodeMap.seal (f : F64) : OpcodeMap.Statement (.seal f) := ⟨by decide, rfl, rfl⟩
theorem OpcodeMap.waitb (f : F64) : OpcodeMap.Statement (.waitb f) := ⟨by decide, rfl, rfl⟩
theorem OpcodeMap.dictld (f : F128X) : OpcodeMap.Statement (.dictld f) := ⟨by decide, rfl, rfl⟩
theorem OpcodeMap.srd (f : F96I) : OpcodeMap.Statement (.srd f) := ⟨by decide, rfl, rfl⟩
theorem OpcodeMap.swr (f : F96I) : OpcodeMap.Statement (.swr f) := ⟨by decide, rfl, rfl⟩
theorem OpcodeMap.tlbinv (f : F64) : OpcodeMap.Statement (.tlbinv f) := ⟨by decide, rfl, rfl⟩
theorem OpcodeMap.tlbinva (f : F64) : OpcodeMap.Statement (.tlbinva f) := ⟨by decide, rfl, rfl⟩
theorem OpcodeMap.ctxsave (f : F64) : OpcodeMap.Statement (.ctxsave f) := ⟨by decide, rfl, rfl⟩
theorem OpcodeMap.ctxrest (f : F64) : OpcodeMap.Statement (.ctxrest f) := ⟨by decide, rfl, rfl⟩
theorem OpcodeMap.park (f : F64) : OpcodeMap.Statement (.park f) := ⟨by decide, rfl, rfl⟩
theorem OpcodeMap.resume (f : F64) : OpcodeMap.Statement (.resume f) := ⟨by decide, rfl, rfl⟩
theorem OpcodeMap.kill (f : F64) : OpcodeMap.Statement (.kill f) := ⟨by decide, rfl, rfl⟩
theorem OpcodeMap.split (f : F64) : OpcodeMap.Statement (.split f) := ⟨by decide, rfl, rfl⟩
theorem OpcodeMap.seedset (f : F64) : OpcodeMap.Statement (.seedset f) := ⟨by decide, rfl, rfl⟩
theorem OpcodeMap.eret (f : F64) : OpcodeMap.Statement (.eret f) := ⟨by decide, rfl, rfl⟩
theorem OpcodeMap.gtwr (f : F128M) : OpcodeMap.Statement (.gtwr f) := ⟨by decide, rfl, rfl⟩
theorem OpcodeMap.htwr (f : F128M) : OpcodeMap.Statement (.htwr f) := ⟨by decide, rfl, rfl⟩
theorem OpcodeMap.ldphys (f : F128M) : OpcodeMap.Statement (.ldphys f) := ⟨by decide, rfl, rfl⟩
theorem OpcodeMap.stphys (f : F128M) : OpcodeMap.Statement (.stphys f) := ⟨by decide, rfl, rfl⟩
theorem OpcodeMap.gtinv (f : F64) : OpcodeMap.Statement (.gtinv f) := ⟨by decide, rfl, rfl⟩
theorem OpcodeMap.htinv (f : F64) : OpcodeMap.Statement (.htinv f) := ⟨by decide, rfl, rfl⟩
theorem OpcodeMap.regroupBoundary : OpcodeMap.Statement .regroupBoundary := Or.inr rfl
theorem OpcodeMap.holdLimitExpiry (team crew : Nat) (m : DWord) : OpcodeMap.Statement (.holdLimitExpiry team crew m) := Or.inr rfl
theorem OpcodeMap.convergeTimeout (team crew : Nat) : OpcodeMap.Statement (.convergeTimeout team crew) := Or.inr rfl
theorem OpcodeMap.waitMemRepoll (team crew lane : Nat) : OpcodeMap.Statement (.waitMemRepoll team crew lane) := Or.inr rfl
theorem OpcodeMap.waitTimeout (team crew lane : Nat) : OpcodeMap.Statement (.waitTimeout team crew lane) := Or.inr rfl
theorem OpcodeMap.teamAdmit (core : Nat) : OpcodeMap.Statement (.teamAdmit core) := Or.inr rfl
theorem OpcodeMap.cohortAdmit (core : Nat) : OpcodeMap.Statement (.cohortAdmit core) := Or.inr rfl
theorem OpcodeMap.scratchRelease (team : Nat) : OpcodeMap.Statement (.scratchRelease team) := Or.inr rfl
theorem OpcodeMap.percolatorSpill (team crew : Nat) : OpcodeMap.Statement (.percolatorSpill team crew) := Or.inr rfl
theorem OpcodeMap.spillWriteComplete (team crew lane level reg : Nat) : OpcodeMap.Statement (.spillWriteComplete team crew lane level reg) := Or.inr rfl
theorem OpcodeMap.registerRefillComplete (team crew lane reg : Nat) : OpcodeMap.Statement (.registerRefillComplete team crew lane reg) := Or.inr rfl
theorem OpcodeMap.loadComplete (id unit : Nat) : OpcodeMap.Statement (.loadComplete id unit) := Or.inr rfl
theorem OpcodeMap.fetchComplete (team crew : Nat) (pc : DWord) : OpcodeMap.Statement (.fetchComplete team crew pc) := Or.inr rfl
theorem OpcodeMap.wSectorRegistration (id unit : Nat) : OpcodeMap.Statement (.wSectorRegistration id unit) := Or.inr rfl
theorem OpcodeMap.wSectorPush (die sector : Nat) : OpcodeMap.Statement (.wSectorPush die sector) := Or.inr rfl
theorem OpcodeMap.cacheDieTempUpdate (die temp : Nat) : OpcodeMap.Statement (.cacheDieTempUpdate die temp) := Or.inr rfl
theorem OpcodeMap.splitDieApply (id : Nat) : OpcodeMap.Statement (.splitDieApply id) := Or.inr rfl
theorem OpcodeMap.seedsetApply (id : Nat) : OpcodeMap.Statement (.seedsetApply id) := Or.inr rfl
theorem OpcodeMap.operandLatchFill (team crew : Nat) : OpcodeMap.Statement (.operandLatchFill team crew) := Or.inr rfl
theorem OpcodeMap.tensorReadComplete (id : Nat) : OpcodeMap.Statement (.tensorReadComplete id) := Or.inr rfl
theorem OpcodeMap.accEntryStart (core : Nat) : OpcodeMap.Statement (.accEntryStart core) := Or.inr rfl
theorem OpcodeMap.accEntryComplete (id : Nat) : OpcodeMap.Statement (.accEntryComplete id) := Or.inr rfl
theorem OpcodeMap.copyElementRead (id : Nat) : OpcodeMap.Statement (.copyElementRead id) := Or.inr rfl
theorem OpcodeMap.copyDataWrite (id unit : Nat) : OpcodeMap.Statement (.copyDataWrite id unit) := Or.inr rfl
theorem OpcodeMap.copyArrival (id receiver : Nat) : OpcodeMap.Statement (.copyArrival id receiver) := Or.inr rfl
theorem OpcodeMap.copyComplete (id : Nat) : OpcodeMap.Statement (.copyComplete id) := Or.inr rfl
theorem OpcodeMap.copyFault (id : Nat) : OpcodeMap.Statement (.copyFault id) := Or.inr rfl
theorem OpcodeMap.batchFinish (team crew lane : Nat) : OpcodeMap.Statement (.batchFinish team crew lane) := Or.inr rfl
theorem OpcodeMap.dictldSlotRequest (id stack : Nat) : OpcodeMap.Statement (.dictldSlotRequest id stack) := Or.inr rfl
theorem OpcodeMap.dictldSlotWrite (id stack : Nat) : OpcodeMap.Statement (.dictldSlotWrite id stack) := Or.inr rfl
theorem OpcodeMap.stsigSignal (id : Nat) : OpcodeMap.Statement (.stsigSignal id) := Or.inr rfl
theorem OpcodeMap.binvClear (id : Nat) : OpcodeMap.Statement (.binvClear id) := Or.inr rfl
theorem OpcodeMap.handleEntryWrite (id : Nat) : OpcodeMap.Statement (.handleEntryWrite id) := Or.inr rfl
theorem OpcodeMap.ctxHtabWrite (id : Nat) : OpcodeMap.Statement (.ctxHtabWrite id) := Or.inr rfl
theorem OpcodeMap.trNext (team crew : Nat) : OpcodeMap.Statement (.trNext team crew) := Or.inr rfl
theorem OpcodeMap.tailWrite (queue value : Nat) : OpcodeMap.Statement (.tailWrite queue value) := Or.inr rfl
theorem OpcodeMap.registerWrite (off value : Nat) : OpcodeMap.Statement (.registerWrite off value) := Or.inr rfl
theorem OpcodeMap.commandAccept (queue : Nat) : OpcodeMap.Statement (.commandAccept queue) := Or.inr rfl
theorem OpcodeMap.nopCommand (ctx node : Nat) : OpcodeMap.Statement (.nopCommand ctx node) := Or.inr rfl
theorem OpcodeMap.launch (ctx node : Nat) : OpcodeMap.Statement (.launch ctx node) := Or.inr rfl
theorem OpcodeMap.copyCommand (ctx node : Nat) : OpcodeMap.Statement (.copyCommand ctx node) := Or.inr rfl
theorem OpcodeMap.signalCommand (ctx node : Nat) : OpcodeMap.Statement (.signalCommand ctx node) := Or.inr rfl
theorem OpcodeMap.nodeFinish (ctx node : Nat) : OpcodeMap.Statement (.nodeFinish ctx node) := Or.inr rfl
theorem OpcodeMap.teamDeal (ctx node : Nat) : OpcodeMap.Statement (.teamDeal ctx node) := Or.inr rfl
theorem OpcodeMap.stealRequest (core : Nat) : OpcodeMap.Statement (.stealRequest core) := Or.inr rfl
theorem OpcodeMap.stealAnswer (victim thief : Nat) : OpcodeMap.Statement (.stealAnswer victim thief) := Or.inr rfl
theorem OpcodeMap.stealBackoffExpiry (core : Nat) : OpcodeMap.Statement (.stealBackoffExpiry core) := Or.inr rfl
theorem OpcodeMap.preemptionStart (core : Nat) : OpcodeMap.Statement (.preemptionStart core) := Or.inr rfl
theorem OpcodeMap.teamSaveWriteOut (team : Nat) : OpcodeMap.Statement (.teamSaveWriteOut team) := Or.inr rfl
theorem OpcodeMap.teamRestore (team core : Nat) : OpcodeMap.Statement (.teamRestore team core) := Or.inr rfl
theorem OpcodeMap.tableWalkComplete (core asid va : Nat) : OpcodeMap.Statement (.tableWalkComplete core asid va) := Or.inr rfl
theorem OpcodeMap.pageFaultReplay (id : Nat) : OpcodeMap.Statement (.pageFaultReplay id) := Or.inr rfl
theorem OpcodeMap.faultRecordDelivery : OpcodeMap.Statement .faultRecordDelivery := Or.inr rfl
theorem OpcodeMap.cpHeartbeatTimeout : OpcodeMap.Statement .cpHeartbeatTimeout := Or.inr rfl
theorem OpcodeMap.cpHeartbeat : OpcodeMap.Statement .cpHeartbeat := Or.inr rfl
theorem OpcodeMap.scrubPass (addr errors : Nat) : OpcodeMap.Statement (.scrubPass addr errors) := Or.inr rfl
theorem OpcodeMap.spareCoreMap (core : Nat) : OpcodeMap.Statement (.spareCoreMap core) := Or.inr rfl
theorem OpcodeMap.spareSliceMap (die slice : Nat) : OpcodeMap.Statement (.spareSliceMap die slice) := Or.inr rfl
theorem OpcodeMap.verticalLinkHeartbeat (die answered : Nat) : OpcodeMap.Statement (.verticalLinkHeartbeat die answered) := Or.inr rfl
theorem OpcodeMap.linkLost (die : Nat) : OpcodeMap.Statement (.linkLost die) := Or.inr rfl
theorem OpcodeMap.linkWakeExpired (die : Nat) : OpcodeMap.Statement (.linkWakeExpired die) := Or.inr rfl
theorem OpcodeMap.shardRebuild (die : Nat) : OpcodeMap.Statement (.shardRebuild die) := Or.inr rfl
theorem OpcodeMap.routerTimeoutDetect (router buffer : Nat) : OpcodeMap.Statement (.routerTimeoutDetect router buffer) := Or.inr rfl
theorem OpcodeMap.squallTokenVisit (domain : Nat) : OpcodeMap.Statement (.squallTokenVisit domain) := Or.inr rfl
theorem OpcodeMap.flitReplay (port ok : Nat) : OpcodeMap.Statement (.flitReplay port ok) := Or.inr rfl
theorem OpcodeMap.stop (core sched : Nat) : OpcodeMap.Statement (.stop core sched) := Or.inr rfl
theorem OpcodeMap.run (core sched : Nat) : OpcodeMap.Statement (.run core sched) := Or.inr rfl
theorem OpcodeMap.step (core sched : Nat) : OpcodeMap.Statement (.step core sched) := Or.inr rfl
theorem OpcodeMap.sofWrite (core sched value : Nat) : OpcodeMap.Statement (.sofWrite core sched value) := Or.inr rfl
theorem OpcodeMap.cstop (core : Nat) : OpcodeMap.Statement (.cstop core) := Or.inr rfl
theorem OpcodeMap.pcMatchStop (core sched : Nat) : OpcodeMap.Statement (.pcMatchStop core sched) := Or.inr rfl
theorem OpcodeMap.go (core : Nat) : OpcodeMap.Statement (.go core) := Or.inr rfl
theorem OpcodeMap.dumpWrite (core : Nat) : OpcodeMap.Statement (.dumpWrite core) := Or.inr rfl
theorem OpcodeMap.frz (core value : Nat) : OpcodeMap.Statement (.frz core value) := Or.inr rfl
theorem OpcodeMap.clr (core : Nat) : OpcodeMap.Statement (.clr core) := Or.inr rfl
theorem OpcodeMap.replayAccessRelease (id : Nat) : OpcodeMap.Statement (.replayAccessRelease id) := Or.inr rfl
theorem OpcodeMap.errorCountClear (stack : Nat) : OpcodeMap.Statement (.errorCountClear stack) := Or.inr rfl
theorem OpcodeMap.functionLevelReset (fn : Nat) : OpcodeMap.Statement (.functionLevelReset fn) := Or.inr rfl
theorem OpcodeMap.idleTimerExpiry : OpcodeMap.Statement .idleTimerExpiry := Or.inr rfl
theorem OpcodeMap.powerEntryComplete : OpcodeMap.Statement .powerEntryComplete := Or.inr rfl
theorem OpcodeMap.wake : OpcodeMap.Statement .wake := Or.inr rfl
theorem OpcodeMap.packageWakeEvent : OpcodeMap.Statement .packageWakeEvent := Or.inr rfl
theorem OpcodeMap.powerExitComplete : OpcodeMap.Statement .powerExitComplete := Or.inr rfl
theorem OpcodeMap.incomingLaunoRequest (addr : Nat) (write : Bool) (data : List Byte) : OpcodeMap.Statement (.incomingLaunoRequest addr write data) := Or.inr rfl
theorem OpcodeMap.hostDeviceMemoryAccess (addr : Nat) (write : Bool) (data : List Byte) : OpcodeMap.Statement (.hostDeviceMemoryAccess addr write data) := Or.inr rfl
theorem OpcodeMap.queueRegisterWrite (queue off value : Nat) : OpcodeMap.Statement (.queueRegisterWrite queue off value) := Or.inr rfl
theorem OpcodeMap.consWrite (value : Nat) : OpcodeMap.Statement (.consWrite value) := Or.inr rfl
theorem OpcodeMap.lcpWrite (value : Nat) : OpcodeMap.Statement (.lcpWrite value) := Or.inr rfl
theorem OpcodeMap.homeAcknowledgement (id unit : Nat) : OpcodeMap.Statement (.homeAcknowledgement id unit) := Or.inr rfl
theorem OpcodeMap.tlbAcknowledgement (id : Nat) : OpcodeMap.Statement (.tlbAcknowledgement id) := Or.inr rfl
theorem OpcodeMap.lastLevelTlbLookup (core asid va : Nat) : OpcodeMap.Statement (.lastLevelTlbLookup core asid va) := Or.inr rfl
theorem OpcodeMap.destinationLinesHeldInG (team crew lane : Nat) : OpcodeMap.Statement (.destinationLinesHeldInG team crew lane) := Or.inr rfl
theorem OpcodeMap.getVersion (fn : Nat) : OpcodeMap.Statement (.getVersion fn) := Or.inr rfl
theorem OpcodeMap.getCapabilities (fn : Nat) : OpcodeMap.Statement (.getCapabilities fn) := Or.inr rfl
theorem OpcodeMap.negotiateAlgorithms (fn : Nat) : OpcodeMap.Statement (.negotiateAlgorithms fn) := Or.inr rfl
theorem OpcodeMap.getDigests (fn : Nat) : OpcodeMap.Statement (.getDigests fn) := Or.inr rfl
theorem OpcodeMap.getCertificate (fn : Nat) : OpcodeMap.Statement (.getCertificate fn) := Or.inr rfl
theorem OpcodeMap.challenge (fn nonce : Nat) : OpcodeMap.Statement (.challenge fn nonce) := Or.inr rfl
theorem OpcodeMap.getMeasurements (fn index : Nat) : OpcodeMap.Statement (.getMeasurements fn index) := Or.inr rfl
theorem OpcodeMap.keyExchange (fn nonce : Nat) : OpcodeMap.Statement (.keyExchange fn nonce) := Or.inr rfl
theorem OpcodeMap.finish (fn : Nat) : OpcodeMap.Statement (.finish fn) := Or.inr rfl
theorem OpcodeMap.heartbeat (fn : Nat) : OpcodeMap.Statement (.heartbeat fn) := Or.inr rfl
theorem OpcodeMap.keyUpdate (fn : Nat) : OpcodeMap.Statement (.keyUpdate fn) := Or.inr rfl
theorem OpcodeMap.endSession (fn : Nat) : OpcodeMap.Statement (.endSession fn) := Or.inr rfl
theorem OpcodeMap.query (fn : Nat) : OpcodeMap.Statement (.query fn) := Or.inr rfl
theorem OpcodeMap.keyProg (fn stream key : Nat) : OpcodeMap.Statement (.keyProg fn stream key) := Or.inr rfl
theorem OpcodeMap.kSetGo (fn stream : Nat) : OpcodeMap.Statement (.kSetGo fn stream) := Or.inr rfl
theorem OpcodeMap.kSetStop (fn stream : Nat) : OpcodeMap.Statement (.kSetStop fn stream) := Or.inr rfl
theorem OpcodeMap.getTdispVersion (fn : Nat) : OpcodeMap.Statement (.getTdispVersion fn) := Or.inr rfl
theorem OpcodeMap.getTdispCapabilities (fn : Nat) : OpcodeMap.Statement (.getTdispCapabilities fn) := Or.inr rfl
theorem OpcodeMap.lockInterfaceRequest (fn : Nat) : OpcodeMap.Statement (.lockInterfaceRequest fn) := Or.inr rfl
theorem OpcodeMap.getDeviceInterfaceReport (fn : Nat) : OpcodeMap.Statement (.getDeviceInterfaceReport fn) := Or.inr rfl
theorem OpcodeMap.getDeviceInterfaceState (fn : Nat) : OpcodeMap.Statement (.getDeviceInterfaceState fn) := Or.inr rfl
theorem OpcodeMap.startInterfaceRequest (fn : Nat) : OpcodeMap.Statement (.startInterfaceRequest fn) := Or.inr rfl
theorem OpcodeMap.stopInterfaceRequest (fn : Nat) : OpcodeMap.Statement (.stopInterfaceRequest fn) := Or.inr rfl
theorem OpcodeMap.unsupportedRequest (fn : Nat) : OpcodeMap.Statement (.unsupportedRequest fn) := Or.inr rfl
theorem OpcodeMap.bringupGo (untrained : Nat) : OpcodeMap.Statement (.bringupGo untrained) := Or.inr rfl
theorem OpcodeMap.towerTempPoll (tower : Nat) (temps : List Nat) : OpcodeMap.Statement (.towerTempPoll tower temps) := Or.inr rfl
theorem OpcodeMap.limitWrite (die value : Nat) : OpcodeMap.Statement (.limitWrite die value) := Or.inr rfl
theorem OpcodeMap.hltWrite (value : Nat) : OpcodeMap.Statement (.hltWrite value) := Or.inr rfl
theorem OpcodeMap.coreFailure (core : Nat) : OpcodeMap.Statement (.coreFailure core) := Or.inr rfl

end Sys2Proof.Laws
end

