-- ==== Sys2Proof/Laws/State.lean ====
section
/-! SUPPORT. Each named update of a state, a crew and a thread, field by field: what it changes and that it leaves every other field
as it was. -/
namespace Sys2Proof.Machine


@[simp] theorem State.modCrew_cycle (s : State) (k : Nat) (f : Crew → Crew) : (s.modCrew k f).cycle = s.cycle := rfl
@[simp] theorem State.modCrew_agenda (s : State) (k : Nat) (f : Crew → Crew) : (s.modCrew k f).agenda = s.agenda := rfl
@[simp] theorem State.modCrew_strikes (s : State) (k : Nat) (f : Crew → Crew) : (s.modCrew k f).strikes = s.strikes := rfl
@[simp] theorem State.modCrew_slotsUsed (s : State) (k : Nat) (f : Crew → Crew) : (s.modCrew k f).slotsUsed = s.slotsUsed := rfl
@[simp] theorem State.modCrew_regrouped (s : State) (k : Nat) (f : Crew → Crew) : (s.modCrew k f).regrouped = s.regrouped := rfl
@[simp] theorem State.modCrew_closing (s : State) (k : Nat) (f : Crew → Crew) : (s.modCrew k f).closing = s.closing := rfl
@[simp] theorem State.modCrew_freeCtr (s : State) (k : Nat) (f : Crew → Crew) : (s.modCrew k f).freeCtr = s.freeCtr := rfl
@[simp] theorem State.modCrew_nextId (s : State) (k : Nat) (f : Crew → Crew) : (s.modCrew k f).nextId = s.nextId := rfl
@[simp] theorem State.modCrew_cur (s : State) (k : Nat) (f : Crew → Crew) : (s.modCrew k f).cur = s.cur := rfl
@[simp] theorem State.modCrew_crews (s : State) (k : Nat) (f : Crew → Crew) : (s.modCrew k f).crews = s.crews.modify k f := rfl
@[simp] theorem State.modCrew_teams (s : State) (k : Nat) (f : Crew → Crew) : (s.modCrew k f).teams = s.teams := rfl
@[simp] theorem State.modCrew_saved (s : State) (k : Nat) (f : Crew → Crew) : (s.modCrew k f).saved = s.saved := rfl
@[simp] theorem State.modCrew_accs (s : State) (k : Nat) (f : Crew → Crew) : (s.modCrew k f).accs = s.accs := rfl
@[simp] theorem State.modCrew_accq (s : State) (k : Nat) (f : Crew → Crew) : (s.modCrew k f).accq = s.accq := rfl
@[simp] theorem State.modCrew_copies (s : State) (k : Nat) (f : Crew → Crew) : (s.modCrew k f).copies = s.copies := rfl
@[simp] theorem State.modCrew_dictlds (s : State) (k : Nat) (f : Crew → Crew) : (s.modCrew k f).dictlds = s.dictlds := rfl
@[simp] theorem State.modCrew_dicts (s : State) (k : Nat) (f : Crew → Crew) : (s.modCrew k f).dicts = s.dicts := rfl
@[simp] theorem State.modCrew_drains (s : State) (k : Nat) (f : Crew → Crew) : (s.modCrew k f).drains = s.drains := rfl
@[simp] theorem State.modCrew_store (s : State) (k : Nat) (f : Crew → Crew) : (s.modCrew k f).store = s.store := rfl
@[simp] theorem State.modCrew_ctxs (s : State) (k : Nat) (f : Crew → Crew) : (s.modCrew k f).ctxs = s.ctxs := rfl
@[simp] theorem State.modCrew_gates (s : State) (k : Nat) (f : Crew → Crew) : (s.modCrew k f).gates = s.gates := rfl
@[simp] theorem State.modCrew_gtables (s : State) (k : Nat) (f : Crew → Crew) : (s.modCrew k f).gtables = s.gtables := rfl
@[simp] theorem State.modCrew_cp (s : State) (k : Nat) (f : Crew → Crew) : (s.modCrew k f).cp = s.cp := rfl
@[simp] theorem State.modCrew_pkg (s : State) (k : Nat) (f : Crew → Crew) : (s.modCrew k f).pkg = s.pkg := rfl
@[simp] theorem State.modCrew_dbg (s : State) (k : Nat) (f : Crew → Crew) : (s.modCrew k f).dbg = s.dbg := rfl
@[simp] theorem State.modCrew_rr (s : State) (k : Nat) (f : Crew → Crew) : (s.modCrew k f).rr = s.rr := rfl
@[simp] theorem State.modCrew_host (s : State) (k : Nat) (f : Crew → Crew) : (s.modCrew k f).host = s.host := rfl

@[simp] theorem State.modThread_cycle (s : State) (k l : Nat) (f : Thread → Thread) : (s.modThread k l f).cycle = s.cycle := rfl
@[simp] theorem State.modThread_agenda (s : State) (k l : Nat) (f : Thread → Thread) : (s.modThread k l f).agenda = s.agenda := rfl
@[simp] theorem State.modThread_strikes (s : State) (k l : Nat) (f : Thread → Thread) : (s.modThread k l f).strikes = s.strikes := rfl
@[simp] theorem State.modThread_slotsUsed (s : State) (k l : Nat) (f : Thread → Thread) : (s.modThread k l f).slotsUsed = s.slotsUsed := rfl
@[simp] theorem State.modThread_regrouped (s : State) (k l : Nat) (f : Thread → Thread) : (s.modThread k l f).regrouped = s.regrouped := rfl
@[simp] theorem State.modThread_closing (s : State) (k l : Nat) (f : Thread → Thread) : (s.modThread k l f).closing = s.closing := rfl
@[simp] theorem State.modThread_freeCtr (s : State) (k l : Nat) (f : Thread → Thread) : (s.modThread k l f).freeCtr = s.freeCtr := rfl
@[simp] theorem State.modThread_nextId (s : State) (k l : Nat) (f : Thread → Thread) : (s.modThread k l f).nextId = s.nextId := rfl
@[simp] theorem State.modThread_cur (s : State) (k l : Nat) (f : Thread → Thread) : (s.modThread k l f).cur = s.cur := rfl
@[simp] theorem State.modThread_crews (s : State) (k l : Nat) (f : Thread → Thread) : (s.modThread k l f).crews = s.crews.modify k (fun c => c.modThread l f) := rfl
@[simp] theorem State.modThread_teams (s : State) (k l : Nat) (f : Thread → Thread) : (s.modThread k l f).teams = s.teams := rfl
@[simp] theorem State.modThread_saved (s : State) (k l : Nat) (f : Thread → Thread) : (s.modThread k l f).saved = s.saved := rfl
@[simp] theorem State.modThread_accs (s : State) (k l : Nat) (f : Thread → Thread) : (s.modThread k l f).accs = s.accs := rfl
@[simp] theorem State.modThread_accq (s : State) (k l : Nat) (f : Thread → Thread) : (s.modThread k l f).accq = s.accq := rfl
@[simp] theorem State.modThread_copies (s : State) (k l : Nat) (f : Thread → Thread) : (s.modThread k l f).copies = s.copies := rfl
@[simp] theorem State.modThread_dictlds (s : State) (k l : Nat) (f : Thread → Thread) : (s.modThread k l f).dictlds = s.dictlds := rfl
@[simp] theorem State.modThread_dicts (s : State) (k l : Nat) (f : Thread → Thread) : (s.modThread k l f).dicts = s.dicts := rfl
@[simp] theorem State.modThread_drains (s : State) (k l : Nat) (f : Thread → Thread) : (s.modThread k l f).drains = s.drains := rfl
@[simp] theorem State.modThread_store (s : State) (k l : Nat) (f : Thread → Thread) : (s.modThread k l f).store = s.store := rfl
@[simp] theorem State.modThread_ctxs (s : State) (k l : Nat) (f : Thread → Thread) : (s.modThread k l f).ctxs = s.ctxs := rfl
@[simp] theorem State.modThread_gates (s : State) (k l : Nat) (f : Thread → Thread) : (s.modThread k l f).gates = s.gates := rfl
@[simp] theorem State.modThread_gtables (s : State) (k l : Nat) (f : Thread → Thread) : (s.modThread k l f).gtables = s.gtables := rfl
@[simp] theorem State.modThread_cp (s : State) (k l : Nat) (f : Thread → Thread) : (s.modThread k l f).cp = s.cp := rfl
@[simp] theorem State.modThread_pkg (s : State) (k l : Nat) (f : Thread → Thread) : (s.modThread k l f).pkg = s.pkg := rfl
@[simp] theorem State.modThread_dbg (s : State) (k l : Nat) (f : Thread → Thread) : (s.modThread k l f).dbg = s.dbg := rfl
@[simp] theorem State.modThread_rr (s : State) (k l : Nat) (f : Thread → Thread) : (s.modThread k l f).rr = s.rr := rfl
@[simp] theorem State.modThread_host (s : State) (k l : Nat) (f : Thread → Thread) : (s.modThread k l f).host = s.host := rfl

@[simp] theorem State.modTeam_cycle (s : State) (n : Nat) (f : Team → Team) : (s.modTeam n f).cycle = s.cycle := rfl
@[simp] theorem State.modTeam_agenda (s : State) (n : Nat) (f : Team → Team) : (s.modTeam n f).agenda = s.agenda := rfl
@[simp] theorem State.modTeam_strikes (s : State) (n : Nat) (f : Team → Team) : (s.modTeam n f).strikes = s.strikes := rfl
@[simp] theorem State.modTeam_slotsUsed (s : State) (n : Nat) (f : Team → Team) : (s.modTeam n f).slotsUsed = s.slotsUsed := rfl
@[simp] theorem State.modTeam_regrouped (s : State) (n : Nat) (f : Team → Team) : (s.modTeam n f).regrouped = s.regrouped := rfl
@[simp] theorem State.modTeam_closing (s : State) (n : Nat) (f : Team → Team) : (s.modTeam n f).closing = s.closing := rfl
@[simp] theorem State.modTeam_freeCtr (s : State) (n : Nat) (f : Team → Team) : (s.modTeam n f).freeCtr = s.freeCtr := rfl
@[simp] theorem State.modTeam_nextId (s : State) (n : Nat) (f : Team → Team) : (s.modTeam n f).nextId = s.nextId := rfl
@[simp] theorem State.modTeam_cur (s : State) (n : Nat) (f : Team → Team) : (s.modTeam n f).cur = s.cur := rfl
@[simp] theorem State.modTeam_crews (s : State) (n : Nat) (f : Team → Team) : (s.modTeam n f).crews = s.crews := rfl
@[simp] theorem State.modTeam_teams (s : State) (n : Nat) (f : Team → Team) : (s.modTeam n f).teams = s.teams.map (fun t => if t.serial == n then f t else t) := rfl
@[simp] theorem State.modTeam_saved (s : State) (n : Nat) (f : Team → Team) : (s.modTeam n f).saved = s.saved := rfl
@[simp] theorem State.modTeam_accs (s : State) (n : Nat) (f : Team → Team) : (s.modTeam n f).accs = s.accs := rfl
@[simp] theorem State.modTeam_accq (s : State) (n : Nat) (f : Team → Team) : (s.modTeam n f).accq = s.accq := rfl
@[simp] theorem State.modTeam_copies (s : State) (n : Nat) (f : Team → Team) : (s.modTeam n f).copies = s.copies := rfl
@[simp] theorem State.modTeam_dictlds (s : State) (n : Nat) (f : Team → Team) : (s.modTeam n f).dictlds = s.dictlds := rfl
@[simp] theorem State.modTeam_dicts (s : State) (n : Nat) (f : Team → Team) : (s.modTeam n f).dicts = s.dicts := rfl
@[simp] theorem State.modTeam_drains (s : State) (n : Nat) (f : Team → Team) : (s.modTeam n f).drains = s.drains := rfl
@[simp] theorem State.modTeam_store (s : State) (n : Nat) (f : Team → Team) : (s.modTeam n f).store = s.store := rfl
@[simp] theorem State.modTeam_ctxs (s : State) (n : Nat) (f : Team → Team) : (s.modTeam n f).ctxs = s.ctxs := rfl
@[simp] theorem State.modTeam_gates (s : State) (n : Nat) (f : Team → Team) : (s.modTeam n f).gates = s.gates := rfl
@[simp] theorem State.modTeam_gtables (s : State) (n : Nat) (f : Team → Team) : (s.modTeam n f).gtables = s.gtables := rfl
@[simp] theorem State.modTeam_cp (s : State) (n : Nat) (f : Team → Team) : (s.modTeam n f).cp = s.cp := rfl
@[simp] theorem State.modTeam_pkg (s : State) (n : Nat) (f : Team → Team) : (s.modTeam n f).pkg = s.pkg := rfl
@[simp] theorem State.modTeam_dbg (s : State) (n : Nat) (f : Team → Team) : (s.modTeam n f).dbg = s.dbg := rfl
@[simp] theorem State.modTeam_rr (s : State) (n : Nat) (f : Team → Team) : (s.modTeam n f).rr = s.rr := rfl
@[simp] theorem State.modTeam_host (s : State) (n : Nat) (f : Team → Team) : (s.modTeam n f).host = s.host := rfl

@[simp] theorem State.modCtx_cycle (s : State) (n : Nat) (f : Ctx → Ctx) : (s.modCtx n f).cycle = s.cycle := rfl
@[simp] theorem State.modCtx_agenda (s : State) (n : Nat) (f : Ctx → Ctx) : (s.modCtx n f).agenda = s.agenda := rfl
@[simp] theorem State.modCtx_strikes (s : State) (n : Nat) (f : Ctx → Ctx) : (s.modCtx n f).strikes = s.strikes := rfl
@[simp] theorem State.modCtx_slotsUsed (s : State) (n : Nat) (f : Ctx → Ctx) : (s.modCtx n f).slotsUsed = s.slotsUsed := rfl
@[simp] theorem State.modCtx_regrouped (s : State) (n : Nat) (f : Ctx → Ctx) : (s.modCtx n f).regrouped = s.regrouped := rfl
@[simp] theorem State.modCtx_closing (s : State) (n : Nat) (f : Ctx → Ctx) : (s.modCtx n f).closing = s.closing := rfl
@[simp] theorem State.modCtx_freeCtr (s : State) (n : Nat) (f : Ctx → Ctx) : (s.modCtx n f).freeCtr = s.freeCtr := rfl
@[simp] theorem State.modCtx_nextId (s : State) (n : Nat) (f : Ctx → Ctx) : (s.modCtx n f).nextId = s.nextId := rfl
@[simp] theorem State.modCtx_cur (s : State) (n : Nat) (f : Ctx → Ctx) : (s.modCtx n f).cur = s.cur := rfl
@[simp] theorem State.modCtx_crews (s : State) (n : Nat) (f : Ctx → Ctx) : (s.modCtx n f).crews = s.crews := rfl
@[simp] theorem State.modCtx_teams (s : State) (n : Nat) (f : Ctx → Ctx) : (s.modCtx n f).teams = s.teams := rfl
@[simp] theorem State.modCtx_saved (s : State) (n : Nat) (f : Ctx → Ctx) : (s.modCtx n f).saved = s.saved := rfl
@[simp] theorem State.modCtx_accs (s : State) (n : Nat) (f : Ctx → Ctx) : (s.modCtx n f).accs = s.accs := rfl
@[simp] theorem State.modCtx_accq (s : State) (n : Nat) (f : Ctx → Ctx) : (s.modCtx n f).accq = s.accq := rfl
@[simp] theorem State.modCtx_copies (s : State) (n : Nat) (f : Ctx → Ctx) : (s.modCtx n f).copies = s.copies := rfl
@[simp] theorem State.modCtx_dictlds (s : State) (n : Nat) (f : Ctx → Ctx) : (s.modCtx n f).dictlds = s.dictlds := rfl
@[simp] theorem State.modCtx_dicts (s : State) (n : Nat) (f : Ctx → Ctx) : (s.modCtx n f).dicts = s.dicts := rfl
@[simp] theorem State.modCtx_drains (s : State) (n : Nat) (f : Ctx → Ctx) : (s.modCtx n f).drains = s.drains := rfl
@[simp] theorem State.modCtx_store (s : State) (n : Nat) (f : Ctx → Ctx) : (s.modCtx n f).store = s.store := rfl
@[simp] theorem State.modCtx_ctxs (s : State) (n : Nat) (f : Ctx → Ctx) : (s.modCtx n f).ctxs = s.ctxs.map (fun x => if x.id == n then f x else x) := rfl
@[simp] theorem State.modCtx_gates (s : State) (n : Nat) (f : Ctx → Ctx) : (s.modCtx n f).gates = s.gates := rfl
@[simp] theorem State.modCtx_gtables (s : State) (n : Nat) (f : Ctx → Ctx) : (s.modCtx n f).gtables = s.gtables := rfl
@[simp] theorem State.modCtx_cp (s : State) (n : Nat) (f : Ctx → Ctx) : (s.modCtx n f).cp = s.cp := rfl
@[simp] theorem State.modCtx_pkg (s : State) (n : Nat) (f : Ctx → Ctx) : (s.modCtx n f).pkg = s.pkg := rfl
@[simp] theorem State.modCtx_dbg (s : State) (n : Nat) (f : Ctx → Ctx) : (s.modCtx n f).dbg = s.dbg := rfl
@[simp] theorem State.modCtx_rr (s : State) (n : Nat) (f : Ctx → Ctx) : (s.modCtx n f).rr = s.rr := rfl
@[simp] theorem State.modCtx_host (s : State) (n : Nat) (f : Ctx → Ctx) : (s.modCtx n f).host = s.host := rfl

@[simp] theorem State.setEngine_cycle (s : State) (e : QEngine) : (s.setEngine e).cycle = s.cycle := rfl
@[simp] theorem State.setEngine_agenda (s : State) (e : QEngine) : (s.setEngine e).agenda = s.agenda := rfl
@[simp] theorem State.setEngine_strikes (s : State) (e : QEngine) : (s.setEngine e).strikes = s.strikes := rfl
@[simp] theorem State.setEngine_slotsUsed (s : State) (e : QEngine) : (s.setEngine e).slotsUsed = s.slotsUsed := rfl
@[simp] theorem State.setEngine_regrouped (s : State) (e : QEngine) : (s.setEngine e).regrouped = s.regrouped := rfl
@[simp] theorem State.setEngine_closing (s : State) (e : QEngine) : (s.setEngine e).closing = s.closing := rfl
@[simp] theorem State.setEngine_freeCtr (s : State) (e : QEngine) : (s.setEngine e).freeCtr = s.freeCtr := rfl
@[simp] theorem State.setEngine_nextId (s : State) (e : QEngine) : (s.setEngine e).nextId = s.nextId := rfl
@[simp] theorem State.setEngine_cur (s : State) (e : QEngine) : (s.setEngine e).cur = s.cur := rfl
@[simp] theorem State.setEngine_crews (s : State) (e : QEngine) : (s.setEngine e).crews = s.crews := rfl
@[simp] theorem State.setEngine_teams (s : State) (e : QEngine) : (s.setEngine e).teams = s.teams := rfl
@[simp] theorem State.setEngine_saved (s : State) (e : QEngine) : (s.setEngine e).saved = s.saved := rfl
@[simp] theorem State.setEngine_accs (s : State) (e : QEngine) : (s.setEngine e).accs = s.accs := rfl
@[simp] theorem State.setEngine_accq (s : State) (e : QEngine) : (s.setEngine e).accq = s.accq := rfl
@[simp] theorem State.setEngine_copies (s : State) (e : QEngine) : (s.setEngine e).copies = s.copies := rfl
@[simp] theorem State.setEngine_dictlds (s : State) (e : QEngine) : (s.setEngine e).dictlds = s.dictlds := rfl
@[simp] theorem State.setEngine_dicts (s : State) (e : QEngine) : (s.setEngine e).dicts = s.dicts := rfl
@[simp] theorem State.setEngine_drains (s : State) (e : QEngine) : (s.setEngine e).drains = s.drains := rfl
@[simp] theorem State.setEngine_store (s : State) (e : QEngine) : (s.setEngine e).store = s.store := rfl
@[simp] theorem State.setEngine_ctxs (s : State) (e : QEngine) : (s.setEngine e).ctxs = s.ctxs := rfl
@[simp] theorem State.setEngine_gates (s : State) (e : QEngine) : (s.setEngine e).gates = s.gates := rfl
@[simp] theorem State.setEngine_gtables (s : State) (e : QEngine) : (s.setEngine e).gtables = s.gtables := rfl
@[simp] theorem State.setEngine_cp (s : State) (e : QEngine) : (s.setEngine e).cp = { s.cp with engines := e :: s.cp.engines.filter (fun x => x.core != e.core) } := rfl
@[simp] theorem State.setEngine_pkg (s : State) (e : QEngine) : (s.setEngine e).pkg = s.pkg := rfl
@[simp] theorem State.setEngine_dbg (s : State) (e : QEngine) : (s.setEngine e).dbg = s.dbg := rfl
@[simp] theorem State.setEngine_rr (s : State) (e : QEngine) : (s.setEngine e).rr = s.rr := rfl
@[simp] theorem State.setEngine_host (s : State) (e : QEngine) : (s.setEngine e).host = s.host := rfl

@[simp] theorem State.setDebug_cycle (s : State) (d : Debug) : (s.setDebug d).cycle = s.cycle := rfl
@[simp] theorem State.setDebug_agenda (s : State) (d : Debug) : (s.setDebug d).agenda = s.agenda := rfl
@[simp] theorem State.setDebug_strikes (s : State) (d : Debug) : (s.setDebug d).strikes = s.strikes := rfl
@[simp] theorem State.setDebug_slotsUsed (s : State) (d : Debug) : (s.setDebug d).slotsUsed = s.slotsUsed := rfl
@[simp] theorem State.setDebug_regrouped (s : State) (d : Debug) : (s.setDebug d).regrouped = s.regrouped := rfl
@[simp] theorem State.setDebug_closing (s : State) (d : Debug) : (s.setDebug d).closing = s.closing := rfl
@[simp] theorem State.setDebug_freeCtr (s : State) (d : Debug) : (s.setDebug d).freeCtr = s.freeCtr := rfl
@[simp] theorem State.setDebug_nextId (s : State) (d : Debug) : (s.setDebug d).nextId = s.nextId := rfl
@[simp] theorem State.setDebug_cur (s : State) (d : Debug) : (s.setDebug d).cur = s.cur := rfl
@[simp] theorem State.setDebug_crews (s : State) (d : Debug) : (s.setDebug d).crews = s.crews := rfl
@[simp] theorem State.setDebug_teams (s : State) (d : Debug) : (s.setDebug d).teams = s.teams := rfl
@[simp] theorem State.setDebug_saved (s : State) (d : Debug) : (s.setDebug d).saved = s.saved := rfl
@[simp] theorem State.setDebug_accs (s : State) (d : Debug) : (s.setDebug d).accs = s.accs := rfl
@[simp] theorem State.setDebug_accq (s : State) (d : Debug) : (s.setDebug d).accq = s.accq := rfl
@[simp] theorem State.setDebug_copies (s : State) (d : Debug) : (s.setDebug d).copies = s.copies := rfl
@[simp] theorem State.setDebug_dictlds (s : State) (d : Debug) : (s.setDebug d).dictlds = s.dictlds := rfl
@[simp] theorem State.setDebug_dicts (s : State) (d : Debug) : (s.setDebug d).dicts = s.dicts := rfl
@[simp] theorem State.setDebug_drains (s : State) (d : Debug) : (s.setDebug d).drains = s.drains := rfl
@[simp] theorem State.setDebug_store (s : State) (d : Debug) : (s.setDebug d).store = s.store := rfl
@[simp] theorem State.setDebug_ctxs (s : State) (d : Debug) : (s.setDebug d).ctxs = s.ctxs := rfl
@[simp] theorem State.setDebug_gates (s : State) (d : Debug) : (s.setDebug d).gates = s.gates := rfl
@[simp] theorem State.setDebug_gtables (s : State) (d : Debug) : (s.setDebug d).gtables = s.gtables := rfl
@[simp] theorem State.setDebug_cp (s : State) (d : Debug) : (s.setDebug d).cp = s.cp := rfl
@[simp] theorem State.setDebug_pkg (s : State) (d : Debug) : (s.setDebug d).pkg = s.pkg := rfl
@[simp] theorem State.setDebug_dbg (s : State) (d : Debug) : (s.setDebug d).dbg = d :: s.dbg.filter (fun x => x.core != d.core) := rfl
@[simp] theorem State.setDebug_rr (s : State) (d : Debug) : (s.setDebug d).rr = s.rr := rfl
@[simp] theorem State.setDebug_host (s : State) (d : Debug) : (s.setDebug d).host = s.host := rfl

@[simp] theorem State.modSched_cycle (s : State) (core k : Nat) (f : Sched → Sched) : (s.modSched core k f).cycle = s.cycle := rfl
@[simp] theorem State.modSched_agenda (s : State) (core k : Nat) (f : Sched → Sched) : (s.modSched core k f).agenda = s.agenda := rfl
@[simp] theorem State.modSched_strikes (s : State) (core k : Nat) (f : Sched → Sched) : (s.modSched core k f).strikes = s.strikes := rfl
@[simp] theorem State.modSched_slotsUsed (s : State) (core k : Nat) (f : Sched → Sched) : (s.modSched core k f).slotsUsed = s.slotsUsed := rfl
@[simp] theorem State.modSched_regrouped (s : State) (core k : Nat) (f : Sched → Sched) : (s.modSched core k f).regrouped = s.regrouped := rfl
@[simp] theorem State.modSched_closing (s : State) (core k : Nat) (f : Sched → Sched) : (s.modSched core k f).closing = s.closing := rfl
@[simp] theorem State.modSched_freeCtr (s : State) (core k : Nat) (f : Sched → Sched) : (s.modSched core k f).freeCtr = s.freeCtr := rfl
@[simp] theorem State.modSched_nextId (s : State) (core k : Nat) (f : Sched → Sched) : (s.modSched core k f).nextId = s.nextId := rfl
@[simp] theorem State.modSched_cur (s : State) (core k : Nat) (f : Sched → Sched) : (s.modSched core k f).cur = s.cur := rfl
@[simp] theorem State.modSched_crews (s : State) (core k : Nat) (f : Sched → Sched) : (s.modSched core k f).crews = s.crews := rfl
@[simp] theorem State.modSched_teams (s : State) (core k : Nat) (f : Sched → Sched) : (s.modSched core k f).teams = s.teams := rfl
@[simp] theorem State.modSched_saved (s : State) (core k : Nat) (f : Sched → Sched) : (s.modSched core k f).saved = s.saved := rfl
@[simp] theorem State.modSched_accs (s : State) (core k : Nat) (f : Sched → Sched) : (s.modSched core k f).accs = s.accs := rfl
@[simp] theorem State.modSched_accq (s : State) (core k : Nat) (f : Sched → Sched) : (s.modSched core k f).accq = s.accq := rfl
@[simp] theorem State.modSched_copies (s : State) (core k : Nat) (f : Sched → Sched) : (s.modSched core k f).copies = s.copies := rfl
@[simp] theorem State.modSched_dictlds (s : State) (core k : Nat) (f : Sched → Sched) : (s.modSched core k f).dictlds = s.dictlds := rfl
@[simp] theorem State.modSched_dicts (s : State) (core k : Nat) (f : Sched → Sched) : (s.modSched core k f).dicts = s.dicts := rfl
@[simp] theorem State.modSched_drains (s : State) (core k : Nat) (f : Sched → Sched) : (s.modSched core k f).drains = s.drains := rfl
@[simp] theorem State.modSched_store (s : State) (core k : Nat) (f : Sched → Sched) : (s.modSched core k f).store = s.store := rfl
@[simp] theorem State.modSched_ctxs (s : State) (core k : Nat) (f : Sched → Sched) : (s.modSched core k f).ctxs = s.ctxs := rfl
@[simp] theorem State.modSched_gates (s : State) (core k : Nat) (f : Sched → Sched) : (s.modSched core k f).gates = s.gates := rfl
@[simp] theorem State.modSched_gtables (s : State) (core k : Nat) (f : Sched → Sched) : (s.modSched core k f).gtables = s.gtables := rfl
@[simp] theorem State.modSched_cp (s : State) (core k : Nat) (f : Sched → Sched) : (s.modSched core k f).cp = s.cp := rfl
@[simp] theorem State.modSched_pkg (s : State) (core k : Nat) (f : Sched → Sched) : (s.modSched core k f).pkg = s.pkg := rfl
@[simp] theorem State.modSched_rr (s : State) (core k : Nat) (f : Sched → Sched) : (s.modSched core k f).rr = s.rr := rfl
@[simp] theorem State.modSched_host (s : State) (core k : Nat) (f : Sched → Sched) : (s.modSched core k f).host = s.host := rfl

@[simp] theorem State.defer_cycle (s : State) (core : Nat) (a : DumpAct) : (s.defer core a).cycle = s.cycle := rfl
@[simp] theorem State.defer_agenda (s : State) (core : Nat) (a : DumpAct) : (s.defer core a).agenda = s.agenda := rfl
@[simp] theorem State.defer_strikes (s : State) (core : Nat) (a : DumpAct) : (s.defer core a).strikes = s.strikes := rfl
@[simp] theorem State.defer_slotsUsed (s : State) (core : Nat) (a : DumpAct) : (s.defer core a).slotsUsed = s.slotsUsed := rfl
@[simp] theorem State.defer_regrouped (s : State) (core : Nat) (a : DumpAct) : (s.defer core a).regrouped = s.regrouped := rfl
@[simp] theorem State.defer_closing (s : State) (core : Nat) (a : DumpAct) : (s.defer core a).closing = s.closing := rfl
@[simp] theorem State.defer_freeCtr (s : State) (core : Nat) (a : DumpAct) : (s.defer core a).freeCtr = s.freeCtr := rfl
@[simp] theorem State.defer_nextId (s : State) (core : Nat) (a : DumpAct) : (s.defer core a).nextId = s.nextId := rfl
@[simp] theorem State.defer_cur (s : State) (core : Nat) (a : DumpAct) : (s.defer core a).cur = s.cur := rfl
@[simp] theorem State.defer_crews (s : State) (core : Nat) (a : DumpAct) : (s.defer core a).crews = s.crews := rfl
@[simp] theorem State.defer_teams (s : State) (core : Nat) (a : DumpAct) : (s.defer core a).teams = s.teams := rfl
@[simp] theorem State.defer_saved (s : State) (core : Nat) (a : DumpAct) : (s.defer core a).saved = s.saved := rfl
@[simp] theorem State.defer_accs (s : State) (core : Nat) (a : DumpAct) : (s.defer core a).accs = s.accs := rfl
@[simp] theorem State.defer_accq (s : State) (core : Nat) (a : DumpAct) : (s.defer core a).accq = s.accq := rfl
@[simp] theorem State.defer_copies (s : State) (core : Nat) (a : DumpAct) : (s.defer core a).copies = s.copies := rfl
@[simp] theorem State.defer_dictlds (s : State) (core : Nat) (a : DumpAct) : (s.defer core a).dictlds = s.dictlds := rfl
@[simp] theorem State.defer_dicts (s : State) (core : Nat) (a : DumpAct) : (s.defer core a).dicts = s.dicts := rfl
@[simp] theorem State.defer_drains (s : State) (core : Nat) (a : DumpAct) : (s.defer core a).drains = s.drains := rfl
@[simp] theorem State.defer_store (s : State) (core : Nat) (a : DumpAct) : (s.defer core a).store = s.store := rfl
@[simp] theorem State.defer_ctxs (s : State) (core : Nat) (a : DumpAct) : (s.defer core a).ctxs = s.ctxs := rfl
@[simp] theorem State.defer_gates (s : State) (core : Nat) (a : DumpAct) : (s.defer core a).gates = s.gates := rfl
@[simp] theorem State.defer_gtables (s : State) (core : Nat) (a : DumpAct) : (s.defer core a).gtables = s.gtables := rfl
@[simp] theorem State.defer_cp (s : State) (core : Nat) (a : DumpAct) : (s.defer core a).cp = s.cp := rfl
@[simp] theorem State.defer_pkg (s : State) (core : Nat) (a : DumpAct) : (s.defer core a).pkg = s.pkg := rfl
@[simp] theorem State.defer_rr (s : State) (core : Nat) (a : DumpAct) : (s.defer core a).rr = s.rr := rfl
@[simp] theorem State.defer_host (s : State) (core : Nat) (a : DumpAct) : (s.defer core a).host = s.host := rfl

@[simp] theorem State.parkCrew_cycle (s : State) (k : Nat) (p : ParkCause) : (s.parkCrew k p).cycle = s.cycle := rfl
@[simp] theorem State.parkCrew_agenda (s : State) (k : Nat) (p : ParkCause) : (s.parkCrew k p).agenda = s.agenda := rfl
@[simp] theorem State.parkCrew_strikes (s : State) (k : Nat) (p : ParkCause) : (s.parkCrew k p).strikes = s.strikes := rfl
@[simp] theorem State.parkCrew_slotsUsed (s : State) (k : Nat) (p : ParkCause) : (s.parkCrew k p).slotsUsed = s.slotsUsed := rfl
@[simp] theorem State.parkCrew_regrouped (s : State) (k : Nat) (p : ParkCause) : (s.parkCrew k p).regrouped = s.regrouped := rfl
@[simp] theorem State.parkCrew_closing (s : State) (k : Nat) (p : ParkCause) : (s.parkCrew k p).closing = s.closing := rfl
@[simp] theorem State.parkCrew_freeCtr (s : State) (k : Nat) (p : ParkCause) : (s.parkCrew k p).freeCtr = s.freeCtr := rfl
@[simp] theorem State.parkCrew_nextId (s : State) (k : Nat) (p : ParkCause) : (s.parkCrew k p).nextId = s.nextId := rfl
@[simp] theorem State.parkCrew_cur (s : State) (k : Nat) (p : ParkCause) : (s.parkCrew k p).cur = s.cur := rfl
@[simp] theorem State.parkCrew_teams (s : State) (k : Nat) (p : ParkCause) : (s.parkCrew k p).teams = s.teams := rfl
@[simp] theorem State.parkCrew_saved (s : State) (k : Nat) (p : ParkCause) : (s.parkCrew k p).saved = s.saved := rfl
@[simp] theorem State.parkCrew_accs (s : State) (k : Nat) (p : ParkCause) : (s.parkCrew k p).accs = s.accs := rfl
@[simp] theorem State.parkCrew_accq (s : State) (k : Nat) (p : ParkCause) : (s.parkCrew k p).accq = s.accq := rfl
@[simp] theorem State.parkCrew_copies (s : State) (k : Nat) (p : ParkCause) : (s.parkCrew k p).copies = s.copies := rfl
@[simp] theorem State.parkCrew_dictlds (s : State) (k : Nat) (p : ParkCause) : (s.parkCrew k p).dictlds = s.dictlds := rfl
@[simp] theorem State.parkCrew_dicts (s : State) (k : Nat) (p : ParkCause) : (s.parkCrew k p).dicts = s.dicts := rfl
@[simp] theorem State.parkCrew_drains (s : State) (k : Nat) (p : ParkCause) : (s.parkCrew k p).drains = s.drains := rfl
@[simp] theorem State.parkCrew_store (s : State) (k : Nat) (p : ParkCause) : (s.parkCrew k p).store = s.store := rfl
@[simp] theorem State.parkCrew_ctxs (s : State) (k : Nat) (p : ParkCause) : (s.parkCrew k p).ctxs = s.ctxs := rfl
@[simp] theorem State.parkCrew_gates (s : State) (k : Nat) (p : ParkCause) : (s.parkCrew k p).gates = s.gates := rfl
@[simp] theorem State.parkCrew_gtables (s : State) (k : Nat) (p : ParkCause) : (s.parkCrew k p).gtables = s.gtables := rfl
@[simp] theorem State.parkCrew_cp (s : State) (k : Nat) (p : ParkCause) : (s.parkCrew k p).cp = s.cp := rfl
@[simp] theorem State.parkCrew_pkg (s : State) (k : Nat) (p : ParkCause) : (s.parkCrew k p).pkg = s.pkg := rfl
@[simp] theorem State.parkCrew_dbg (s : State) (k : Nat) (p : ParkCause) : (s.parkCrew k p).dbg = s.dbg := rfl
@[simp] theorem State.parkCrew_rr (s : State) (k : Nat) (p : ParkCause) : (s.parkCrew k p).rr = s.rr := rfl
@[simp] theorem State.parkCrew_host (s : State) (k : Nat) (p : ParkCause) : (s.parkCrew k p).host = s.host := rfl

@[simp] theorem State.modAcc_cycle (s : State) (id : Nat) (f : Acc → Acc) : (s.modAcc id f).cycle = s.cycle := rfl
@[simp] theorem State.modAcc_agenda (s : State) (id : Nat) (f : Acc → Acc) : (s.modAcc id f).agenda = s.agenda := rfl
@[simp] theorem State.modAcc_strikes (s : State) (id : Nat) (f : Acc → Acc) : (s.modAcc id f).strikes = s.strikes := rfl
@[simp] theorem State.modAcc_slotsUsed (s : State) (id : Nat) (f : Acc → Acc) : (s.modAcc id f).slotsUsed = s.slotsUsed := rfl
@[simp] theorem State.modAcc_regrouped (s : State) (id : Nat) (f : Acc → Acc) : (s.modAcc id f).regrouped = s.regrouped := rfl
@[simp] theorem State.modAcc_closing (s : State) (id : Nat) (f : Acc → Acc) : (s.modAcc id f).closing = s.closing := rfl
@[simp] theorem State.modAcc_freeCtr (s : State) (id : Nat) (f : Acc → Acc) : (s.modAcc id f).freeCtr = s.freeCtr := rfl
@[simp] theorem State.modAcc_nextId (s : State) (id : Nat) (f : Acc → Acc) : (s.modAcc id f).nextId = s.nextId := rfl
@[simp] theorem State.modAcc_cur (s : State) (id : Nat) (f : Acc → Acc) : (s.modAcc id f).cur = s.cur := rfl
@[simp] theorem State.modAcc_crews (s : State) (id : Nat) (f : Acc → Acc) : (s.modAcc id f).crews = s.crews := rfl
@[simp] theorem State.modAcc_teams (s : State) (id : Nat) (f : Acc → Acc) : (s.modAcc id f).teams = s.teams := rfl
@[simp] theorem State.modAcc_saved (s : State) (id : Nat) (f : Acc → Acc) : (s.modAcc id f).saved = s.saved := rfl
@[simp] theorem State.modAcc_accs (s : State) (id : Nat) (f : Acc → Acc) : (s.modAcc id f).accs = s.accs.map (fun a => if a.id == id then f a else a) := rfl
@[simp] theorem State.modAcc_accq (s : State) (id : Nat) (f : Acc → Acc) : (s.modAcc id f).accq = s.accq := rfl
@[simp] theorem State.modAcc_copies (s : State) (id : Nat) (f : Acc → Acc) : (s.modAcc id f).copies = s.copies := rfl
@[simp] theorem State.modAcc_dictlds (s : State) (id : Nat) (f : Acc → Acc) : (s.modAcc id f).dictlds = s.dictlds := rfl
@[simp] theorem State.modAcc_dicts (s : State) (id : Nat) (f : Acc → Acc) : (s.modAcc id f).dicts = s.dicts := rfl
@[simp] theorem State.modAcc_drains (s : State) (id : Nat) (f : Acc → Acc) : (s.modAcc id f).drains = s.drains := rfl
@[simp] theorem State.modAcc_store (s : State) (id : Nat) (f : Acc → Acc) : (s.modAcc id f).store = s.store := rfl
@[simp] theorem State.modAcc_ctxs (s : State) (id : Nat) (f : Acc → Acc) : (s.modAcc id f).ctxs = s.ctxs := rfl
@[simp] theorem State.modAcc_gates (s : State) (id : Nat) (f : Acc → Acc) : (s.modAcc id f).gates = s.gates := rfl
@[simp] theorem State.modAcc_gtables (s : State) (id : Nat) (f : Acc → Acc) : (s.modAcc id f).gtables = s.gtables := rfl
@[simp] theorem State.modAcc_cp (s : State) (id : Nat) (f : Acc → Acc) : (s.modAcc id f).cp = s.cp := rfl
@[simp] theorem State.modAcc_pkg (s : State) (id : Nat) (f : Acc → Acc) : (s.modAcc id f).pkg = s.pkg := rfl
@[simp] theorem State.modAcc_dbg (s : State) (id : Nat) (f : Acc → Acc) : (s.modAcc id f).dbg = s.dbg := rfl
@[simp] theorem State.modAcc_rr (s : State) (id : Nat) (f : Acc → Acc) : (s.modAcc id f).rr = s.rr := rfl
@[simp] theorem State.modAcc_host (s : State) (id : Nat) (f : Acc → Acc) : (s.modAcc id f).host = s.host := rfl

@[simp] theorem State.modCopy_cycle (s : State) (id : Nat) (f : Copy → Copy) : (s.modCopy id f).cycle = s.cycle := rfl
@[simp] theorem State.modCopy_agenda (s : State) (id : Nat) (f : Copy → Copy) : (s.modCopy id f).agenda = s.agenda := rfl
@[simp] theorem State.modCopy_strikes (s : State) (id : Nat) (f : Copy → Copy) : (s.modCopy id f).strikes = s.strikes := rfl
@[simp] theorem State.modCopy_slotsUsed (s : State) (id : Nat) (f : Copy → Copy) : (s.modCopy id f).slotsUsed = s.slotsUsed := rfl
@[simp] theorem State.modCopy_regrouped (s : State) (id : Nat) (f : Copy → Copy) : (s.modCopy id f).regrouped = s.regrouped := rfl
@[simp] theorem State.modCopy_closing (s : State) (id : Nat) (f : Copy → Copy) : (s.modCopy id f).closing = s.closing := rfl
@[simp] theorem State.modCopy_freeCtr (s : State) (id : Nat) (f : Copy → Copy) : (s.modCopy id f).freeCtr = s.freeCtr := rfl
@[simp] theorem State.modCopy_nextId (s : State) (id : Nat) (f : Copy → Copy) : (s.modCopy id f).nextId = s.nextId := rfl
@[simp] theorem State.modCopy_cur (s : State) (id : Nat) (f : Copy → Copy) : (s.modCopy id f).cur = s.cur := rfl
@[simp] theorem State.modCopy_crews (s : State) (id : Nat) (f : Copy → Copy) : (s.modCopy id f).crews = s.crews := rfl
@[simp] theorem State.modCopy_teams (s : State) (id : Nat) (f : Copy → Copy) : (s.modCopy id f).teams = s.teams := rfl
@[simp] theorem State.modCopy_saved (s : State) (id : Nat) (f : Copy → Copy) : (s.modCopy id f).saved = s.saved := rfl
@[simp] theorem State.modCopy_accs (s : State) (id : Nat) (f : Copy → Copy) : (s.modCopy id f).accs = s.accs := rfl
@[simp] theorem State.modCopy_accq (s : State) (id : Nat) (f : Copy → Copy) : (s.modCopy id f).accq = s.accq := rfl
@[simp] theorem State.modCopy_copies (s : State) (id : Nat) (f : Copy → Copy) : (s.modCopy id f).copies = s.copies.map (fun c => if c.id == id then f c else c) := rfl
@[simp] theorem State.modCopy_dictlds (s : State) (id : Nat) (f : Copy → Copy) : (s.modCopy id f).dictlds = s.dictlds := rfl
@[simp] theorem State.modCopy_dicts (s : State) (id : Nat) (f : Copy → Copy) : (s.modCopy id f).dicts = s.dicts := rfl
@[simp] theorem State.modCopy_drains (s : State) (id : Nat) (f : Copy → Copy) : (s.modCopy id f).drains = s.drains := rfl
@[simp] theorem State.modCopy_store (s : State) (id : Nat) (f : Copy → Copy) : (s.modCopy id f).store = s.store := rfl
@[simp] theorem State.modCopy_ctxs (s : State) (id : Nat) (f : Copy → Copy) : (s.modCopy id f).ctxs = s.ctxs := rfl
@[simp] theorem State.modCopy_gates (s : State) (id : Nat) (f : Copy → Copy) : (s.modCopy id f).gates = s.gates := rfl
@[simp] theorem State.modCopy_gtables (s : State) (id : Nat) (f : Copy → Copy) : (s.modCopy id f).gtables = s.gtables := rfl
@[simp] theorem State.modCopy_cp (s : State) (id : Nat) (f : Copy → Copy) : (s.modCopy id f).cp = s.cp := rfl
@[simp] theorem State.modCopy_pkg (s : State) (id : Nat) (f : Copy → Copy) : (s.modCopy id f).pkg = s.pkg := rfl
@[simp] theorem State.modCopy_dbg (s : State) (id : Nat) (f : Copy → Copy) : (s.modCopy id f).dbg = s.dbg := rfl
@[simp] theorem State.modCopy_rr (s : State) (id : Nat) (f : Copy → Copy) : (s.modCopy id f).rr = s.rr := rfl
@[simp] theorem State.modCopy_host (s : State) (id : Nat) (f : Copy → Copy) : (s.modCopy id f).host = s.host := rfl

@[simp] theorem State.modDie_cycle (s : State) (phys : Nat) (f : Die → Die) : (s.modDie phys f).cycle = s.cycle := rfl
@[simp] theorem State.modDie_agenda (s : State) (phys : Nat) (f : Die → Die) : (s.modDie phys f).agenda = s.agenda := rfl
@[simp] theorem State.modDie_strikes (s : State) (phys : Nat) (f : Die → Die) : (s.modDie phys f).strikes = s.strikes := rfl
@[simp] theorem State.modDie_slotsUsed (s : State) (phys : Nat) (f : Die → Die) : (s.modDie phys f).slotsUsed = s.slotsUsed := rfl
@[simp] theorem State.modDie_regrouped (s : State) (phys : Nat) (f : Die → Die) : (s.modDie phys f).regrouped = s.regrouped := rfl
@[simp] theorem State.modDie_closing (s : State) (phys : Nat) (f : Die → Die) : (s.modDie phys f).closing = s.closing := rfl
@[simp] theorem State.modDie_freeCtr (s : State) (phys : Nat) (f : Die → Die) : (s.modDie phys f).freeCtr = s.freeCtr := rfl
@[simp] theorem State.modDie_nextId (s : State) (phys : Nat) (f : Die → Die) : (s.modDie phys f).nextId = s.nextId := rfl
@[simp] theorem State.modDie_cur (s : State) (phys : Nat) (f : Die → Die) : (s.modDie phys f).cur = s.cur := rfl
@[simp] theorem State.modDie_crews (s : State) (phys : Nat) (f : Die → Die) : (s.modDie phys f).crews = s.crews := rfl
@[simp] theorem State.modDie_teams (s : State) (phys : Nat) (f : Die → Die) : (s.modDie phys f).teams = s.teams := rfl
@[simp] theorem State.modDie_saved (s : State) (phys : Nat) (f : Die → Die) : (s.modDie phys f).saved = s.saved := rfl
@[simp] theorem State.modDie_accs (s : State) (phys : Nat) (f : Die → Die) : (s.modDie phys f).accs = s.accs := rfl
@[simp] theorem State.modDie_accq (s : State) (phys : Nat) (f : Die → Die) : (s.modDie phys f).accq = s.accq := rfl
@[simp] theorem State.modDie_copies (s : State) (phys : Nat) (f : Die → Die) : (s.modDie phys f).copies = s.copies := rfl
@[simp] theorem State.modDie_dictlds (s : State) (phys : Nat) (f : Die → Die) : (s.modDie phys f).dictlds = s.dictlds := rfl
@[simp] theorem State.modDie_dicts (s : State) (phys : Nat) (f : Die → Die) : (s.modDie phys f).dicts = s.dicts := rfl
@[simp] theorem State.modDie_drains (s : State) (phys : Nat) (f : Die → Die) : (s.modDie phys f).drains = s.drains := rfl
@[simp] theorem State.modDie_store (s : State) (phys : Nat) (f : Die → Die) : (s.modDie phys f).store = s.store := rfl
@[simp] theorem State.modDie_ctxs (s : State) (phys : Nat) (f : Die → Die) : (s.modDie phys f).ctxs = s.ctxs := rfl
@[simp] theorem State.modDie_gates (s : State) (phys : Nat) (f : Die → Die) : (s.modDie phys f).gates = s.gates := rfl
@[simp] theorem State.modDie_gtables (s : State) (phys : Nat) (f : Die → Die) : (s.modDie phys f).gtables = s.gtables := rfl
@[simp] theorem State.modDie_cp (s : State) (phys : Nat) (f : Die → Die) : (s.modDie phys f).cp = s.cp := rfl
@[simp] theorem State.modDie_pkg (s : State) (phys : Nat) (f : Die → Die) : (s.modDie phys f).pkg = { s.pkg with dies := s.pkg.dies.map (fun d => if d.phys == phys then f d else d) } := rfl
@[simp] theorem State.modDie_dbg (s : State) (phys : Nat) (f : Die → Die) : (s.modDie phys f).dbg = s.dbg := rfl
@[simp] theorem State.modDie_rr (s : State) (phys : Nat) (f : Die → Die) : (s.modDie phys f).rr = s.rr := rfl
@[simp] theorem State.modDie_host (s : State) (phys : Nat) (f : Die → Die) : (s.modDie phys f).host = s.host := rfl

@[simp] theorem State.modQueue_cycle (s : State) (q : Nat) (f : Queue → Queue) : (s.modQueue q f).cycle = s.cycle := rfl
@[simp] theorem State.modQueue_agenda (s : State) (q : Nat) (f : Queue → Queue) : (s.modQueue q f).agenda = s.agenda := rfl
@[simp] theorem State.modQueue_strikes (s : State) (q : Nat) (f : Queue → Queue) : (s.modQueue q f).strikes = s.strikes := rfl
@[simp] theorem State.modQueue_slotsUsed (s : State) (q : Nat) (f : Queue → Queue) : (s.modQueue q f).slotsUsed = s.slotsUsed := rfl
@[simp] theorem State.modQueue_regrouped (s : State) (q : Nat) (f : Queue → Queue) : (s.modQueue q f).regrouped = s.regrouped := rfl
@[simp] theorem State.modQueue_closing (s : State) (q : Nat) (f : Queue → Queue) : (s.modQueue q f).closing = s.closing := rfl
@[simp] theorem State.modQueue_freeCtr (s : State) (q : Nat) (f : Queue → Queue) : (s.modQueue q f).freeCtr = s.freeCtr := rfl
@[simp] theorem State.modQueue_nextId (s : State) (q : Nat) (f : Queue → Queue) : (s.modQueue q f).nextId = s.nextId := rfl
@[simp] theorem State.modQueue_cur (s : State) (q : Nat) (f : Queue → Queue) : (s.modQueue q f).cur = s.cur := rfl
@[simp] theorem State.modQueue_crews (s : State) (q : Nat) (f : Queue → Queue) : (s.modQueue q f).crews = s.crews := rfl
@[simp] theorem State.modQueue_teams (s : State) (q : Nat) (f : Queue → Queue) : (s.modQueue q f).teams = s.teams := rfl
@[simp] theorem State.modQueue_saved (s : State) (q : Nat) (f : Queue → Queue) : (s.modQueue q f).saved = s.saved := rfl
@[simp] theorem State.modQueue_accs (s : State) (q : Nat) (f : Queue → Queue) : (s.modQueue q f).accs = s.accs := rfl
@[simp] theorem State.modQueue_accq (s : State) (q : Nat) (f : Queue → Queue) : (s.modQueue q f).accq = s.accq := rfl
@[simp] theorem State.modQueue_copies (s : State) (q : Nat) (f : Queue → Queue) : (s.modQueue q f).copies = s.copies := rfl
@[simp] theorem State.modQueue_dictlds (s : State) (q : Nat) (f : Queue → Queue) : (s.modQueue q f).dictlds = s.dictlds := rfl
@[simp] theorem State.modQueue_dicts (s : State) (q : Nat) (f : Queue → Queue) : (s.modQueue q f).dicts = s.dicts := rfl
@[simp] theorem State.modQueue_drains (s : State) (q : Nat) (f : Queue → Queue) : (s.modQueue q f).drains = s.drains := rfl
@[simp] theorem State.modQueue_store (s : State) (q : Nat) (f : Queue → Queue) : (s.modQueue q f).store = s.store := rfl
@[simp] theorem State.modQueue_ctxs (s : State) (q : Nat) (f : Queue → Queue) : (s.modQueue q f).ctxs = s.ctxs := rfl
@[simp] theorem State.modQueue_gates (s : State) (q : Nat) (f : Queue → Queue) : (s.modQueue q f).gates = s.gates := rfl
@[simp] theorem State.modQueue_gtables (s : State) (q : Nat) (f : Queue → Queue) : (s.modQueue q f).gtables = s.gtables := rfl
@[simp] theorem State.modQueue_cp (s : State) (q : Nat) (f : Queue → Queue) : (s.modQueue q f).cp = { s.cp with queues := s.cp.queues.modify q f } := rfl
@[simp] theorem State.modQueue_pkg (s : State) (q : Nat) (f : Queue → Queue) : (s.modQueue q f).pkg = s.pkg := rfl
@[simp] theorem State.modQueue_dbg (s : State) (q : Nat) (f : Queue → Queue) : (s.modQueue q f).dbg = s.dbg := rfl
@[simp] theorem State.modQueue_rr (s : State) (q : Nat) (f : Queue → Queue) : (s.modQueue q f).rr = s.rr := rfl
@[simp] theorem State.modQueue_host (s : State) (q : Nat) (f : Queue → Queue) : (s.modQueue q f).host = s.host := rfl

@[simp] theorem State.modFn_cycle (s : State) (n : Nat) (f : Fn → Fn) : (s.modFn n f).cycle = s.cycle := rfl
@[simp] theorem State.modFn_agenda (s : State) (n : Nat) (f : Fn → Fn) : (s.modFn n f).agenda = s.agenda := rfl
@[simp] theorem State.modFn_strikes (s : State) (n : Nat) (f : Fn → Fn) : (s.modFn n f).strikes = s.strikes := rfl
@[simp] theorem State.modFn_slotsUsed (s : State) (n : Nat) (f : Fn → Fn) : (s.modFn n f).slotsUsed = s.slotsUsed := rfl
@[simp] theorem State.modFn_regrouped (s : State) (n : Nat) (f : Fn → Fn) : (s.modFn n f).regrouped = s.regrouped := rfl
@[simp] theorem State.modFn_closing (s : State) (n : Nat) (f : Fn → Fn) : (s.modFn n f).closing = s.closing := rfl
@[simp] theorem State.modFn_freeCtr (s : State) (n : Nat) (f : Fn → Fn) : (s.modFn n f).freeCtr = s.freeCtr := rfl
@[simp] theorem State.modFn_nextId (s : State) (n : Nat) (f : Fn → Fn) : (s.modFn n f).nextId = s.nextId := rfl
@[simp] theorem State.modFn_cur (s : State) (n : Nat) (f : Fn → Fn) : (s.modFn n f).cur = s.cur := rfl
@[simp] theorem State.modFn_crews (s : State) (n : Nat) (f : Fn → Fn) : (s.modFn n f).crews = s.crews := rfl
@[simp] theorem State.modFn_teams (s : State) (n : Nat) (f : Fn → Fn) : (s.modFn n f).teams = s.teams := rfl
@[simp] theorem State.modFn_saved (s : State) (n : Nat) (f : Fn → Fn) : (s.modFn n f).saved = s.saved := rfl
@[simp] theorem State.modFn_accs (s : State) (n : Nat) (f : Fn → Fn) : (s.modFn n f).accs = s.accs := rfl
@[simp] theorem State.modFn_accq (s : State) (n : Nat) (f : Fn → Fn) : (s.modFn n f).accq = s.accq := rfl
@[simp] theorem State.modFn_copies (s : State) (n : Nat) (f : Fn → Fn) : (s.modFn n f).copies = s.copies := rfl
@[simp] theorem State.modFn_dictlds (s : State) (n : Nat) (f : Fn → Fn) : (s.modFn n f).dictlds = s.dictlds := rfl
@[simp] theorem State.modFn_dicts (s : State) (n : Nat) (f : Fn → Fn) : (s.modFn n f).dicts = s.dicts := rfl
@[simp] theorem State.modFn_drains (s : State) (n : Nat) (f : Fn → Fn) : (s.modFn n f).drains = s.drains := rfl
@[simp] theorem State.modFn_store (s : State) (n : Nat) (f : Fn → Fn) : (s.modFn n f).store = s.store := rfl
@[simp] theorem State.modFn_ctxs (s : State) (n : Nat) (f : Fn → Fn) : (s.modFn n f).ctxs = s.ctxs := rfl
@[simp] theorem State.modFn_gates (s : State) (n : Nat) (f : Fn → Fn) : (s.modFn n f).gates = s.gates := rfl
@[simp] theorem State.modFn_gtables (s : State) (n : Nat) (f : Fn → Fn) : (s.modFn n f).gtables = s.gtables := rfl
@[simp] theorem State.modFn_cp (s : State) (n : Nat) (f : Fn → Fn) : (s.modFn n f).cp = s.cp := rfl
@[simp] theorem State.modFn_pkg (s : State) (n : Nat) (f : Fn → Fn) : (s.modFn n f).pkg = s.pkg := rfl
@[simp] theorem State.modFn_dbg (s : State) (n : Nat) (f : Fn → Fn) : (s.modFn n f).dbg = s.dbg := rfl
@[simp] theorem State.modFn_rr (s : State) (n : Nat) (f : Fn → Fn) : (s.modFn n f).rr = s.rr := rfl
@[simp] theorem State.modFn_host (s : State) (n : Nat) (f : Fn → Fn) : (s.modFn n f).host = { s.host with fns := s.host.fns.map (fun x => if x.num == n then f x else x) } := rfl

@[simp] theorem State.setDict_cycle (s : State) (d : Dict) : (s.setDict d).cycle = s.cycle := rfl
@[simp] theorem State.setDict_agenda (s : State) (d : Dict) : (s.setDict d).agenda = s.agenda := rfl
@[simp] theorem State.setDict_strikes (s : State) (d : Dict) : (s.setDict d).strikes = s.strikes := rfl
@[simp] theorem State.setDict_slotsUsed (s : State) (d : Dict) : (s.setDict d).slotsUsed = s.slotsUsed := rfl
@[simp] theorem State.setDict_regrouped (s : State) (d : Dict) : (s.setDict d).regrouped = s.regrouped := rfl
@[simp] theorem State.setDict_closing (s : State) (d : Dict) : (s.setDict d).closing = s.closing := rfl
@[simp] theorem State.setDict_freeCtr (s : State) (d : Dict) : (s.setDict d).freeCtr = s.freeCtr := rfl
@[simp] theorem State.setDict_nextId (s : State) (d : Dict) : (s.setDict d).nextId = s.nextId := rfl
@[simp] theorem State.setDict_cur (s : State) (d : Dict) : (s.setDict d).cur = s.cur := rfl
@[simp] theorem State.setDict_crews (s : State) (d : Dict) : (s.setDict d).crews = s.crews := rfl
@[simp] theorem State.setDict_teams (s : State) (d : Dict) : (s.setDict d).teams = s.teams := rfl
@[simp] theorem State.setDict_saved (s : State) (d : Dict) : (s.setDict d).saved = s.saved := rfl
@[simp] theorem State.setDict_accs (s : State) (d : Dict) : (s.setDict d).accs = s.accs := rfl
@[simp] theorem State.setDict_accq (s : State) (d : Dict) : (s.setDict d).accq = s.accq := rfl
@[simp] theorem State.setDict_copies (s : State) (d : Dict) : (s.setDict d).copies = s.copies := rfl
@[simp] theorem State.setDict_dictlds (s : State) (d : Dict) : (s.setDict d).dictlds = s.dictlds := rfl
@[simp] theorem State.setDict_dicts (s : State) (d : Dict) : (s.setDict d).dicts = d :: s.dicts.filter (fun x => !(x.ctx == d.ctx && x.stack == d.stack && x.slot == d.slot)) := rfl
@[simp] theorem State.setDict_drains (s : State) (d : Dict) : (s.setDict d).drains = s.drains := rfl
@[simp] theorem State.setDict_store (s : State) (d : Dict) : (s.setDict d).store = s.store := rfl
@[simp] theorem State.setDict_ctxs (s : State) (d : Dict) : (s.setDict d).ctxs = s.ctxs := rfl
@[simp] theorem State.setDict_gates (s : State) (d : Dict) : (s.setDict d).gates = s.gates := rfl
@[simp] theorem State.setDict_gtables (s : State) (d : Dict) : (s.setDict d).gtables = s.gtables := rfl
@[simp] theorem State.setDict_cp (s : State) (d : Dict) : (s.setDict d).cp = s.cp := rfl
@[simp] theorem State.setDict_pkg (s : State) (d : Dict) : (s.setDict d).pkg = s.pkg := rfl
@[simp] theorem State.setDict_dbg (s : State) (d : Dict) : (s.setDict d).dbg = s.dbg := rfl
@[simp] theorem State.setDict_rr (s : State) (d : Dict) : (s.setDict d).rr = s.rr := rfl
@[simp] theorem State.setDict_host (s : State) (d : Dict) : (s.setDict d).host = s.host := rfl

@[simp] theorem State.setRing_cycle (s : State) (r : Ring) : (s.setRing r).cycle = s.cycle := rfl
@[simp] theorem State.setRing_agenda (s : State) (r : Ring) : (s.setRing r).agenda = s.agenda := rfl
@[simp] theorem State.setRing_strikes (s : State) (r : Ring) : (s.setRing r).strikes = s.strikes := rfl
@[simp] theorem State.setRing_slotsUsed (s : State) (r : Ring) : (s.setRing r).slotsUsed = s.slotsUsed := rfl
@[simp] theorem State.setRing_regrouped (s : State) (r : Ring) : (s.setRing r).regrouped = s.regrouped := rfl
@[simp] theorem State.setRing_closing (s : State) (r : Ring) : (s.setRing r).closing = s.closing := rfl
@[simp] theorem State.setRing_freeCtr (s : State) (r : Ring) : (s.setRing r).freeCtr = s.freeCtr := rfl
@[simp] theorem State.setRing_nextId (s : State) (r : Ring) : (s.setRing r).nextId = s.nextId := rfl
@[simp] theorem State.setRing_cur (s : State) (r : Ring) : (s.setRing r).cur = s.cur := rfl
@[simp] theorem State.setRing_crews (s : State) (r : Ring) : (s.setRing r).crews = s.crews := rfl
@[simp] theorem State.setRing_teams (s : State) (r : Ring) : (s.setRing r).teams = s.teams := rfl
@[simp] theorem State.setRing_saved (s : State) (r : Ring) : (s.setRing r).saved = s.saved := rfl
@[simp] theorem State.setRing_accs (s : State) (r : Ring) : (s.setRing r).accs = s.accs := rfl
@[simp] theorem State.setRing_accq (s : State) (r : Ring) : (s.setRing r).accq = s.accq := rfl
@[simp] theorem State.setRing_copies (s : State) (r : Ring) : (s.setRing r).copies = s.copies := rfl
@[simp] theorem State.setRing_dictlds (s : State) (r : Ring) : (s.setRing r).dictlds = s.dictlds := rfl
@[simp] theorem State.setRing_dicts (s : State) (r : Ring) : (s.setRing r).dicts = s.dicts := rfl
@[simp] theorem State.setRing_drains (s : State) (r : Ring) : (s.setRing r).drains = s.drains := rfl
@[simp] theorem State.setRing_store (s : State) (r : Ring) : (s.setRing r).store = s.store := rfl
@[simp] theorem State.setRing_ctxs (s : State) (r : Ring) : (s.setRing r).ctxs = s.ctxs := rfl
@[simp] theorem State.setRing_gates (s : State) (r : Ring) : (s.setRing r).gates = s.gates := rfl
@[simp] theorem State.setRing_gtables (s : State) (r : Ring) : (s.setRing r).gtables = s.gtables := rfl
@[simp] theorem State.setRing_cp (s : State) (r : Ring) : (s.setRing r).cp = { s.cp with rings := r :: s.cp.rings.filter (fun x => !(x.ctx == r.ctx && x.fdom == r.fdom)) } := rfl
@[simp] theorem State.setRing_pkg (s : State) (r : Ring) : (s.setRing r).pkg = s.pkg := rfl
@[simp] theorem State.setRing_dbg (s : State) (r : Ring) : (s.setRing r).dbg = s.dbg := rfl
@[simp] theorem State.setRing_rr (s : State) (r : Ring) : (s.setRing r).rr = s.rr := rfl
@[simp] theorem State.setRing_host (s : State) (r : Ring) : (s.setRing r).host = s.host := rfl

@[simp] theorem Crew.keepLog_team (c : Crew) (x : KeptLog) : (c.keepLog x).team = c.team := rfl
@[simp] theorem Crew.keepLog_id (c : Crew) (x : KeptLog) : (c.keepLog x).id = c.id := rfl
@[simp] theorem Crew.keepLog_core (c : Crew) (x : KeptLog) : (c.keepLog x).core = c.core := rfl
@[simp] theorem Crew.keepLog_slot (c : Crew) (x : KeptLog) : (c.keepLog x).slot = c.slot := rfl
@[simp] theorem Crew.keepLog_creg (c : Crew) (x : KeptLog) : (c.keepLog x).creg = c.creg := rfl
@[simp] theorem Crew.keepLog_cbad (c : Crew) (x : KeptLog) : (c.keepLog x).cbad = c.cbad := rfl
@[simp] theorem Crew.keepLog_rot (c : Crew) (x : KeptLog) : (c.keepLog x).rot = c.rot := rfl
@[simp] theorem Crew.keepLog_frames (c : Crew) (x : KeptLog) : (c.keepLog x).frames = c.frames := rfl
@[simp] theorem Crew.keepLog_asid (c : Crew) (x : KeptLog) : (c.keepLog x).asid = c.asid := rfl
@[simp] theorem Crew.keepLog_secure (c : Crew) (x : KeptLog) : (c.keepLog x).secure = c.secure := rfl
@[simp] theorem Crew.keepLog_fdom (c : Crew) (x : KeptLog) : (c.keepLog x).fdom = c.fdom := rfl
@[simp] theorem Crew.keepLog_privBase (c : Crew) (x : KeptLog) : (c.keepLog x).privBase = c.privBase := rfl
@[simp] theorem Crew.keepLog_privSize (c : Crew) (x : KeptLog) : (c.keepLog x).privSize = c.privSize := rfl
@[simp] theorem Crew.keepLog_rbud (c : Crew) (x : KeptLog) : (c.keepLog x).rbud = c.rbud := rfl
@[simp] theorem Crew.keepLog_threads (c : Crew) (x : KeptLog) : (c.keepLog x).threads = c.threads := rfl
@[simp] theorem Crew.keepLog_bundles (c : Crew) (x : KeptLog) : (c.keepLog x).bundles = c.bundles := rfl
@[simp] theorem Crew.keepLog_left (c : Crew) (x : KeptLog) : (c.keepLog x).left = c.left := rfl
@[simp] theorem Crew.keepLog_ended (c : Crew) (x : KeptLog) : (c.keepLog x).ended = c.ended := rfl
@[simp] theorem Crew.keepLog_holds (c : Crew) (x : KeptLog) : (c.keepLog x).holds = c.holds := rfl
@[simp] theorem Crew.keepLog_coll (c : Crew) (x : KeptLog) : (c.keepLog x).coll = c.coll := rfl
@[simp] theorem Crew.keepLog_latch (c : Crew) (x : KeptLog) : (c.keepLog x).latch = c.latch := rfl
@[simp] theorem Crew.keepLog_claim (c : Crew) (x : KeptLog) : (c.keepLog x).claim = c.claim := rfl
@[simp] theorem Crew.keepLog_busy (c : Crew) (x : KeptLog) : (c.keepLog x).busy = c.busy := rfl
@[simp] theorem Crew.keepLog_atPark (c : Crew) (x : KeptLog) : (c.keepLog x).atPark = c.atPark := rfl
@[simp] theorem Crew.keepLog_order (c : Crew) (x : KeptLog) : (c.keepLog x).order = c.order := rfl
@[simp] theorem Crew.keepLog_logs (c : Crew) (x : KeptLog) : (c.keepLog x).logs = c.logs.filter (fun y => y.pc != x.pc) ++ [x] := rfl
@[simp] theorem Crew.keepLog_owed (c : Crew) (x : KeptLog) : (c.keepLog x).owed = c.owed := rfl

@[simp] theorem Thread.leaveReg_pc (t : Thread) (n : Nat) : (t.leaveReg n).pc = t.pc := rfl
@[simp] theorem Thread.leaveReg_st (t : Thread) (n : Nat) : (t.leaveReg n).st = t.st := rfl
@[simp] theorem Thread.leaveReg_why (t : Thread) (n : Nat) : (t.leaveReg n).why = t.why := rfl
@[simp] theorem Thread.leaveReg_back (t : Thread) (n : Nat) : (t.leaveReg n).back = t.back := rfl
@[simp] theorem Thread.leaveReg_regs (t : Thread) (n : Nat) : (t.leaveReg n).regs = t.regs.map (fun r => if r.n == n then { r with pend := false, keep := false } else r) := rfl
@[simp] theorem Thread.leaveReg_preds (t : Thread) (n : Nat) : (t.leaveReg n).preds = t.preds := rfl
@[simp] theorem Thread.leaveReg_idx (t : Thread) (n : Nat) : (t.leaveReg n).idx = t.idx := rfl
@[simp] theorem Thread.leaveReg_mrv (t : Thread) (n : Nat) : (t.leaveReg n).mrv = t.mrv := rfl
@[simp] theorem Thread.leaveReg_mrm (t : Thread) (n : Nat) : (t.leaveReg n).mrm = t.mrm := rfl
@[simp] theorem Thread.leaveReg_mrOld (t : Thread) (n : Nat) : (t.leaveReg n).mrOld = t.mrOld := rfl
@[simp] theorem Thread.leaveReg_flags (t : Thread) (n : Nat) : (t.leaveReg n).flags = t.flags := rfl
@[simp] theorem Thread.leaveReg_depth (t : Thread) (n : Nat) : (t.leaveReg n).depth = t.depth := rfl
@[simp] theorem Thread.leaveReg_stack (t : Thread) (n : Nat) : (t.leaveReg n).stack = t.stack := rfl
@[simp] theorem Thread.leaveReg_wait (t : Thread) (n : Nat) : (t.leaveReg n).wait = t.wait := rfl
@[simp] theorem Thread.leaveReg_batchNo (t : Thread) (n : Nat) : (t.leaveReg n).batchNo = t.batchNo := rfl
@[simp] theorem Thread.leaveReg_openOps (t : Thread) (n : Nat) : (t.leaveReg n).openOps = t.openOps := rfl
@[simp] theorem Thread.leaveReg_batches (t : Thread) (n : Nat) : (t.leaveReg n).batches = t.batches := rfl
@[simp] theorem Thread.leaveReg_causes (t : Thread) (n : Nat) : (t.leaveReg n).causes = t.causes := rfl
@[simp] theorem Thread.leaveReg_relog (t : Thread) (n : Nat) : (t.leaveReg n).relog = t.relog := rfl
@[simp] theorem Thread.leaveReg_page (t : Thread) (n : Nat) : (t.leaveReg n).page = t.page := rfl
@[simp] theorem Thread.leaveReg_lastIssue (t : Thread) (n : Nat) : (t.leaveReg n).lastIssue = t.lastIssue := rfl
@[simp] theorem Thread.leaveReg_woke (t : Thread) (n : Nat) : (t.leaveReg n).woke = t.woke := rfl
@[simp] theorem Thread.leaveReg_gaps (t : Thread) (n : Nat) : (t.leaveReg n).gaps = t.gaps := rfl

@[simp] theorem Thread.awaitReg_pc (t : Thread) (n : Nat) : (t.awaitReg n).pc = t.pc := by unfold Thread.awaitReg; split <;> rfl
@[simp] theorem Thread.awaitReg_st (t : Thread) (n : Nat) : (t.awaitReg n).st = t.st := by unfold Thread.awaitReg; split <;> rfl
@[simp] theorem Thread.awaitReg_why (t : Thread) (n : Nat) : (t.awaitReg n).why = t.why := by unfold Thread.awaitReg; split <;> rfl
@[simp] theorem Thread.awaitReg_back (t : Thread) (n : Nat) : (t.awaitReg n).back = t.back := by unfold Thread.awaitReg; split <;> rfl
@[simp] theorem Thread.awaitReg_preds (t : Thread) (n : Nat) : (t.awaitReg n).preds = t.preds := by unfold Thread.awaitReg; split <;> rfl
@[simp] theorem Thread.awaitReg_idx (t : Thread) (n : Nat) : (t.awaitReg n).idx = t.idx := by unfold Thread.awaitReg; split <;> rfl
@[simp] theorem Thread.awaitReg_mrv (t : Thread) (n : Nat) : (t.awaitReg n).mrv = t.mrv := by unfold Thread.awaitReg; split <;> rfl
@[simp] theorem Thread.awaitReg_mrm (t : Thread) (n : Nat) : (t.awaitReg n).mrm = t.mrm := by unfold Thread.awaitReg; split <;> rfl
@[simp] theorem Thread.awaitReg_mrOld (t : Thread) (n : Nat) : (t.awaitReg n).mrOld = t.mrOld := by unfold Thread.awaitReg; split <;> rfl
@[simp] theorem Thread.awaitReg_flags (t : Thread) (n : Nat) : (t.awaitReg n).flags = t.flags := by unfold Thread.awaitReg; split <;> rfl
@[simp] theorem Thread.awaitReg_depth (t : Thread) (n : Nat) : (t.awaitReg n).depth = t.depth := by unfold Thread.awaitReg; split <;> rfl
@[simp] theorem Thread.awaitReg_stack (t : Thread) (n : Nat) : (t.awaitReg n).stack = t.stack := by unfold Thread.awaitReg; split <;> rfl
@[simp] theorem Thread.awaitReg_wait (t : Thread) (n : Nat) : (t.awaitReg n).wait = t.wait := by unfold Thread.awaitReg; split <;> rfl
@[simp] theorem Thread.awaitReg_batchNo (t : Thread) (n : Nat) : (t.awaitReg n).batchNo = t.batchNo := by unfold Thread.awaitReg; split <;> rfl
@[simp] theorem Thread.awaitReg_openOps (t : Thread) (n : Nat) : (t.awaitReg n).openOps = t.openOps := by unfold Thread.awaitReg; split <;> rfl
@[simp] theorem Thread.awaitReg_batches (t : Thread) (n : Nat) : (t.awaitReg n).batches = t.batches := by unfold Thread.awaitReg; split <;> rfl
@[simp] theorem Thread.awaitReg_causes (t : Thread) (n : Nat) : (t.awaitReg n).causes = t.causes := by unfold Thread.awaitReg; split <;> rfl
@[simp] theorem Thread.awaitReg_relog (t : Thread) (n : Nat) : (t.awaitReg n).relog = t.relog := by unfold Thread.awaitReg; split <;> rfl
@[simp] theorem Thread.awaitReg_page (t : Thread) (n : Nat) : (t.awaitReg n).page = t.page := by unfold Thread.awaitReg; split <;> rfl
@[simp] theorem Thread.awaitReg_lastIssue (t : Thread) (n : Nat) : (t.awaitReg n).lastIssue = t.lastIssue := by unfold Thread.awaitReg; split <;> rfl
@[simp] theorem Thread.awaitReg_woke (t : Thread) (n : Nat) : (t.awaitReg n).woke = t.woke := by unfold Thread.awaitReg; split <;> rfl
@[simp] theorem Thread.awaitReg_gaps (t : Thread) (n : Nat) : (t.awaitReg n).gaps = t.gaps := by unfold Thread.awaitReg; split <;> rfl

/-! ### Writes to memory change the store alone -/

/-- Nothing but the store differs. -/
def StoreOnly (s t : State) : Prop := { t with store := s.store } = s

theorem StoreOnly.refl (s : State) : StoreOnly s s := rfl

theorem StoreOnly.trans {s t u : State} (h : StoreOnly s t) (g : StoreOnly t u) : StoreOnly s u := by
  unfold StoreOnly at *
  exact (congrArg (fun x : State => { x with store := s.store }) g).trans h

theorem StoreOnly.put {s t : State} (h : StoreOnly s t) (m : Store) : StoreOnly s { t with store := m } := h

theorem StoreOnly.foldl {α : Type} {f : State → α → State} (h : ∀ s a, StoreOnly s (f s a)) {s t : State} (g : StoreOnly s t) (l : List α) :
    StoreOnly s (l.foldl f t) := by
  induction l generalizing t with
  | nil => exact g
  | cons a l ih => exact ih (g.trans (h t a))

theorem StoreOnly.cycle {s t : State} (h : StoreOnly s t) : t.cycle = s.cycle := by
  unfold StoreOnly at h
  exact (congrArg State.cycle h : _)
theorem StoreOnly.agenda {s t : State} (h : StoreOnly s t) : t.agenda = s.agenda := by
  unfold StoreOnly at h
  exact (congrArg State.agenda h : _)
theorem StoreOnly.strikes {s t : State} (h : StoreOnly s t) : t.strikes = s.strikes := by
  unfold StoreOnly at h
  exact (congrArg State.strikes h : _)
theorem StoreOnly.slotsUsed {s t : State} (h : StoreOnly s t) : t.slotsUsed = s.slotsUsed := by
  unfold StoreOnly at h
  exact (congrArg State.slotsUsed h : _)
theorem StoreOnly.regrouped {s t : State} (h : StoreOnly s t) : t.regrouped = s.regrouped := by
  unfold StoreOnly at h
  exact (congrArg State.regrouped h : _)
theorem StoreOnly.closing {s t : State} (h : StoreOnly s t) : t.closing = s.closing := by
  unfold StoreOnly at h
  exact (congrArg State.closing h : _)
theorem StoreOnly.freeCtr {s t : State} (h : StoreOnly s t) : t.freeCtr = s.freeCtr := by
  unfold StoreOnly at h
  exact (congrArg State.freeCtr h : _)
theorem StoreOnly.nextId {s t : State} (h : StoreOnly s t) : t.nextId = s.nextId := by
  unfold StoreOnly at h
  exact (congrArg State.nextId h : _)
theorem StoreOnly.cur {s t : State} (h : StoreOnly s t) : t.cur = s.cur := by
  unfold StoreOnly at h
  exact (congrArg State.cur h : _)
theorem StoreOnly.crews {s t : State} (h : StoreOnly s t) : t.crews = s.crews := by
  unfold StoreOnly at h
  exact (congrArg State.crews h : _)
theorem StoreOnly.teams {s t : State} (h : StoreOnly s t) : t.teams = s.teams := by
  unfold StoreOnly at h
  exact (congrArg State.teams h : _)
theorem StoreOnly.saved {s t : State} (h : StoreOnly s t) : t.saved = s.saved := by
  unfold StoreOnly at h
  exact (congrArg State.saved h : _)
theorem StoreOnly.accs {s t : State} (h : StoreOnly s t) : t.accs = s.accs := by
  unfold StoreOnly at h
  exact (congrArg State.accs h : _)
theorem StoreOnly.accq {s t : State} (h : StoreOnly s t) : t.accq = s.accq := by
  unfold StoreOnly at h
  exact (congrArg State.accq h : _)
theorem StoreOnly.copies {s t : State} (h : StoreOnly s t) : t.copies = s.copies := by
  unfold StoreOnly at h
  exact (congrArg State.copies h : _)
theorem StoreOnly.dictlds {s t : State} (h : StoreOnly s t) : t.dictlds = s.dictlds := by
  unfold StoreOnly at h
  exact (congrArg State.dictlds h : _)
theorem StoreOnly.dicts {s t : State} (h : StoreOnly s t) : t.dicts = s.dicts := by
  unfold StoreOnly at h
  exact (congrArg State.dicts h : _)
theorem StoreOnly.drains {s t : State} (h : StoreOnly s t) : t.drains = s.drains := by
  unfold StoreOnly at h
  exact (congrArg State.drains h : _)
theorem StoreOnly.ctxs {s t : State} (h : StoreOnly s t) : t.ctxs = s.ctxs := by
  unfold StoreOnly at h
  exact (congrArg State.ctxs h : _)
theorem StoreOnly.gates {s t : State} (h : StoreOnly s t) : t.gates = s.gates := by
  unfold StoreOnly at h
  exact (congrArg State.gates h : _)
theorem StoreOnly.gtables {s t : State} (h : StoreOnly s t) : t.gtables = s.gtables := by
  unfold StoreOnly at h
  exact (congrArg State.gtables h : _)
theorem StoreOnly.cp {s t : State} (h : StoreOnly s t) : t.cp = s.cp := by
  unfold StoreOnly at h
  exact (congrArg State.cp h : _)
theorem StoreOnly.pkg {s t : State} (h : StoreOnly s t) : t.pkg = s.pkg := by
  unfold StoreOnly at h
  exact (congrArg State.pkg h : _)
theorem StoreOnly.dbg {s t : State} (h : StoreOnly s t) : t.dbg = s.dbg := by
  unfold StoreOnly at h
  exact (congrArg State.dbg h : _)
theorem StoreOnly.rr {s t : State} (h : StoreOnly s t) : t.rr = s.rr := by
  unfold StoreOnly at h
  exact (congrArg State.rr h : _)
theorem StoreOnly.host {s t : State} (h : StoreOnly s t) : t.host = s.host := by
  unfold StoreOnly at h
  exact (congrArg State.host h : _)

theorem State.clearPoison_only (s : State) (k : Nat) : StoreOnly s (s.clearPoison k) := rfl
theorem State.recode_only (s : State) (p : Option Nat) (f : Nat → Bool) : StoreOnly s (s.recode p f) := rfl
theorem State.modSec_only (s : State) (pa : Nat) (p : Nat → Bool) (f : LState → LState) : StoreOnly s (s.modSec pa p f) := rfl
theorem State.dropL1_only (s : State) (pa : Nat) : StoreOnly s (s.dropL1 pa) := rfl
theorem State.dropL1For_only (s : State) (w : Writer) (pa : Nat) : StoreOnly s (s.dropL1For w pa) := rfl

theorem State.push_only (s : State) (w : WSec) : StoreOnly s (s.push w) := by
  unfold State.push
  refine .trans ?_ (State.dropL1_only _ _)
  refine .trans ?_ (State.modSec_only ..)
  refine .trans ?_ (State.modSec_only ..)
  refine .trans ?_ (State.recode_only ..)
  split
  · exact .trans (.put (.refl s) _) (State.clearPoison_only ..)
  · exact .put (.refl s) _

theorem State.pushIf_only (s : State) (p : WSec → Bool) : StoreOnly s (s.pushIf p) := .foldl State.push_only (.refl s) _

theorem State.pushFor_only (s : State) (w : Option Writer) (pa n : Nat) : StoreOnly s (s.pushFor w pa n) := State.pushIf_only _ _

theorem State.touchLlc_only (s : State) (ctx : Nat) (l : Loc) (rd : Nat) (w : Bool) : StoreOnly s (s.touchLlc ctx l rd w) := by
  unfold State.touchLlc
  split
  · exact .refl s
  · dsimp only
    split
    · exact .put (.refl s) _
    · split <;> exact .put (.refl s) _

theorem State.evictL2_only (s : State) (x : L2Line) : StoreOnly s (s.evictL2 x) := by
  unfold State.evictL2
  refine .foldl (fun s k => ?_) (.put (State.pushIf_only s _) _) _
  dsimp only
  split
  · exact State.touchLlc_only ..
  · exact .refl s

theorem State.fillL2_only {s t : State} {x : L2Line} (h : s.fillL2 x = some t) : StoreOnly s t := by
  have put : ∀ {u : State}, StoreOnly s u → ∀ w, StoreOnly s
      { u with store := { u.store with l2 := u.store.l2 ++ [{ x with way := w }] } } := fun h w => h.put _
  unfold State.fillL2 at h
  dsimp only at h
  split at h
  · cases h
  · split at h
    · cases h; split
      · exact put (.trans (.put (.refl s) _) (State.evictL2_only _ _)) _
      · exact .put (.refl s) _
    · split at h
      · cases h; exact put (.refl s) _
      · cases h; split
        · exact put (.trans (.put (.refl s) _) (State.evictL2_only _ _)) _
        · exact .put (.refl s) _

theorem State.holdL2_only {s t : State} {f : Fill} {pa : Nat} {st : LState} (h : s.holdL2 f pa st = some t) : StoreOnly s t := by
  unfold State.holdL2 at h
  dsimp only at h
  split at h
  · cases h; exact .put (.refl s) _
  · exact State.fillL2_only h

theorem State.ownSector_only (s : State) (w : Option Writer) (k : Nat) : StoreOnly s (s.ownSector w k) := by
  unfold State.ownSector
  cases w with
  | none => exact .trans (State.dropL1_only ..) (State.modSec_only ..)
  | some w =>
    have h := fun p f => (State.dropL1For_only s w (256 * k)).trans (State.modSec_only (s.dropL1For w (256 * k)) (256 * k) p f)
    dsimp only
    split
    · split
      · exact (h _ _).trans (State.holdL2_only ‹_›)
      · exact ((h _ _).trans (State.modSec_only ..)).trans (State.touchLlc_only ..)
    · exact (h _ _).trans (State.touchLlc_only ..)

theorem State.pkgWrite_only (s : State) (w : Option Writer) (pa : Nat) (d : List Byte) : StoreOnly s (s.pkgWrite w pa d) :=
  .put (.trans (.foldl (fun s k => State.ownSector_only s w k) (State.pushFor_only s w pa d.length) _) (State.recode_only ..)) _

theorem State.agentWrite_only (s : State) (pa : Nat) (d : List Byte) : StoreOnly s (s.agentWrite pa d) :=
  .trans (.foldl (fun s k => State.clearPoison_only s k) (.refl s) _) (State.pkgWrite_only _ none pa d)

theorem State.recall_only (s : State) (pa : Nat) : StoreOnly s (s.recall pa) := .put (State.pushIf_only s _) _

/-! ### Writes that the fabric or an engine may hold

Such a write is performed or it waits: besides the store, it may change WSEQ, and the error counts of the package by what its walk reads. -/

/-- Nothing but the store, WSEQ and the package's counts differs. -/
def PostOnly (s t : State) : Prop := ∃ n p, StoreOnly { s with cp := { s.cp with wseq := n }, pkg := p } t

theorem PostOnly.of {s t : State} (h : StoreOnly s t) : PostOnly s t := ⟨s.cp.wseq, s.pkg, h⟩

theorem PostOnly.trans {s t u : State} (h : PostOnly s t) (g : PostOnly t u) : PostOnly s u := by
  obtain ⟨n, p, h⟩ := h
  obtain ⟨m, q, g⟩ := g
  refine ⟨m, q, ?_⟩
  unfold StoreOnly at *
  have h' := congrArg (fun x : State => { x with cp := { x.cp with wseq := m }, pkg := q }) h
  exact (congrArg (fun x : State => { x with store := s.store }) g).trans h'

theorem PostOnly.foldl {α : Type} {f : State → α → State} (h : ∀ s a, PostOnly s (f s a)) {s t : State} (g : PostOnly s t) (l : List α) :
    PostOnly s (l.foldl f t) := by
  induction l generalizing t with
  | nil => exact g
  | cons a l ih => exact ih (g.trans (h t a))

theorem State.meet_only (s : State) (u : Upset) : PostOnly s (s.meet u) := by
  have count : ∀ (m : Store) (k a b : Nat), PostOnly s (State.countErrs { s with store := m } k a b) := fun m k a b =>
    ⟨s.cp.wseq, (State.countErrs { s with store := m } k a b).pkg, rfl⟩
  unfold State.meet
  dsimp only
  split
  · exact count _ _ _ _
  · split
    · exact .of (.put (.refl s) _)
    · split <;> exact (count _ _ _ _).trans (.of (.put (.refl _) _))

theorem State.check_only (s : State) (l : Loc) (n : Nat) : PostOnly s (s.check l n) := .foldl State.meet_only (.of (.refl s)) _

theorem State.walkRecall_only (s : State) (asid va : Nat) : PostOnly s (s.walkRecall asid va) :=
  .foldl (fun s a => (PostOnly.of (State.recall_only s a)).trans (State.check_only ..)) (.of (.refl s)) _

theorem State.engineUse_only (s : State) (core asid : Nat) (secure : Bool) (vas : List Nat) : PostOnly s (s.engineUse core asid secure vas) := by
  refine .foldl (fun s va => ?_) (.of (.refl s)) _
  split
  · exact .of (.put (.refl s) _)
  · dsimp only
    split
    · exact (State.walkRecall_only ..).trans (.of (.put (.refl _) _))
    · exact State.walkRecall_only ..

theorem State.performPost_only (s : State) (w : Posted) : PostOnly s (s.performPost w) := by
  unfold State.performPost
  split
  · exact .of (State.agentWrite_only ..)
  · dsimp only
    split
    · split
      · exact (State.engineUse_only ..).trans (.of (State.agentWrite_only ..))
      · exact State.engineUse_only ..
    · split
      · exact (State.engineUse_only ..).trans (.of (State.pkgWrite_only ..))
      · exact State.engineUse_only ..
  · exact ⟨s.cp.wseq + 1, s.pkg, State.agentWrite_only ..⟩

theorem State.post_only (s : State) (w : Posted) : PostOnly s (s.post w) := by
  unfold State.post
  split
  · exact .of (.put (.refl s) _)
  · exact State.performPost_only s w

theorem State.flush_only (s : State) : PostOnly s s.flush := .foldl State.post_only (.of (.put (.refl s) _)) _

/-- A write that nothing holds is performed at once. -/
theorem State.post_free (s : State) (w : Posted) (h : s.store.posted = []) (h' : s.postHeld w = false) : s.post w = s.performPost w := by
  simp [State.post, h, h']

/-- A journal record is written and WSEQ has risen, or the record waits; nothing else differs. -/
theorem State.journal_only (s : State) (kind queue ctx node info : Nat) :
    ∃ n, StoreOnly { s with cp := { s.cp with wseq := n } } (s.journal kind queue ctx node info) := by
  unfold State.journal State.post
  split
  · exact ⟨s.cp.wseq, rfl⟩
  · exact ⟨s.cp.wseq + 1, State.agentWrite_only ..⟩

@[simp] theorem State.journal_cycle (s : State) (kind queue ctx node info : Nat) : (s.journal kind queue ctx node info).cycle = s.cycle := (s.journal_only kind queue ctx node info).elim fun _ h => h.cycle
@[simp] theorem State.journal_agenda (s : State) (kind queue ctx node info : Nat) : (s.journal kind queue ctx node info).agenda = s.agenda := (s.journal_only kind queue ctx node info).elim fun _ h => h.agenda
@[simp] theorem State.journal_strikes (s : State) (kind queue ctx node info : Nat) : (s.journal kind queue ctx node info).strikes = s.strikes := (s.journal_only kind queue ctx node info).elim fun _ h => h.strikes
@[simp] theorem State.journal_slotsUsed (s : State) (kind queue ctx node info : Nat) : (s.journal kind queue ctx node info).slotsUsed = s.slotsUsed := (s.journal_only kind queue ctx node info).elim fun _ h => h.slotsUsed
@[simp] theorem State.journal_regrouped (s : State) (kind queue ctx node info : Nat) : (s.journal kind queue ctx node info).regrouped = s.regrouped := (s.journal_only kind queue ctx node info).elim fun _ h => h.regrouped
@[simp] theorem State.journal_closing (s : State) (kind queue ctx node info : Nat) : (s.journal kind queue ctx node info).closing = s.closing := (s.journal_only kind queue ctx node info).elim fun _ h => h.closing
@[simp] theorem State.journal_freeCtr (s : State) (kind queue ctx node info : Nat) : (s.journal kind queue ctx node info).freeCtr = s.freeCtr := (s.journal_only kind queue ctx node info).elim fun _ h => h.freeCtr
@[simp] theorem State.journal_nextId (s : State) (kind queue ctx node info : Nat) : (s.journal kind queue ctx node info).nextId = s.nextId := (s.journal_only kind queue ctx node info).elim fun _ h => h.nextId
@[simp] theorem State.journal_cur (s : State) (kind queue ctx node info : Nat) : (s.journal kind queue ctx node info).cur = s.cur := (s.journal_only kind queue ctx node info).elim fun _ h => h.cur
@[simp] theorem State.journal_crews (s : State) (kind queue ctx node info : Nat) : (s.journal kind queue ctx node info).crews = s.crews := (s.journal_only kind queue ctx node info).elim fun _ h => h.crews
@[simp] theorem State.journal_teams (s : State) (kind queue ctx node info : Nat) : (s.journal kind queue ctx node info).teams = s.teams := (s.journal_only kind queue ctx node info).elim fun _ h => h.teams
@[simp] theorem State.journal_saved (s : State) (kind queue ctx node info : Nat) : (s.journal kind queue ctx node info).saved = s.saved := (s.journal_only kind queue ctx node info).elim fun _ h => h.saved
@[simp] theorem State.journal_accs (s : State) (kind queue ctx node info : Nat) : (s.journal kind queue ctx node info).accs = s.accs := (s.journal_only kind queue ctx node info).elim fun _ h => h.accs
@[simp] theorem State.journal_accq (s : State) (kind queue ctx node info : Nat) : (s.journal kind queue ctx node info).accq = s.accq := (s.journal_only kind queue ctx node info).elim fun _ h => h.accq
@[simp] theorem State.journal_copies (s : State) (kind queue ctx node info : Nat) : (s.journal kind queue ctx node info).copies = s.copies := (s.journal_only kind queue ctx node info).elim fun _ h => h.copies
@[simp] theorem State.journal_dictlds (s : State) (kind queue ctx node info : Nat) : (s.journal kind queue ctx node info).dictlds = s.dictlds := (s.journal_only kind queue ctx node info).elim fun _ h => h.dictlds
@[simp] theorem State.journal_dicts (s : State) (kind queue ctx node info : Nat) : (s.journal kind queue ctx node info).dicts = s.dicts := (s.journal_only kind queue ctx node info).elim fun _ h => h.dicts
@[simp] theorem State.journal_drains (s : State) (kind queue ctx node info : Nat) : (s.journal kind queue ctx node info).drains = s.drains := (s.journal_only kind queue ctx node info).elim fun _ h => h.drains
@[simp] theorem State.journal_ctxs (s : State) (kind queue ctx node info : Nat) : (s.journal kind queue ctx node info).ctxs = s.ctxs := (s.journal_only kind queue ctx node info).elim fun _ h => h.ctxs
@[simp] theorem State.journal_gates (s : State) (kind queue ctx node info : Nat) : (s.journal kind queue ctx node info).gates = s.gates := (s.journal_only kind queue ctx node info).elim fun _ h => h.gates
@[simp] theorem State.journal_gtables (s : State) (kind queue ctx node info : Nat) : (s.journal kind queue ctx node info).gtables = s.gtables := (s.journal_only kind queue ctx node info).elim fun _ h => h.gtables
theorem State.journal_cp (s : State) (kind queue ctx node info : Nat) : ∃ n, (s.journal kind queue ctx node info).cp = { s.cp with wseq := n } := (s.journal_only kind queue ctx node info).elim fun n h => ⟨n, h.cp⟩
@[simp] theorem State.journal_pkg (s : State) (kind queue ctx node info : Nat) : (s.journal kind queue ctx node info).pkg = s.pkg := (s.journal_only kind queue ctx node info).elim fun _ h => h.pkg
@[simp] theorem State.journal_dbg (s : State) (kind queue ctx node info : Nat) : (s.journal kind queue ctx node info).dbg = s.dbg := (s.journal_only kind queue ctx node info).elim fun _ h => h.dbg
@[simp] theorem State.journal_rr (s : State) (kind queue ctx node info : Nat) : (s.journal kind queue ctx node info).rr = s.rr := (s.journal_only kind queue ctx node info).elim fun _ h => h.rr
@[simp] theorem State.journal_host (s : State) (kind queue ctx node info : Nat) : (s.journal kind queue ctx node info).host = s.host := (s.journal_only kind queue ctx node info).elim fun _ h => h.host

@[simp] theorem Crew.modThread_team (c : Crew) (l : Nat) (f : Thread → Thread) : (c.modThread l f).team = c.team := rfl
@[simp] theorem Crew.modThread_id (c : Crew) (l : Nat) (f : Thread → Thread) : (c.modThread l f).id = c.id := rfl
@[simp] theorem Crew.modThread_core (c : Crew) (l : Nat) (f : Thread → Thread) : (c.modThread l f).core = c.core := rfl
@[simp] theorem Crew.modThread_slot (c : Crew) (l : Nat) (f : Thread → Thread) : (c.modThread l f).slot = c.slot := rfl
@[simp] theorem Crew.modThread_creg (c : Crew) (l : Nat) (f : Thread → Thread) : (c.modThread l f).creg = c.creg := rfl
@[simp] theorem Crew.modThread_cbad (c : Crew) (l : Nat) (f : Thread → Thread) : (c.modThread l f).cbad = c.cbad := rfl
@[simp] theorem Crew.modThread_rot (c : Crew) (l : Nat) (f : Thread → Thread) : (c.modThread l f).rot = c.rot := rfl
@[simp] theorem Crew.modThread_frames (c : Crew) (l : Nat) (f : Thread → Thread) : (c.modThread l f).frames = c.frames := rfl
@[simp] theorem Crew.modThread_asid (c : Crew) (l : Nat) (f : Thread → Thread) : (c.modThread l f).asid = c.asid := rfl
@[simp] theorem Crew.modThread_secure (c : Crew) (l : Nat) (f : Thread → Thread) : (c.modThread l f).secure = c.secure := rfl
@[simp] theorem Crew.modThread_fdom (c : Crew) (l : Nat) (f : Thread → Thread) : (c.modThread l f).fdom = c.fdom := rfl
@[simp] theorem Crew.modThread_privBase (c : Crew) (l : Nat) (f : Thread → Thread) : (c.modThread l f).privBase = c.privBase := rfl
@[simp] theorem Crew.modThread_privSize (c : Crew) (l : Nat) (f : Thread → Thread) : (c.modThread l f).privSize = c.privSize := rfl
@[simp] theorem Crew.modThread_rbud (c : Crew) (l : Nat) (f : Thread → Thread) : (c.modThread l f).rbud = c.rbud := rfl
@[simp] theorem Crew.modThread_threads (c : Crew) (l : Nat) (f : Thread → Thread) : (c.modThread l f).threads = c.threads.modify l f := rfl
@[simp] theorem Crew.modThread_bundles (c : Crew) (l : Nat) (f : Thread → Thread) : (c.modThread l f).bundles = c.bundles := rfl
@[simp] theorem Crew.modThread_holds (c : Crew) (l : Nat) (f : Thread → Thread) : (c.modThread l f).holds = c.holds := rfl
@[simp] theorem Crew.modThread_coll (c : Crew) (l : Nat) (f : Thread → Thread) : (c.modThread l f).coll = c.coll := rfl
@[simp] theorem Crew.modThread_left (c : Crew) (l : Nat) (f : Thread → Thread) : (c.modThread l f).left = c.left := rfl
@[simp] theorem Crew.modThread_ended (c : Crew) (l : Nat) (f : Thread → Thread) : (c.modThread l f).ended = c.ended := rfl
@[simp] theorem Crew.modThread_latch (c : Crew) (l : Nat) (f : Thread → Thread) : (c.modThread l f).latch = c.latch := rfl
@[simp] theorem Crew.modThread_claim (c : Crew) (l : Nat) (f : Thread → Thread) : (c.modThread l f).claim = c.claim := rfl
@[simp] theorem Crew.modThread_busy (c : Crew) (l : Nat) (f : Thread → Thread) : (c.modThread l f).busy = c.busy := rfl
@[simp] theorem Crew.modThread_atPark (c : Crew) (l : Nat) (f : Thread → Thread) : (c.modThread l f).atPark = c.atPark := rfl
@[simp] theorem Crew.modThread_order (c : Crew) (l : Nat) (f : Thread → Thread) : (c.modThread l f).order = c.order := rfl
@[simp] theorem Crew.modThread_logs (c : Crew) (l : Nat) (f : Thread → Thread) : (c.modThread l f).logs = c.logs := rfl
@[simp] theorem Crew.modThread_owed (c : Crew) (l : Nat) (f : Thread → Thread) : (c.modThread l f).owed = c.owed := rfl

@[simp] theorem Crew.modLanes_team (c : Crew) (m : Mask) (f : Nat → Thread → Thread) : (c.modLanes m f).team = c.team := rfl
@[simp] theorem Crew.modLanes_id (c : Crew) (m : Mask) (f : Nat → Thread → Thread) : (c.modLanes m f).id = c.id := rfl
@[simp] theorem Crew.modLanes_core (c : Crew) (m : Mask) (f : Nat → Thread → Thread) : (c.modLanes m f).core = c.core := rfl
@[simp] theorem Crew.modLanes_slot (c : Crew) (m : Mask) (f : Nat → Thread → Thread) : (c.modLanes m f).slot = c.slot := rfl
@[simp] theorem Crew.modLanes_creg (c : Crew) (m : Mask) (f : Nat → Thread → Thread) : (c.modLanes m f).creg = c.creg := rfl
@[simp] theorem Crew.modLanes_cbad (c : Crew) (m : Mask) (f : Nat → Thread → Thread) : (c.modLanes m f).cbad = c.cbad := rfl
@[simp] theorem Crew.modLanes_rot (c : Crew) (m : Mask) (f : Nat → Thread → Thread) : (c.modLanes m f).rot = c.rot := rfl
@[simp] theorem Crew.modLanes_frames (c : Crew) (m : Mask) (f : Nat → Thread → Thread) : (c.modLanes m f).frames = c.frames := rfl
@[simp] theorem Crew.modLanes_asid (c : Crew) (m : Mask) (f : Nat → Thread → Thread) : (c.modLanes m f).asid = c.asid := rfl
@[simp] theorem Crew.modLanes_secure (c : Crew) (m : Mask) (f : Nat → Thread → Thread) : (c.modLanes m f).secure = c.secure := rfl
@[simp] theorem Crew.modLanes_fdom (c : Crew) (m : Mask) (f : Nat → Thread → Thread) : (c.modLanes m f).fdom = c.fdom := rfl
@[simp] theorem Crew.modLanes_privBase (c : Crew) (m : Mask) (f : Nat → Thread → Thread) : (c.modLanes m f).privBase = c.privBase := rfl
@[simp] theorem Crew.modLanes_privSize (c : Crew) (m : Mask) (f : Nat → Thread → Thread) : (c.modLanes m f).privSize = c.privSize := rfl
@[simp] theorem Crew.modLanes_rbud (c : Crew) (m : Mask) (f : Nat → Thread → Thread) : (c.modLanes m f).rbud = c.rbud := rfl
@[simp] theorem Crew.modLanes_threads (c : Crew) (m : Mask) (f : Nat → Thread → Thread) : (c.modLanes m f).threads = c.threads.mapIdx (fun l t => if m.getLsbD l then f l t else t) := rfl
@[simp] theorem Crew.modLanes_bundles (c : Crew) (m : Mask) (f : Nat → Thread → Thread) : (c.modLanes m f).bundles = c.bundles := rfl
@[simp] theorem Crew.modLanes_holds (c : Crew) (m : Mask) (f : Nat → Thread → Thread) : (c.modLanes m f).holds = c.holds := rfl
@[simp] theorem Crew.modLanes_coll (c : Crew) (m : Mask) (f : Nat → Thread → Thread) : (c.modLanes m f).coll = c.coll := rfl
@[simp] theorem Crew.modLanes_left (c : Crew) (m : Mask) (f : Nat → Thread → Thread) : (c.modLanes m f).left = c.left := rfl
@[simp] theorem Crew.modLanes_ended (c : Crew) (m : Mask) (f : Nat → Thread → Thread) : (c.modLanes m f).ended = c.ended := rfl
@[simp] theorem Crew.modLanes_latch (c : Crew) (m : Mask) (f : Nat → Thread → Thread) : (c.modLanes m f).latch = c.latch := rfl
@[simp] theorem Crew.modLanes_claim (c : Crew) (m : Mask) (f : Nat → Thread → Thread) : (c.modLanes m f).claim = c.claim := rfl
@[simp] theorem Crew.modLanes_busy (c : Crew) (m : Mask) (f : Nat → Thread → Thread) : (c.modLanes m f).busy = c.busy := rfl
@[simp] theorem Crew.modLanes_atPark (c : Crew) (m : Mask) (f : Nat → Thread → Thread) : (c.modLanes m f).atPark = c.atPark := rfl
@[simp] theorem Crew.modLanes_order (c : Crew) (m : Mask) (f : Nat → Thread → Thread) : (c.modLanes m f).order = c.order := rfl
@[simp] theorem Crew.modLanes_logs (c : Crew) (m : Mask) (f : Nat → Thread → Thread) : (c.modLanes m f).logs = c.logs := rfl
@[simp] theorem Crew.modLanes_owed (c : Crew) (m : Mask) (f : Nat → Thread → Thread) : (c.modLanes m f).owed = c.owed := rfl

@[simp] theorem Crew.leave_team (c : Crew) (m : Mask) : (c.leave m).team = c.team := rfl
@[simp] theorem Crew.leave_id (c : Crew) (m : Mask) : (c.leave m).id = c.id := rfl
@[simp] theorem Crew.leave_core (c : Crew) (m : Mask) : (c.leave m).core = c.core := rfl
@[simp] theorem Crew.leave_slot (c : Crew) (m : Mask) : (c.leave m).slot = c.slot := rfl
@[simp] theorem Crew.leave_creg (c : Crew) (m : Mask) : (c.leave m).creg = c.creg := rfl
@[simp] theorem Crew.leave_cbad (c : Crew) (m : Mask) : (c.leave m).cbad = c.cbad := rfl
@[simp] theorem Crew.leave_rot (c : Crew) (m : Mask) : (c.leave m).rot = c.rot := rfl
@[simp] theorem Crew.leave_frames (c : Crew) (m : Mask) : (c.leave m).frames = c.frames := rfl
@[simp] theorem Crew.leave_asid (c : Crew) (m : Mask) : (c.leave m).asid = c.asid := rfl
@[simp] theorem Crew.leave_secure (c : Crew) (m : Mask) : (c.leave m).secure = c.secure := rfl
@[simp] theorem Crew.leave_fdom (c : Crew) (m : Mask) : (c.leave m).fdom = c.fdom := rfl
@[simp] theorem Crew.leave_privBase (c : Crew) (m : Mask) : (c.leave m).privBase = c.privBase := rfl
@[simp] theorem Crew.leave_privSize (c : Crew) (m : Mask) : (c.leave m).privSize = c.privSize := rfl
@[simp] theorem Crew.leave_rbud (c : Crew) (m : Mask) : (c.leave m).rbud = c.rbud := rfl
@[simp] theorem Crew.leave_threads (c : Crew) (m : Mask) : (c.leave m).threads = c.threads := rfl
@[simp] theorem Crew.leave_bundles (c : Crew) (m : Mask) : (c.leave m).bundles = (c.bundles.map (fun b => b &&& ~~~m)).filter (· != 0) := rfl
@[simp] theorem Crew.leave_holds (c : Crew) (m : Mask) : (c.leave m).holds = c.holds := rfl
@[simp] theorem Crew.leave_coll (c : Crew) (m : Mask) : (c.leave m).coll = c.coll := rfl
@[simp] theorem Crew.leave_left (c : Crew) (m : Mask) : (c.leave m).left = c.left := rfl
@[simp] theorem Crew.leave_ended (c : Crew) (m : Mask) : (c.leave m).ended = c.ended := rfl
@[simp] theorem Crew.leave_latch (c : Crew) (m : Mask) : (c.leave m).latch = c.latch := rfl
@[simp] theorem Crew.leave_claim (c : Crew) (m : Mask) : (c.leave m).claim = c.claim := rfl
@[simp] theorem Crew.leave_busy (c : Crew) (m : Mask) : (c.leave m).busy = c.busy := rfl
@[simp] theorem Crew.leave_atPark (c : Crew) (m : Mask) : (c.leave m).atPark = c.atPark := rfl
@[simp] theorem Crew.leave_order (c : Crew) (m : Mask) : (c.leave m).order = c.order := rfl
@[simp] theorem Crew.leave_logs (c : Crew) (m : Mask) : (c.leave m).logs = c.logs := rfl
@[simp] theorem Crew.leave_owed (c : Crew) (m : Mask) : (c.leave m).owed = c.owed := rfl

@[simp] theorem Crew.rebundle_team (c : Crew) (m : Mask) : (c.rebundle m).team = c.team := rfl
@[simp] theorem Crew.rebundle_id (c : Crew) (m : Mask) : (c.rebundle m).id = c.id := rfl
@[simp] theorem Crew.rebundle_core (c : Crew) (m : Mask) : (c.rebundle m).core = c.core := rfl
@[simp] theorem Crew.rebundle_slot (c : Crew) (m : Mask) : (c.rebundle m).slot = c.slot := rfl
@[simp] theorem Crew.rebundle_creg (c : Crew) (m : Mask) : (c.rebundle m).creg = c.creg := rfl
@[simp] theorem Crew.rebundle_cbad (c : Crew) (m : Mask) : (c.rebundle m).cbad = c.cbad := rfl
@[simp] theorem Crew.rebundle_rot (c : Crew) (m : Mask) : (c.rebundle m).rot = c.rot := rfl
@[simp] theorem Crew.rebundle_frames (c : Crew) (m : Mask) : (c.rebundle m).frames = c.frames := rfl
@[simp] theorem Crew.rebundle_asid (c : Crew) (m : Mask) : (c.rebundle m).asid = c.asid := rfl
@[simp] theorem Crew.rebundle_secure (c : Crew) (m : Mask) : (c.rebundle m).secure = c.secure := rfl
@[simp] theorem Crew.rebundle_fdom (c : Crew) (m : Mask) : (c.rebundle m).fdom = c.fdom := rfl
@[simp] theorem Crew.rebundle_privBase (c : Crew) (m : Mask) : (c.rebundle m).privBase = c.privBase := rfl
@[simp] theorem Crew.rebundle_privSize (c : Crew) (m : Mask) : (c.rebundle m).privSize = c.privSize := rfl
@[simp] theorem Crew.rebundle_rbud (c : Crew) (m : Mask) : (c.rebundle m).rbud = c.rbud := rfl
@[simp] theorem Crew.rebundle_holds (c : Crew) (m : Mask) : (c.rebundle m).holds = c.holds := rfl
@[simp] theorem Crew.rebundle_coll (c : Crew) (m : Mask) : (c.rebundle m).coll = c.coll := rfl
@[simp] theorem Crew.rebundle_left (c : Crew) (m : Mask) : (c.rebundle m).left = c.left := rfl
@[simp] theorem Crew.rebundle_ended (c : Crew) (m : Mask) : (c.rebundle m).ended = c.ended := rfl
@[simp] theorem Crew.rebundle_latch (c : Crew) (m : Mask) : (c.rebundle m).latch = c.latch := rfl
@[simp] theorem Crew.rebundle_claim (c : Crew) (m : Mask) : (c.rebundle m).claim = c.claim := rfl
@[simp] theorem Crew.rebundle_busy (c : Crew) (m : Mask) : (c.rebundle m).busy = c.busy := rfl
@[simp] theorem Crew.rebundle_atPark (c : Crew) (m : Mask) : (c.rebundle m).atPark = c.atPark := rfl
@[simp] theorem Crew.rebundle_order (c : Crew) (m : Mask) : (c.rebundle m).order = c.order := rfl
@[simp] theorem Crew.rebundle_logs (c : Crew) (m : Mask) : (c.rebundle m).logs = c.logs := rfl
@[simp] theorem Crew.rebundle_owed (c : Crew) (m : Mask) : (c.rebundle m).owed = c.owed := rfl

@[simp] theorem Crew.stall_team (c : Crew) (m : Mask) (w : Why) : (c.stall m w).team = c.team := rfl
@[simp] theorem Crew.stall_id (c : Crew) (m : Mask) (w : Why) : (c.stall m w).id = c.id := rfl
@[simp] theorem Crew.stall_core (c : Crew) (m : Mask) (w : Why) : (c.stall m w).core = c.core := rfl
@[simp] theorem Crew.stall_slot (c : Crew) (m : Mask) (w : Why) : (c.stall m w).slot = c.slot := rfl
@[simp] theorem Crew.stall_creg (c : Crew) (m : Mask) (w : Why) : (c.stall m w).creg = c.creg := rfl
@[simp] theorem Crew.stall_cbad (c : Crew) (m : Mask) (w : Why) : (c.stall m w).cbad = c.cbad := rfl
@[simp] theorem Crew.stall_rot (c : Crew) (m : Mask) (w : Why) : (c.stall m w).rot = c.rot := rfl
@[simp] theorem Crew.stall_frames (c : Crew) (m : Mask) (w : Why) : (c.stall m w).frames = c.frames := rfl
@[simp] theorem Crew.stall_asid (c : Crew) (m : Mask) (w : Why) : (c.stall m w).asid = c.asid := rfl
@[simp] theorem Crew.stall_secure (c : Crew) (m : Mask) (w : Why) : (c.stall m w).secure = c.secure := rfl
@[simp] theorem Crew.stall_fdom (c : Crew) (m : Mask) (w : Why) : (c.stall m w).fdom = c.fdom := rfl
@[simp] theorem Crew.stall_privBase (c : Crew) (m : Mask) (w : Why) : (c.stall m w).privBase = c.privBase := rfl
@[simp] theorem Crew.stall_privSize (c : Crew) (m : Mask) (w : Why) : (c.stall m w).privSize = c.privSize := rfl
@[simp] theorem Crew.stall_rbud (c : Crew) (m : Mask) (w : Why) : (c.stall m w).rbud = c.rbud := rfl
@[simp] theorem Crew.stall_bundles (c : Crew) (m : Mask) (w : Why) : (c.stall m w).bundles = c.bundles := rfl
@[simp] theorem Crew.stall_holds (c : Crew) (m : Mask) (w : Why) : (c.stall m w).holds = c.holds := rfl
@[simp] theorem Crew.stall_coll (c : Crew) (m : Mask) (w : Why) : (c.stall m w).coll = c.coll := rfl
@[simp] theorem Crew.stall_left (c : Crew) (m : Mask) (w : Why) : (c.stall m w).left = c.left := rfl
@[simp] theorem Crew.stall_ended (c : Crew) (m : Mask) (w : Why) : (c.stall m w).ended = c.ended := rfl
@[simp] theorem Crew.stall_latch (c : Crew) (m : Mask) (w : Why) : (c.stall m w).latch = c.latch := rfl
@[simp] theorem Crew.stall_claim (c : Crew) (m : Mask) (w : Why) : (c.stall m w).claim = c.claim := rfl
@[simp] theorem Crew.stall_busy (c : Crew) (m : Mask) (w : Why) : (c.stall m w).busy = c.busy := rfl
@[simp] theorem Crew.stall_atPark (c : Crew) (m : Mask) (w : Why) : (c.stall m w).atPark = c.atPark := rfl
@[simp] theorem Crew.stall_order (c : Crew) (m : Mask) (w : Why) : (c.stall m w).order = c.order := rfl
@[simp] theorem Crew.stall_logs (c : Crew) (m : Mask) (w : Why) : (c.stall m w).logs = c.logs := rfl
@[simp] theorem Crew.stall_owed (c : Crew) (m : Mask) (w : Why) : (c.stall m w).owed = c.owed := rfl

@[simp] theorem Crew.enter_team (c : Crew) (m : Mask) (st : TState) (w : Why) : (c.enter m st w).team = c.team := rfl
@[simp] theorem Crew.enter_id (c : Crew) (m : Mask) (st : TState) (w : Why) : (c.enter m st w).id = c.id := rfl
@[simp] theorem Crew.enter_core (c : Crew) (m : Mask) (st : TState) (w : Why) : (c.enter m st w).core = c.core := rfl
@[simp] theorem Crew.enter_slot (c : Crew) (m : Mask) (st : TState) (w : Why) : (c.enter m st w).slot = c.slot := rfl
@[simp] theorem Crew.enter_creg (c : Crew) (m : Mask) (st : TState) (w : Why) : (c.enter m st w).creg = c.creg := rfl
@[simp] theorem Crew.enter_cbad (c : Crew) (m : Mask) (st : TState) (w : Why) : (c.enter m st w).cbad = c.cbad := rfl
@[simp] theorem Crew.enter_rot (c : Crew) (m : Mask) (st : TState) (w : Why) : (c.enter m st w).rot = c.rot := rfl
@[simp] theorem Crew.enter_frames (c : Crew) (m : Mask) (st : TState) (w : Why) : (c.enter m st w).frames = c.frames := rfl
@[simp] theorem Crew.enter_asid (c : Crew) (m : Mask) (st : TState) (w : Why) : (c.enter m st w).asid = c.asid := rfl
@[simp] theorem Crew.enter_secure (c : Crew) (m : Mask) (st : TState) (w : Why) : (c.enter m st w).secure = c.secure := rfl
@[simp] theorem Crew.enter_fdom (c : Crew) (m : Mask) (st : TState) (w : Why) : (c.enter m st w).fdom = c.fdom := rfl
@[simp] theorem Crew.enter_privBase (c : Crew) (m : Mask) (st : TState) (w : Why) : (c.enter m st w).privBase = c.privBase := rfl
@[simp] theorem Crew.enter_privSize (c : Crew) (m : Mask) (st : TState) (w : Why) : (c.enter m st w).privSize = c.privSize := rfl
@[simp] theorem Crew.enter_rbud (c : Crew) (m : Mask) (st : TState) (w : Why) : (c.enter m st w).rbud = c.rbud := rfl
@[simp] theorem Crew.enter_holds (c : Crew) (m : Mask) (st : TState) (w : Why) : (c.enter m st w).holds = c.holds := rfl
@[simp] theorem Crew.enter_coll (c : Crew) (m : Mask) (st : TState) (w : Why) : (c.enter m st w).coll = c.coll := rfl
@[simp] theorem Crew.enter_left (c : Crew) (m : Mask) (st : TState) (w : Why) : (c.enter m st w).left = c.left := rfl
@[simp] theorem Crew.enter_ended (c : Crew) (m : Mask) (st : TState) (w : Why) : (c.enter m st w).ended = c.ended := rfl
@[simp] theorem Crew.enter_latch (c : Crew) (m : Mask) (st : TState) (w : Why) : (c.enter m st w).latch = c.latch := rfl
@[simp] theorem Crew.enter_claim (c : Crew) (m : Mask) (st : TState) (w : Why) : (c.enter m st w).claim = c.claim := rfl
@[simp] theorem Crew.enter_busy (c : Crew) (m : Mask) (st : TState) (w : Why) : (c.enter m st w).busy = c.busy := rfl
@[simp] theorem Crew.enter_atPark (c : Crew) (m : Mask) (st : TState) (w : Why) : (c.enter m st w).atPark = c.atPark := rfl
@[simp] theorem Crew.enter_order (c : Crew) (m : Mask) (st : TState) (w : Why) : (c.enter m st w).order = c.order := rfl
@[simp] theorem Crew.enter_logs (c : Crew) (m : Mask) (st : TState) (w : Why) : (c.enter m st w).logs = c.logs := rfl
@[simp] theorem Crew.enter_owed (c : Crew) (m : Mask) (st : TState) (w : Why) : (c.enter m st w).owed = c.owed := rfl

@[simp] theorem Crew.wake_team (c : Crew) (m : Mask) : (c.wake m).team = c.team := by simp only [Crew.wake, Crew.rebundle_team, Crew.modLanes_team]
@[simp] theorem Crew.wake_id (c : Crew) (m : Mask) : (c.wake m).id = c.id := by simp only [Crew.wake, Crew.rebundle_id, Crew.modLanes_id]
@[simp] theorem Crew.wake_core (c : Crew) (m : Mask) : (c.wake m).core = c.core := by simp only [Crew.wake, Crew.rebundle_core, Crew.modLanes_core]
@[simp] theorem Crew.wake_slot (c : Crew) (m : Mask) : (c.wake m).slot = c.slot := by simp only [Crew.wake, Crew.rebundle_slot, Crew.modLanes_slot]
@[simp] theorem Crew.wake_creg (c : Crew) (m : Mask) : (c.wake m).creg = c.creg := by simp only [Crew.wake, Crew.rebundle_creg, Crew.modLanes_creg]
@[simp] theorem Crew.wake_cbad (c : Crew) (m : Mask) : (c.wake m).cbad = c.cbad := by simp only [Crew.wake, Crew.rebundle_cbad, Crew.modLanes_cbad]
@[simp] theorem Crew.wake_rot (c : Crew) (m : Mask) : (c.wake m).rot = c.rot := by simp only [Crew.wake, Crew.rebundle_rot, Crew.modLanes_rot]
@[simp] theorem Crew.wake_frames (c : Crew) (m : Mask) : (c.wake m).frames = c.frames := by simp only [Crew.wake, Crew.rebundle_frames, Crew.modLanes_frames]
@[simp] theorem Crew.wake_asid (c : Crew) (m : Mask) : (c.wake m).asid = c.asid := by simp only [Crew.wake, Crew.rebundle_asid, Crew.modLanes_asid]
@[simp] theorem Crew.wake_secure (c : Crew) (m : Mask) : (c.wake m).secure = c.secure := by simp only [Crew.wake, Crew.rebundle_secure, Crew.modLanes_secure]
@[simp] theorem Crew.wake_fdom (c : Crew) (m : Mask) : (c.wake m).fdom = c.fdom := by simp only [Crew.wake, Crew.rebundle_fdom, Crew.modLanes_fdom]
@[simp] theorem Crew.wake_privBase (c : Crew) (m : Mask) : (c.wake m).privBase = c.privBase := by simp only [Crew.wake, Crew.rebundle_privBase, Crew.modLanes_privBase]
@[simp] theorem Crew.wake_privSize (c : Crew) (m : Mask) : (c.wake m).privSize = c.privSize := by simp only [Crew.wake, Crew.rebundle_privSize, Crew.modLanes_privSize]
@[simp] theorem Crew.wake_rbud (c : Crew) (m : Mask) : (c.wake m).rbud = c.rbud := by simp only [Crew.wake, Crew.rebundle_rbud, Crew.modLanes_rbud]
@[simp] theorem Crew.wake_holds (c : Crew) (m : Mask) : (c.wake m).holds = c.holds := by simp only [Crew.wake, Crew.rebundle_holds, Crew.modLanes_holds]
@[simp] theorem Crew.wake_coll (c : Crew) (m : Mask) : (c.wake m).coll = c.coll := by simp only [Crew.wake, Crew.rebundle_coll, Crew.modLanes_coll]
@[simp] theorem Crew.wake_left (c : Crew) (m : Mask) : (c.wake m).left = c.left := by simp only [Crew.wake, Crew.rebundle_left, Crew.modLanes_left]
@[simp] theorem Crew.wake_ended (c : Crew) (m : Mask) : (c.wake m).ended = c.ended := by simp only [Crew.wake, Crew.rebundle_ended, Crew.modLanes_ended]
@[simp] theorem Crew.wake_latch (c : Crew) (m : Mask) : (c.wake m).latch = c.latch := by simp only [Crew.wake, Crew.rebundle_latch, Crew.modLanes_latch]
@[simp] theorem Crew.wake_claim (c : Crew) (m : Mask) : (c.wake m).claim = c.claim := by simp only [Crew.wake, Crew.rebundle_claim, Crew.modLanes_claim]
@[simp] theorem Crew.wake_busy (c : Crew) (m : Mask) : (c.wake m).busy = c.busy := by simp only [Crew.wake, Crew.rebundle_busy, Crew.modLanes_busy]
@[simp] theorem Crew.wake_atPark (c : Crew) (m : Mask) : (c.wake m).atPark = c.atPark := by simp only [Crew.wake, Crew.rebundle_atPark, Crew.modLanes_atPark]
@[simp] theorem Crew.wake_order (c : Crew) (m : Mask) : (c.wake m).order = c.order := by simp only [Crew.wake, Crew.rebundle_order, Crew.modLanes_order]
@[simp] theorem Crew.wake_logs (c : Crew) (m : Mask) : (c.wake m).logs = c.logs := by simp only [Crew.wake, Crew.rebundle_logs, Crew.modLanes_logs]
@[simp] theorem Crew.wake_owed (c : Crew) (m : Mask) : (c.wake m).owed = c.owed := by simp only [Crew.wake, Crew.rebundle_owed, Crew.modLanes_owed]

@[simp] theorem Crew.addCause_team (c : Crew) (m : Mask) (p : ParkCause) : (c.addCause m p).team = c.team := rfl
@[simp] theorem Crew.addCause_id (c : Crew) (m : Mask) (p : ParkCause) : (c.addCause m p).id = c.id := rfl
@[simp] theorem Crew.addCause_core (c : Crew) (m : Mask) (p : ParkCause) : (c.addCause m p).core = c.core := rfl
@[simp] theorem Crew.addCause_slot (c : Crew) (m : Mask) (p : ParkCause) : (c.addCause m p).slot = c.slot := rfl
@[simp] theorem Crew.addCause_creg (c : Crew) (m : Mask) (p : ParkCause) : (c.addCause m p).creg = c.creg := rfl
@[simp] theorem Crew.addCause_cbad (c : Crew) (m : Mask) (p : ParkCause) : (c.addCause m p).cbad = c.cbad := rfl
@[simp] theorem Crew.addCause_rot (c : Crew) (m : Mask) (p : ParkCause) : (c.addCause m p).rot = c.rot := rfl
@[simp] theorem Crew.addCause_frames (c : Crew) (m : Mask) (p : ParkCause) : (c.addCause m p).frames = c.frames := rfl
@[simp] theorem Crew.addCause_asid (c : Crew) (m : Mask) (p : ParkCause) : (c.addCause m p).asid = c.asid := rfl
@[simp] theorem Crew.addCause_secure (c : Crew) (m : Mask) (p : ParkCause) : (c.addCause m p).secure = c.secure := rfl
@[simp] theorem Crew.addCause_fdom (c : Crew) (m : Mask) (p : ParkCause) : (c.addCause m p).fdom = c.fdom := rfl
@[simp] theorem Crew.addCause_privBase (c : Crew) (m : Mask) (p : ParkCause) : (c.addCause m p).privBase = c.privBase := rfl
@[simp] theorem Crew.addCause_privSize (c : Crew) (m : Mask) (p : ParkCause) : (c.addCause m p).privSize = c.privSize := rfl
@[simp] theorem Crew.addCause_rbud (c : Crew) (m : Mask) (p : ParkCause) : (c.addCause m p).rbud = c.rbud := rfl
@[simp] theorem Crew.addCause_holds (c : Crew) (m : Mask) (p : ParkCause) : (c.addCause m p).holds = c.holds := rfl
@[simp] theorem Crew.addCause_coll (c : Crew) (m : Mask) (p : ParkCause) : (c.addCause m p).coll = c.coll := rfl
@[simp] theorem Crew.addCause_ended (c : Crew) (m : Mask) (p : ParkCause) : (c.addCause m p).ended = c.ended := rfl
@[simp] theorem Crew.addCause_latch (c : Crew) (m : Mask) (p : ParkCause) : (c.addCause m p).latch = c.latch := rfl
@[simp] theorem Crew.addCause_claim (c : Crew) (m : Mask) (p : ParkCause) : (c.addCause m p).claim = c.claim := rfl
@[simp] theorem Crew.addCause_busy (c : Crew) (m : Mask) (p : ParkCause) : (c.addCause m p).busy = c.busy := rfl
@[simp] theorem Crew.addCause_atPark (c : Crew) (m : Mask) (p : ParkCause) : (c.addCause m p).atPark = c.atPark := rfl
@[simp] theorem Crew.addCause_order (c : Crew) (m : Mask) (p : ParkCause) : (c.addCause m p).order = c.order := rfl
@[simp] theorem Crew.addCause_logs (c : Crew) (m : Mask) (p : ParkCause) : (c.addCause m p).logs = c.logs := rfl
@[simp] theorem Crew.addCause_owed (c : Crew) (m : Mask) (p : ParkCause) : (c.addCause m p).owed = c.owed := rfl

@[simp] theorem Crew.exitLanes_team (c : Crew) (m : Mask) : (c.exitLanes m).team = c.team := rfl
@[simp] theorem Crew.exitLanes_id (c : Crew) (m : Mask) : (c.exitLanes m).id = c.id := rfl
@[simp] theorem Crew.exitLanes_core (c : Crew) (m : Mask) : (c.exitLanes m).core = c.core := rfl
@[simp] theorem Crew.exitLanes_slot (c : Crew) (m : Mask) : (c.exitLanes m).slot = c.slot := rfl
@[simp] theorem Crew.exitLanes_creg (c : Crew) (m : Mask) : (c.exitLanes m).creg = c.creg := rfl
@[simp] theorem Crew.exitLanes_cbad (c : Crew) (m : Mask) : (c.exitLanes m).cbad = c.cbad := rfl
@[simp] theorem Crew.exitLanes_rot (c : Crew) (m : Mask) : (c.exitLanes m).rot = c.rot := rfl
@[simp] theorem Crew.exitLanes_frames (c : Crew) (m : Mask) : (c.exitLanes m).frames = c.frames := rfl
@[simp] theorem Crew.exitLanes_asid (c : Crew) (m : Mask) : (c.exitLanes m).asid = c.asid := rfl
@[simp] theorem Crew.exitLanes_secure (c : Crew) (m : Mask) : (c.exitLanes m).secure = c.secure := rfl
@[simp] theorem Crew.exitLanes_fdom (c : Crew) (m : Mask) : (c.exitLanes m).fdom = c.fdom := rfl
@[simp] theorem Crew.exitLanes_privBase (c : Crew) (m : Mask) : (c.exitLanes m).privBase = c.privBase := rfl
@[simp] theorem Crew.exitLanes_privSize (c : Crew) (m : Mask) : (c.exitLanes m).privSize = c.privSize := rfl
@[simp] theorem Crew.exitLanes_rbud (c : Crew) (m : Mask) : (c.exitLanes m).rbud = c.rbud := rfl
@[simp] theorem Crew.exitLanes_holds (c : Crew) (m : Mask) : (c.exitLanes m).holds = c.holds := rfl
@[simp] theorem Crew.exitLanes_coll (c : Crew) (m : Mask) : (c.exitLanes m).coll = c.coll := rfl
@[simp] theorem Crew.exitLanes_left (c : Crew) (m : Mask) : (c.exitLanes m).left = c.left := rfl
@[simp] theorem Crew.exitLanes_ended (c : Crew) (m : Mask) : (c.exitLanes m).ended = c.ended := rfl
@[simp] theorem Crew.exitLanes_latch (c : Crew) (m : Mask) : (c.exitLanes m).latch = c.latch := rfl
@[simp] theorem Crew.exitLanes_claim (c : Crew) (m : Mask) : (c.exitLanes m).claim = c.claim := rfl
@[simp] theorem Crew.exitLanes_busy (c : Crew) (m : Mask) : (c.exitLanes m).busy = c.busy := rfl
@[simp] theorem Crew.exitLanes_atPark (c : Crew) (m : Mask) : (c.exitLanes m).atPark = c.atPark := rfl
@[simp] theorem Crew.exitLanes_order (c : Crew) (m : Mask) : (c.exitLanes m).order = c.order := rfl
@[simp] theorem Crew.exitLanes_logs (c : Crew) (m : Mask) : (c.exitLanes m).logs = c.logs := rfl
@[simp] theorem Crew.exitLanes_owed (c : Crew) (m : Mask) : (c.exitLanes m).owed = c.owed := rfl

@[simp] theorem Crew.unpark_team (c : Crew) (m : Mask) : (c.unpark m).team = c.team := by simp only [Crew.unpark, Crew.wake_team, Crew.modLanes_team]
@[simp] theorem Crew.unpark_id (c : Crew) (m : Mask) : (c.unpark m).id = c.id := by simp only [Crew.unpark, Crew.wake_id, Crew.modLanes_id]
@[simp] theorem Crew.unpark_core (c : Crew) (m : Mask) : (c.unpark m).core = c.core := by simp only [Crew.unpark, Crew.wake_core, Crew.modLanes_core]
@[simp] theorem Crew.unpark_slot (c : Crew) (m : Mask) : (c.unpark m).slot = c.slot := by simp only [Crew.unpark, Crew.wake_slot, Crew.modLanes_slot]
@[simp] theorem Crew.unpark_creg (c : Crew) (m : Mask) : (c.unpark m).creg = c.creg := by simp only [Crew.unpark, Crew.wake_creg, Crew.modLanes_creg]
@[simp] theorem Crew.unpark_cbad (c : Crew) (m : Mask) : (c.unpark m).cbad = c.cbad := by simp only [Crew.unpark, Crew.wake_cbad, Crew.modLanes_cbad]
@[simp] theorem Crew.unpark_rot (c : Crew) (m : Mask) : (c.unpark m).rot = c.rot := by simp only [Crew.unpark, Crew.wake_rot, Crew.modLanes_rot]
@[simp] theorem Crew.unpark_frames (c : Crew) (m : Mask) : (c.unpark m).frames = c.frames := by simp only [Crew.unpark, Crew.wake_frames, Crew.modLanes_frames]
@[simp] theorem Crew.unpark_asid (c : Crew) (m : Mask) : (c.unpark m).asid = c.asid := by simp only [Crew.unpark, Crew.wake_asid, Crew.modLanes_asid]
@[simp] theorem Crew.unpark_secure (c : Crew) (m : Mask) : (c.unpark m).secure = c.secure := by simp only [Crew.unpark, Crew.wake_secure, Crew.modLanes_secure]
@[simp] theorem Crew.unpark_fdom (c : Crew) (m : Mask) : (c.unpark m).fdom = c.fdom := by simp only [Crew.unpark, Crew.wake_fdom, Crew.modLanes_fdom]
@[simp] theorem Crew.unpark_privBase (c : Crew) (m : Mask) : (c.unpark m).privBase = c.privBase := by simp only [Crew.unpark, Crew.wake_privBase, Crew.modLanes_privBase]
@[simp] theorem Crew.unpark_privSize (c : Crew) (m : Mask) : (c.unpark m).privSize = c.privSize := by simp only [Crew.unpark, Crew.wake_privSize, Crew.modLanes_privSize]
@[simp] theorem Crew.unpark_rbud (c : Crew) (m : Mask) : (c.unpark m).rbud = c.rbud := by simp only [Crew.unpark, Crew.wake_rbud, Crew.modLanes_rbud]
@[simp] theorem Crew.unpark_holds (c : Crew) (m : Mask) : (c.unpark m).holds = c.holds := by simp only [Crew.unpark, Crew.wake_holds, Crew.modLanes_holds]
@[simp] theorem Crew.unpark_coll (c : Crew) (m : Mask) : (c.unpark m).coll = c.coll := by simp only [Crew.unpark, Crew.wake_coll, Crew.modLanes_coll]
@[simp] theorem Crew.unpark_left (c : Crew) (m : Mask) : (c.unpark m).left = c.left := by simp only [Crew.unpark, Crew.wake_left, Crew.modLanes_left]
@[simp] theorem Crew.unpark_ended (c : Crew) (m : Mask) : (c.unpark m).ended = c.ended := by simp only [Crew.unpark, Crew.wake_ended, Crew.modLanes_ended]
@[simp] theorem Crew.unpark_latch (c : Crew) (m : Mask) : (c.unpark m).latch = c.latch := by simp only [Crew.unpark, Crew.wake_latch, Crew.modLanes_latch]
@[simp] theorem Crew.unpark_claim (c : Crew) (m : Mask) : (c.unpark m).claim = c.claim := by simp only [Crew.unpark, Crew.wake_claim, Crew.modLanes_claim]
@[simp] theorem Crew.unpark_busy (c : Crew) (m : Mask) : (c.unpark m).busy = c.busy := by simp only [Crew.unpark, Crew.wake_busy, Crew.modLanes_busy]
@[simp] theorem Crew.unpark_atPark (c : Crew) (m : Mask) : (c.unpark m).atPark = c.atPark := by simp only [Crew.unpark, Crew.wake_atPark, Crew.modLanes_atPark]
@[simp] theorem Crew.unpark_order (c : Crew) (m : Mask) : (c.unpark m).order = c.order := by simp only [Crew.unpark, Crew.wake_order, Crew.modLanes_order]
@[simp] theorem Crew.unpark_logs (c : Crew) (m : Mask) : (c.unpark m).logs = c.logs := by simp only [Crew.unpark, Crew.wake_logs, Crew.modLanes_logs]
@[simp] theorem Crew.unpark_owed (c : Crew) (m : Mask) : (c.unpark m).owed = c.owed := by simp only [Crew.unpark, Crew.wake_owed, Crew.modLanes_owed]

@[simp] theorem Crew.clearCauses_team (c : Crew) (m : Mask) (p : ParkCause → Bool) : (c.clearCauses m p).team = c.team := by simp only [Crew.clearCauses, Crew.unpark_team, Crew.modLanes_team]
@[simp] theorem Crew.clearCauses_id (c : Crew) (m : Mask) (p : ParkCause → Bool) : (c.clearCauses m p).id = c.id := by simp only [Crew.clearCauses, Crew.unpark_id, Crew.modLanes_id]
@[simp] theorem Crew.clearCauses_core (c : Crew) (m : Mask) (p : ParkCause → Bool) : (c.clearCauses m p).core = c.core := by simp only [Crew.clearCauses, Crew.unpark_core, Crew.modLanes_core]
@[simp] theorem Crew.clearCauses_slot (c : Crew) (m : Mask) (p : ParkCause → Bool) : (c.clearCauses m p).slot = c.slot := by simp only [Crew.clearCauses, Crew.unpark_slot, Crew.modLanes_slot]
@[simp] theorem Crew.clearCauses_creg (c : Crew) (m : Mask) (p : ParkCause → Bool) : (c.clearCauses m p).creg = c.creg := by simp only [Crew.clearCauses, Crew.unpark_creg, Crew.modLanes_creg]
@[simp] theorem Crew.clearCauses_cbad (c : Crew) (m : Mask) (p : ParkCause → Bool) : (c.clearCauses m p).cbad = c.cbad := by simp only [Crew.clearCauses, Crew.unpark_cbad, Crew.modLanes_cbad]
@[simp] theorem Crew.clearCauses_rot (c : Crew) (m : Mask) (p : ParkCause → Bool) : (c.clearCauses m p).rot = c.rot := by simp only [Crew.clearCauses, Crew.unpark_rot, Crew.modLanes_rot]
@[simp] theorem Crew.clearCauses_frames (c : Crew) (m : Mask) (p : ParkCause → Bool) : (c.clearCauses m p).frames = c.frames := by simp only [Crew.clearCauses, Crew.unpark_frames, Crew.modLanes_frames]
@[simp] theorem Crew.clearCauses_asid (c : Crew) (m : Mask) (p : ParkCause → Bool) : (c.clearCauses m p).asid = c.asid := by simp only [Crew.clearCauses, Crew.unpark_asid, Crew.modLanes_asid]
@[simp] theorem Crew.clearCauses_secure (c : Crew) (m : Mask) (p : ParkCause → Bool) : (c.clearCauses m p).secure = c.secure := by simp only [Crew.clearCauses, Crew.unpark_secure, Crew.modLanes_secure]
@[simp] theorem Crew.clearCauses_fdom (c : Crew) (m : Mask) (p : ParkCause → Bool) : (c.clearCauses m p).fdom = c.fdom := by simp only [Crew.clearCauses, Crew.unpark_fdom, Crew.modLanes_fdom]
@[simp] theorem Crew.clearCauses_privBase (c : Crew) (m : Mask) (p : ParkCause → Bool) : (c.clearCauses m p).privBase = c.privBase := by simp only [Crew.clearCauses, Crew.unpark_privBase, Crew.modLanes_privBase]
@[simp] theorem Crew.clearCauses_privSize (c : Crew) (m : Mask) (p : ParkCause → Bool) : (c.clearCauses m p).privSize = c.privSize := by simp only [Crew.clearCauses, Crew.unpark_privSize, Crew.modLanes_privSize]
@[simp] theorem Crew.clearCauses_rbud (c : Crew) (m : Mask) (p : ParkCause → Bool) : (c.clearCauses m p).rbud = c.rbud := by simp only [Crew.clearCauses, Crew.unpark_rbud, Crew.modLanes_rbud]
@[simp] theorem Crew.clearCauses_holds (c : Crew) (m : Mask) (p : ParkCause → Bool) : (c.clearCauses m p).holds = c.holds := by simp only [Crew.clearCauses, Crew.unpark_holds, Crew.modLanes_holds]
@[simp] theorem Crew.clearCauses_coll (c : Crew) (m : Mask) (p : ParkCause → Bool) : (c.clearCauses m p).coll = c.coll := by simp only [Crew.clearCauses, Crew.unpark_coll, Crew.modLanes_coll]
@[simp] theorem Crew.clearCauses_left (c : Crew) (m : Mask) (p : ParkCause → Bool) : (c.clearCauses m p).left = c.left := by simp only [Crew.clearCauses, Crew.unpark_left, Crew.modLanes_left]
@[simp] theorem Crew.clearCauses_ended (c : Crew) (m : Mask) (p : ParkCause → Bool) : (c.clearCauses m p).ended = c.ended := by simp only [Crew.clearCauses, Crew.unpark_ended, Crew.modLanes_ended]
@[simp] theorem Crew.clearCauses_latch (c : Crew) (m : Mask) (p : ParkCause → Bool) : (c.clearCauses m p).latch = c.latch := by simp only [Crew.clearCauses, Crew.unpark_latch, Crew.modLanes_latch]
@[simp] theorem Crew.clearCauses_claim (c : Crew) (m : Mask) (p : ParkCause → Bool) : (c.clearCauses m p).claim = c.claim := by simp only [Crew.clearCauses, Crew.unpark_claim, Crew.modLanes_claim]
@[simp] theorem Crew.clearCauses_busy (c : Crew) (m : Mask) (p : ParkCause → Bool) : (c.clearCauses m p).busy = c.busy := by simp only [Crew.clearCauses, Crew.unpark_busy, Crew.modLanes_busy]
@[simp] theorem Crew.clearCauses_atPark (c : Crew) (m : Mask) (p : ParkCause → Bool) : (c.clearCauses m p).atPark = c.atPark := by simp only [Crew.clearCauses, Crew.unpark_atPark, Crew.modLanes_atPark]
@[simp] theorem Crew.clearCauses_order (c : Crew) (m : Mask) (p : ParkCause → Bool) : (c.clearCauses m p).order = c.order := by simp only [Crew.clearCauses, Crew.unpark_order, Crew.modLanes_order]
@[simp] theorem Crew.clearCauses_logs (c : Crew) (m : Mask) (p : ParkCause → Bool) : (c.clearCauses m p).logs = c.logs := by simp only [Crew.clearCauses, Crew.unpark_logs, Crew.modLanes_logs]
@[simp] theorem Crew.clearCauses_owed (c : Crew) (m : Mask) (p : ParkCause → Bool) : (c.clearCauses m p).owed = c.owed := by simp only [Crew.clearCauses, Crew.unpark_owed, Crew.modLanes_owed]

@[simp] theorem Crew.advance_team (c : Crew) (m : Mask) (cy : Nat) (f : Nat → Thread → DWord) : (c.advance m cy f).team = c.team := by simp only [Crew.advance, Crew.rebundle_team, Crew.modLanes_team]
@[simp] theorem Crew.advance_id (c : Crew) (m : Mask) (cy : Nat) (f : Nat → Thread → DWord) : (c.advance m cy f).id = c.id := by simp only [Crew.advance, Crew.rebundle_id, Crew.modLanes_id]
@[simp] theorem Crew.advance_core (c : Crew) (m : Mask) (cy : Nat) (f : Nat → Thread → DWord) : (c.advance m cy f).core = c.core := by simp only [Crew.advance, Crew.rebundle_core, Crew.modLanes_core]
@[simp] theorem Crew.advance_slot (c : Crew) (m : Mask) (cy : Nat) (f : Nat → Thread → DWord) : (c.advance m cy f).slot = c.slot := by simp only [Crew.advance, Crew.rebundle_slot, Crew.modLanes_slot]
@[simp] theorem Crew.advance_creg (c : Crew) (m : Mask) (cy : Nat) (f : Nat → Thread → DWord) : (c.advance m cy f).creg = c.creg := by simp only [Crew.advance, Crew.rebundle_creg, Crew.modLanes_creg]
@[simp] theorem Crew.advance_cbad (c : Crew) (m : Mask) (cy : Nat) (f : Nat → Thread → DWord) : (c.advance m cy f).cbad = c.cbad := by simp only [Crew.advance, Crew.rebundle_cbad, Crew.modLanes_cbad]
@[simp] theorem Crew.advance_rot (c : Crew) (m : Mask) (cy : Nat) (f : Nat → Thread → DWord) : (c.advance m cy f).rot = c.rot := by simp only [Crew.advance, Crew.rebundle_rot, Crew.modLanes_rot]
@[simp] theorem Crew.advance_frames (c : Crew) (m : Mask) (cy : Nat) (f : Nat → Thread → DWord) : (c.advance m cy f).frames = c.frames := by simp only [Crew.advance, Crew.rebundle_frames, Crew.modLanes_frames]
@[simp] theorem Crew.advance_asid (c : Crew) (m : Mask) (cy : Nat) (f : Nat → Thread → DWord) : (c.advance m cy f).asid = c.asid := by simp only [Crew.advance, Crew.rebundle_asid, Crew.modLanes_asid]
@[simp] theorem Crew.advance_secure (c : Crew) (m : Mask) (cy : Nat) (f : Nat → Thread → DWord) : (c.advance m cy f).secure = c.secure := by simp only [Crew.advance, Crew.rebundle_secure, Crew.modLanes_secure]
@[simp] theorem Crew.advance_fdom (c : Crew) (m : Mask) (cy : Nat) (f : Nat → Thread → DWord) : (c.advance m cy f).fdom = c.fdom := by simp only [Crew.advance, Crew.rebundle_fdom, Crew.modLanes_fdom]
@[simp] theorem Crew.advance_privBase (c : Crew) (m : Mask) (cy : Nat) (f : Nat → Thread → DWord) : (c.advance m cy f).privBase = c.privBase := by simp only [Crew.advance, Crew.rebundle_privBase, Crew.modLanes_privBase]
@[simp] theorem Crew.advance_privSize (c : Crew) (m : Mask) (cy : Nat) (f : Nat → Thread → DWord) : (c.advance m cy f).privSize = c.privSize := by simp only [Crew.advance, Crew.rebundle_privSize, Crew.modLanes_privSize]
@[simp] theorem Crew.advance_rbud (c : Crew) (m : Mask) (cy : Nat) (f : Nat → Thread → DWord) : (c.advance m cy f).rbud = c.rbud := by simp only [Crew.advance, Crew.rebundle_rbud, Crew.modLanes_rbud]
@[simp] theorem Crew.advance_holds (c : Crew) (m : Mask) (cy : Nat) (f : Nat → Thread → DWord) : (c.advance m cy f).holds = c.holds := by simp only [Crew.advance, Crew.rebundle_holds, Crew.modLanes_holds]
@[simp] theorem Crew.advance_coll (c : Crew) (m : Mask) (cy : Nat) (f : Nat → Thread → DWord) : (c.advance m cy f).coll = c.coll := by simp only [Crew.advance, Crew.rebundle_coll, Crew.modLanes_coll]
@[simp] theorem Crew.advance_left (c : Crew) (m : Mask) (cy : Nat) (f : Nat → Thread → DWord) : (c.advance m cy f).left = c.left := by simp only [Crew.advance, Crew.rebundle_left, Crew.modLanes_left]
@[simp] theorem Crew.advance_ended (c : Crew) (m : Mask) (cy : Nat) (f : Nat → Thread → DWord) : (c.advance m cy f).ended = c.ended := by simp only [Crew.advance, Crew.rebundle_ended, Crew.modLanes_ended]
@[simp] theorem Crew.advance_latch (c : Crew) (m : Mask) (cy : Nat) (f : Nat → Thread → DWord) : (c.advance m cy f).latch = c.latch := by simp only [Crew.advance, Crew.rebundle_latch, Crew.modLanes_latch]
@[simp] theorem Crew.advance_claim (c : Crew) (m : Mask) (cy : Nat) (f : Nat → Thread → DWord) : (c.advance m cy f).claim = c.claim := by simp only [Crew.advance, Crew.rebundle_claim, Crew.modLanes_claim]
@[simp] theorem Crew.advance_busy (c : Crew) (m : Mask) (cy : Nat) (f : Nat → Thread → DWord) : (c.advance m cy f).busy = c.busy := by simp only [Crew.advance, Crew.rebundle_busy, Crew.modLanes_busy]
@[simp] theorem Crew.advance_atPark (c : Crew) (m : Mask) (cy : Nat) (f : Nat → Thread → DWord) : (c.advance m cy f).atPark = c.atPark := by simp only [Crew.advance, Crew.rebundle_atPark, Crew.modLanes_atPark]
@[simp] theorem Crew.advance_order (c : Crew) (m : Mask) (cy : Nat) (f : Nat → Thread → DWord) : (c.advance m cy f).order = c.order := by simp only [Crew.advance, Crew.rebundle_order, Crew.modLanes_order]
@[simp] theorem Crew.advance_logs (c : Crew) (m : Mask) (cy : Nat) (f : Nat → Thread → DWord) : (c.advance m cy f).logs = c.logs := by simp only [Crew.advance, Crew.rebundle_logs, Crew.modLanes_logs]
@[simp] theorem Crew.advance_owed (c : Crew) (m : Mask) (cy : Nat) (f : Nat → Thread → DWord) : (c.advance m cy f).owed = c.owed := by simp only [Crew.advance, Crew.rebundle_owed, Crew.modLanes_owed]

@[simp] theorem Crew.setCreg_team (c : Crew) (n k v : Nat) : (c.setCreg n k v).team = c.team := rfl
@[simp] theorem Crew.setCreg_id (c : Crew) (n k v : Nat) : (c.setCreg n k v).id = c.id := rfl
@[simp] theorem Crew.setCreg_core (c : Crew) (n k v : Nat) : (c.setCreg n k v).core = c.core := rfl
@[simp] theorem Crew.setCreg_slot (c : Crew) (n k v : Nat) : (c.setCreg n k v).slot = c.slot := rfl
@[simp] theorem Crew.setCreg_rot (c : Crew) (n k v : Nat) : (c.setCreg n k v).rot = c.rot := rfl
@[simp] theorem Crew.setCreg_frames (c : Crew) (n k v : Nat) : (c.setCreg n k v).frames = c.frames := rfl
@[simp] theorem Crew.setCreg_asid (c : Crew) (n k v : Nat) : (c.setCreg n k v).asid = c.asid := rfl
@[simp] theorem Crew.setCreg_secure (c : Crew) (n k v : Nat) : (c.setCreg n k v).secure = c.secure := rfl
@[simp] theorem Crew.setCreg_fdom (c : Crew) (n k v : Nat) : (c.setCreg n k v).fdom = c.fdom := rfl
@[simp] theorem Crew.setCreg_privBase (c : Crew) (n k v : Nat) : (c.setCreg n k v).privBase = c.privBase := rfl
@[simp] theorem Crew.setCreg_privSize (c : Crew) (n k v : Nat) : (c.setCreg n k v).privSize = c.privSize := rfl
@[simp] theorem Crew.setCreg_rbud (c : Crew) (n k v : Nat) : (c.setCreg n k v).rbud = c.rbud := rfl
@[simp] theorem Crew.setCreg_threads (c : Crew) (n k v : Nat) : (c.setCreg n k v).threads = c.threads := rfl
@[simp] theorem Crew.setCreg_bundles (c : Crew) (n k v : Nat) : (c.setCreg n k v).bundles = c.bundles := rfl
@[simp] theorem Crew.setCreg_holds (c : Crew) (n k v : Nat) : (c.setCreg n k v).holds = c.holds := rfl
@[simp] theorem Crew.setCreg_coll (c : Crew) (n k v : Nat) : (c.setCreg n k v).coll = c.coll := rfl
@[simp] theorem Crew.setCreg_left (c : Crew) (n k v : Nat) : (c.setCreg n k v).left = c.left := rfl
@[simp] theorem Crew.setCreg_ended (c : Crew) (n k v : Nat) : (c.setCreg n k v).ended = c.ended := rfl
@[simp] theorem Crew.setCreg_latch (c : Crew) (n k v : Nat) : (c.setCreg n k v).latch = c.latch := rfl
@[simp] theorem Crew.setCreg_claim (c : Crew) (n k v : Nat) : (c.setCreg n k v).claim = c.claim := rfl
@[simp] theorem Crew.setCreg_busy (c : Crew) (n k v : Nat) : (c.setCreg n k v).busy = c.busy := rfl
@[simp] theorem Crew.setCreg_atPark (c : Crew) (n k v : Nat) : (c.setCreg n k v).atPark = c.atPark := rfl
@[simp] theorem Crew.setCreg_order (c : Crew) (n k v : Nat) : (c.setCreg n k v).order = c.order := rfl
@[simp] theorem Crew.setCreg_logs (c : Crew) (n k v : Nat) : (c.setCreg n k v).logs = c.logs := rfl
@[simp] theorem Crew.setCreg_owed (c : Crew) (n k v : Nat) : (c.setCreg n k v).owed = c.owed := rfl

@[simp] theorem Thread.setReg_pc (t : Thread) (n : Nat) (v : Word) : (t.setReg n v).pc = t.pc := rfl
@[simp] theorem Thread.setReg_st (t : Thread) (n : Nat) (v : Word) : (t.setReg n v).st = t.st := rfl
@[simp] theorem Thread.setReg_why (t : Thread) (n : Nat) (v : Word) : (t.setReg n v).why = t.why := rfl
@[simp] theorem Thread.setReg_back (t : Thread) (n : Nat) (v : Word) : (t.setReg n v).back = t.back := rfl
@[simp] theorem Thread.setReg_regs (t : Thread) (n : Nat) (v : Word) : (t.setReg n v).regs = { n := n, v := v, st := .mapped, pend := false, bad := false, lvl := 0 } :: t.regs.filter (fun r => r.n != n) := rfl
@[simp] theorem Thread.setReg_preds (t : Thread) (n : Nat) (v : Word) : (t.setReg n v).preds = t.preds := rfl
@[simp] theorem Thread.setReg_idx (t : Thread) (n : Nat) (v : Word) : (t.setReg n v).idx = t.idx := rfl
@[simp] theorem Thread.setReg_mrv (t : Thread) (n : Nat) (v : Word) : (t.setReg n v).mrv = t.mrv := rfl
@[simp] theorem Thread.setReg_mrm (t : Thread) (n : Nat) (v : Word) : (t.setReg n v).mrm = t.mrm := rfl
@[simp] theorem Thread.setReg_mrOld (t : Thread) (n : Nat) (v : Word) : (t.setReg n v).mrOld = t.mrOld := rfl
@[simp] theorem Thread.setReg_flags (t : Thread) (n : Nat) (v : Word) : (t.setReg n v).flags = t.flags := rfl
@[simp] theorem Thread.setReg_depth (t : Thread) (n : Nat) (v : Word) : (t.setReg n v).depth = t.depth := rfl
@[simp] theorem Thread.setReg_stack (t : Thread) (n : Nat) (v : Word) : (t.setReg n v).stack = t.stack := rfl
@[simp] theorem Thread.setReg_wait (t : Thread) (n : Nat) (v : Word) : (t.setReg n v).wait = t.wait := rfl
@[simp] theorem Thread.setReg_batchNo (t : Thread) (n : Nat) (v : Word) : (t.setReg n v).batchNo = t.batchNo := rfl
@[simp] theorem Thread.setReg_openOps (t : Thread) (n : Nat) (v : Word) : (t.setReg n v).openOps = t.openOps := rfl
@[simp] theorem Thread.setReg_batches (t : Thread) (n : Nat) (v : Word) : (t.setReg n v).batches = t.batches := rfl
@[simp] theorem Thread.setReg_causes (t : Thread) (n : Nat) (v : Word) : (t.setReg n v).causes = t.causes := rfl
@[simp] theorem Thread.setReg_relog (t : Thread) (n : Nat) (v : Word) : (t.setReg n v).relog = t.relog := rfl
@[simp] theorem Thread.setReg_page (t : Thread) (n : Nat) (v : Word) : (t.setReg n v).page = t.page := rfl
@[simp] theorem Thread.setReg_lastIssue (t : Thread) (n : Nat) (v : Word) : (t.setReg n v).lastIssue = t.lastIssue := rfl
@[simp] theorem Thread.setReg_woke (t : Thread) (n : Nat) (v : Word) : (t.setReg n v).woke = t.woke := rfl
@[simp] theorem Thread.setReg_gaps (t : Thread) (n : Nat) (v : Word) : (t.setReg n v).gaps = t.gaps := rfl

@[simp] theorem Thread.release_pc (t : Thread) (n : Nat) : (t.release n).pc = t.pc := rfl
@[simp] theorem Thread.release_st (t : Thread) (n : Nat) : (t.release n).st = t.st := rfl
@[simp] theorem Thread.release_why (t : Thread) (n : Nat) : (t.release n).why = t.why := rfl
@[simp] theorem Thread.release_back (t : Thread) (n : Nat) : (t.release n).back = t.back := rfl
@[simp] theorem Thread.release_regs (t : Thread) (n : Nat) : (t.release n).regs = t.regs.filter (fun r => r.n != n) := rfl
@[simp] theorem Thread.release_preds (t : Thread) (n : Nat) : (t.release n).preds = t.preds := rfl
@[simp] theorem Thread.release_idx (t : Thread) (n : Nat) : (t.release n).idx = t.idx := rfl
@[simp] theorem Thread.release_mrv (t : Thread) (n : Nat) : (t.release n).mrv = t.mrv := rfl
@[simp] theorem Thread.release_mrm (t : Thread) (n : Nat) : (t.release n).mrm = t.mrm := rfl
@[simp] theorem Thread.release_mrOld (t : Thread) (n : Nat) : (t.release n).mrOld = t.mrOld := rfl
@[simp] theorem Thread.release_flags (t : Thread) (n : Nat) : (t.release n).flags = t.flags := rfl
@[simp] theorem Thread.release_depth (t : Thread) (n : Nat) : (t.release n).depth = t.depth := rfl
@[simp] theorem Thread.release_stack (t : Thread) (n : Nat) : (t.release n).stack = t.stack := rfl
@[simp] theorem Thread.release_wait (t : Thread) (n : Nat) : (t.release n).wait = t.wait := rfl
@[simp] theorem Thread.release_batchNo (t : Thread) (n : Nat) : (t.release n).batchNo = t.batchNo := rfl
@[simp] theorem Thread.release_openOps (t : Thread) (n : Nat) : (t.release n).openOps = t.openOps := rfl
@[simp] theorem Thread.release_batches (t : Thread) (n : Nat) : (t.release n).batches = t.batches := rfl
@[simp] theorem Thread.release_causes (t : Thread) (n : Nat) : (t.release n).causes = t.causes := rfl
@[simp] theorem Thread.release_relog (t : Thread) (n : Nat) : (t.release n).relog = t.relog := rfl
@[simp] theorem Thread.release_page (t : Thread) (n : Nat) : (t.release n).page = t.page := rfl
@[simp] theorem Thread.release_lastIssue (t : Thread) (n : Nat) : (t.release n).lastIssue = t.lastIssue := rfl
@[simp] theorem Thread.release_woke (t : Thread) (n : Nat) : (t.release n).woke = t.woke := rfl
@[simp] theorem Thread.release_gaps (t : Thread) (n : Nat) : (t.release n).gaps = t.gaps := rfl

@[simp] theorem Thread.pendReg_pc (t : Thread) (n : Nat) : (t.pendReg n).pc = t.pc := rfl
@[simp] theorem Thread.pendReg_st (t : Thread) (n : Nat) : (t.pendReg n).st = t.st := rfl
@[simp] theorem Thread.pendReg_why (t : Thread) (n : Nat) : (t.pendReg n).why = t.why := rfl
@[simp] theorem Thread.pendReg_back (t : Thread) (n : Nat) : (t.pendReg n).back = t.back := rfl
@[simp] theorem Thread.pendReg_preds (t : Thread) (n : Nat) : (t.pendReg n).preds = t.preds := rfl
@[simp] theorem Thread.pendReg_idx (t : Thread) (n : Nat) : (t.pendReg n).idx = t.idx := rfl
@[simp] theorem Thread.pendReg_mrv (t : Thread) (n : Nat) : (t.pendReg n).mrv = t.mrv := rfl
@[simp] theorem Thread.pendReg_mrm (t : Thread) (n : Nat) : (t.pendReg n).mrm = t.mrm := rfl
@[simp] theorem Thread.pendReg_mrOld (t : Thread) (n : Nat) : (t.pendReg n).mrOld = t.mrOld := rfl
@[simp] theorem Thread.pendReg_flags (t : Thread) (n : Nat) : (t.pendReg n).flags = t.flags := rfl
@[simp] theorem Thread.pendReg_depth (t : Thread) (n : Nat) : (t.pendReg n).depth = t.depth := rfl
@[simp] theorem Thread.pendReg_stack (t : Thread) (n : Nat) : (t.pendReg n).stack = t.stack := rfl
@[simp] theorem Thread.pendReg_wait (t : Thread) (n : Nat) : (t.pendReg n).wait = t.wait := rfl
@[simp] theorem Thread.pendReg_batchNo (t : Thread) (n : Nat) : (t.pendReg n).batchNo = t.batchNo := rfl
@[simp] theorem Thread.pendReg_openOps (t : Thread) (n : Nat) : (t.pendReg n).openOps = t.openOps := rfl
@[simp] theorem Thread.pendReg_batches (t : Thread) (n : Nat) : (t.pendReg n).batches = t.batches := rfl
@[simp] theorem Thread.pendReg_causes (t : Thread) (n : Nat) : (t.pendReg n).causes = t.causes := rfl
@[simp] theorem Thread.pendReg_relog (t : Thread) (n : Nat) : (t.pendReg n).relog = t.relog := rfl
@[simp] theorem Thread.pendReg_page (t : Thread) (n : Nat) : (t.pendReg n).page = t.page := rfl
@[simp] theorem Thread.pendReg_lastIssue (t : Thread) (n : Nat) : (t.pendReg n).lastIssue = t.lastIssue := rfl
@[simp] theorem Thread.pendReg_woke (t : Thread) (n : Nat) : (t.pendReg n).woke = t.woke := rfl
@[simp] theorem Thread.pendReg_gaps (t : Thread) (n : Nat) : (t.pendReg n).gaps = t.gaps := rfl

@[simp] theorem Thread.exit_pc (t : Thread) : (t.exit).pc = t.pc := rfl
@[simp] theorem Thread.exit_st (t : Thread) : (t.exit).st = .exited := rfl
@[simp] theorem Thread.exit_why (t : Thread) : (t.exit).why = .none := rfl
@[simp] theorem Thread.exit_back (t : Thread) : (t.exit).back = t.back := rfl
@[simp] theorem Thread.exit_regs (t : Thread) : (t.exit).regs = [] := rfl
@[simp] theorem Thread.exit_preds (t : Thread) : (t.exit).preds = t.preds := rfl
@[simp] theorem Thread.exit_idx (t : Thread) : (t.exit).idx = t.idx := rfl
@[simp] theorem Thread.exit_mrv (t : Thread) : (t.exit).mrv = t.mrv := rfl
@[simp] theorem Thread.exit_mrm (t : Thread) : (t.exit).mrm = t.mrm := rfl
@[simp] theorem Thread.exit_mrOld (t : Thread) : (t.exit).mrOld = t.mrOld := rfl
@[simp] theorem Thread.exit_flags (t : Thread) : (t.exit).flags = t.flags := rfl
@[simp] theorem Thread.exit_depth (t : Thread) : (t.exit).depth = t.depth := rfl
@[simp] theorem Thread.exit_stack (t : Thread) : (t.exit).stack = t.stack := rfl
@[simp] theorem Thread.exit_wait (t : Thread) : (t.exit).wait = none := rfl
@[simp] theorem Thread.exit_batchNo (t : Thread) : (t.exit).batchNo = t.batchNo := rfl
@[simp] theorem Thread.exit_openOps (t : Thread) : (t.exit).openOps = t.openOps := rfl
@[simp] theorem Thread.exit_batches (t : Thread) : (t.exit).batches = t.batches := rfl
@[simp] theorem Thread.exit_causes (t : Thread) : (t.exit).causes = [] := rfl
@[simp] theorem Thread.exit_relog (t : Thread) : (t.exit).relog = none := rfl
@[simp] theorem Thread.exit_page (t : Thread) : (t.exit).page = t.page := rfl
@[simp] theorem Thread.exit_lastIssue (t : Thread) : (t.exit).lastIssue = t.lastIssue := rfl
@[simp] theorem Thread.exit_woke (t : Thread) : (t.exit).woke = t.woke := rfl
@[simp] theorem Thread.exit_gaps (t : Thread) : (t.exit).gaps = t.gaps := rfl

@[simp] theorem Thread.raise_pc (t : Thread) (fl : Nat) : (t.raise fl).pc = t.pc := rfl
@[simp] theorem Thread.raise_st (t : Thread) (fl : Nat) : (t.raise fl).st = t.st := rfl
@[simp] theorem Thread.raise_why (t : Thread) (fl : Nat) : (t.raise fl).why = t.why := rfl
@[simp] theorem Thread.raise_back (t : Thread) (fl : Nat) : (t.raise fl).back = t.back := rfl
@[simp] theorem Thread.raise_regs (t : Thread) (fl : Nat) : (t.raise fl).regs = t.regs := rfl
@[simp] theorem Thread.raise_preds (t : Thread) (fl : Nat) : (t.raise fl).preds = t.preds := rfl
@[simp] theorem Thread.raise_idx (t : Thread) (fl : Nat) : (t.raise fl).idx = t.idx := rfl
@[simp] theorem Thread.raise_mrv (t : Thread) (fl : Nat) : (t.raise fl).mrv = t.mrv := rfl
@[simp] theorem Thread.raise_mrm (t : Thread) (fl : Nat) : (t.raise fl).mrm = t.mrm := rfl
@[simp] theorem Thread.raise_mrOld (t : Thread) (fl : Nat) : (t.raise fl).mrOld = t.mrOld := rfl
@[simp] theorem Thread.raise_depth (t : Thread) (fl : Nat) : (t.raise fl).depth = t.depth := rfl
@[simp] theorem Thread.raise_stack (t : Thread) (fl : Nat) : (t.raise fl).stack = t.stack := rfl
@[simp] theorem Thread.raise_wait (t : Thread) (fl : Nat) : (t.raise fl).wait = t.wait := rfl
@[simp] theorem Thread.raise_batchNo (t : Thread) (fl : Nat) : (t.raise fl).batchNo = t.batchNo := rfl
@[simp] theorem Thread.raise_openOps (t : Thread) (fl : Nat) : (t.raise fl).openOps = t.openOps := rfl
@[simp] theorem Thread.raise_batches (t : Thread) (fl : Nat) : (t.raise fl).batches = t.batches := rfl
@[simp] theorem Thread.raise_causes (t : Thread) (fl : Nat) : (t.raise fl).causes = t.causes := rfl
@[simp] theorem Thread.raise_relog (t : Thread) (fl : Nat) : (t.raise fl).relog = t.relog := rfl
@[simp] theorem Thread.raise_page (t : Thread) (fl : Nat) : (t.raise fl).page = t.page := rfl
@[simp] theorem Thread.raise_lastIssue (t : Thread) (fl : Nat) : (t.raise fl).lastIssue = t.lastIssue := rfl
@[simp] theorem Thread.raise_woke (t : Thread) (fl : Nat) : (t.raise fl).woke = t.woke := rfl
@[simp] theorem Thread.raise_gaps (t : Thread) (fl : Nat) : (t.raise fl).gaps = t.gaps := rfl

end Sys2Proof.Machine
end

