-- ==== Sys2Proof/Tests/Slice0.lean ====
section
/-! SUPPORT. Witnesses: for each statement that has hypotheses, a concrete state and operands that meet them. Decoding of the spec's
worked encodings, encodings that each check refuses, and single instructions against values printed in the spec. -/

open Sys2Proof Sys2Proof.Machine
namespace Sys2Proof.Tests
set_option Elab.async false

/-! ### A small state -/

/-- A source operand that is a code and nothing else. -/
def src (code : Nat) : Src := { code := BitVec.ofNat 8 code, last := 0, pat := 0, parm := 0 }
def noSrc : Src := src 0
/-- A header without a guard. -/
def hdr (d : Nat) : Hdr := { gp := 7, gn := 0, dst := BitVec.ofNat 8 d }
def f64 (d a b m : Nat) : F64 := { h := hdr d, s1 := src a, s2 := src b, mod := BitVec.ofNat 6 m }
def f96t (d a b c m x : Nat) : F96T := { h := hdr d, s1 := src a, s2 := src b, mod := BitVec.ofNat 6 m, s3 := src c, xm := BitVec.ofNat 15 x }
def f96i (d a m i : Nat) : F96I := { h := hdr d, s1 := src a, s2 := noSrc, mod := BitVec.ofNat 6 m, imm := BitVec.ofNat 32 i }
def f128x (d a b c e : Nat) (ctl : Nat) : F128X :=
  { h := hdr d, s1 := src a, s2 := src b, mod := 0, s3 := src c, s4 := src e, ctl := BitVec.ofNat 30 ctl }

def reg (n v : Nat) : Reg := { n := n, v := BitVec.ofNat 32 v, st := .mapped, pend := false, bad := false, lvl := 0 }

/-- A READY thread at 0x400000 with some registers. -/
def thr (regs : List Reg) : Thread := { (default : Thread) with pc := 0x400000, regs := regs, idx := List.replicate 8 0 }

def crew (regs : List Reg) : Crew :=
  { (default : Crew) with team := 1, creg := List.replicate 64 0, rot := 31, threads := List.replicate 32 (thr regs), bundles := [allLanes] }

def team : Team :=
  { (default : Team) with serial := 1, crews := 1, scrK := 32, tiles := 2, tile := [[], []], teams := 1, level := 1, path := [0] }

/-- The state in which that crew issues at its PC. -/
def st (regs : List Reg) : State :=
  { State.reset with crews := [crew regs], teams := [team], cur := some { crew := 0, mask := allLanes, pc := 0x400000 } }

def iss : Issue := { crew := 0, mask := allLanes, pc := 0x400000 }
def regs8 : List Reg := (List.range 8).map (fun n => reg n (7 * n + 1))


/-- A one-lane bundle of the same crew. -/
def iss1 : Issue := { crew := 0, mask := 1, pc := 0x400000 }
def st1 (regs : List Reg) : State := { st regs with cur := some iss1 }

/-! ### Witnesses: lane instructions -/

/-- A lane instruction on two 32-bit registers, and one on pairs up to the last register. -/
theorem witness_IntegerArithmeticResults :
    LaneRuns (st regs8) iss (crew regs8) (f64 1 0 2 4).h [(.w32, src 0), (.w32, src 2)] (regsOf false) false
    ∧ LaneRuns (st regs8) iss (crew regs8) (f64 126 0 2 6).h [(.w64, src 0), (.w64, src 2)] (regsOf true) false
    ∧ LaneRuns (st regs8) iss (crew regs8) (f64 1 0 0 4).h [(.w32, src 0)] (regsOf false) false
    ∧ LaneRuns (st regs8) iss (crew regs8) (f96t 191 0 2 4 4 0).h [(.w32, src 0), (.w32, src 2), (.w32, src 4)] (regsOf false) false
    ∧ LaneRuns (st regs8) iss (crew regs8) (f96i 127 7 5 9).h [(.w32, src 7)] (regsOf false) false := by
  and_intros <;> first | decide +kernel | (unfold LaneRuns Issues; decide +kernel)

/-- Both clauses, with a divisor that is zero (x8 is unmapped) and one that is not. -/
theorem witness_IntegerArithmeticResults_division :
    LaneRuns (st regs8) iss (crew regs8) (f64 1 2 8 4).h [(.w32, src 2), (.w32, src 8)] (regsOf false) false
    ∧ LaneRuns (st regs8) iss (crew regs8) (f64 2 2 4 6).h [(.w64, src 2), (.w64, src 4)] (regsOf true) false := by
  and_intros <;> first | decide +kernel | (unfold LaneRuns Issues; decide +kernel)

theorem witness_LogicAndMoveResults :
    LaneRuns (st regs8) iss (crew regs8) (f64 1 0 2 0).h [(useW false, src 0), (useW false, src 2)] (regsOf false) false
    ∧ LaneRuns (st regs8) iss (crew regs8) (f64 2 0 3 1).h [(useW true, src 0), (.w32, src 3)] (regsOf true) false
    ∧ LaneRuns (st regs8) iss (crew regs8) (f96i 0 1 0 77).h [(useW false, src 1)] (regsOf false) false
    ∧ LaneRuns (st regs8) iss (crew regs8) (f96i 0 0 0 77).h [] (regsOf false) false
    ∧ LaneRuns (st regs8) iss (crew regs8) (f96t 3 0 2 0 0 9).h [(useW false, src 0), (useW false, src 2), (.sel, selSrc 9)] 1 false
    ∧ LaneRuns (st regs8) iss (crew regs8) (f96t 3 0 2 4 0 0).h [(.w32, src 0), (.w32, src 2), (.w32, src 4)] 1 false := by
  and_intros <;> first | decide +kernel | (unfold LaneRuns Issues; decide +kernel)

theorem witness_AddressFormation :
    LaneRuns (st regs8) iss (crew regs8) (f64 2 4 3 6).h [(.w64, src 4), (.w32, src 3)] 2 false
    ∧ field (f64 2 4 3 7).mod.toNat 0 3 = 7 ∧ field (f64 2 4 3 16).mod.toNat 4 2 ≠ 0 := by
  and_intros <;> first | decide +kernel | (unfold LaneRuns Issues; decide +kernel)

theorem witness_PredicateAndFlagResults :
    LaneRuns (st regs8) iss (crew regs8) (f64 200 0 2 4).h [(.w32, src 0), (.w32, src 2)] 1 false
    ∧ LaneRuns (st regs8) iss (crew regs8) (f64 207 7 8 0).h [(.sel, src 7), (.sel, src 8)] 1 false
    ∧ LaneRuns (st regs8) iss (crew regs8) (f64 206 15 0 0).h [(.sel, src 15)] 1 false
    ∧ LaneRuns (st regs8) iss (crew regs8) (f96i 203 2 4 3).h [(.w32, src 2)] 1 false
    ∧ LaneRuns (st regs8) iss (crew regs8) (f64 1 0 0 0).h [(.w32, src 0), (.w32, src 211)] 1 false
    ∧ LaneRuns (st regs8) iss (crew regs8) (hdr 255) [] 1 false
    ∧ LaneRuns (st regs8) iss (crew regs8) (hdr 255) [(.w32, src 3)] 1 false
    ∧ field (f64 200 2 0 2).mod.toNat 0 2 = 2
    ∧ LaneRuns (st regs8) iss (crew regs8) (f64 200 2 0 2).h [(.w32, src 2)] 1 true := by
  and_intros <;> first | decide +kernel | (unfold LaneRuns Issues; decide +kernel)

theorem witness_FloatResults :
    LaneRuns (st regs8) iss (crew regs8) (f64 1 0 2 0).h [(useW false, src 0), (useW false, src 2)] (regsOf false) false
    ∧ LaneRuns (st regs8) iss (crew regs8) (f64 2 0 4 1).h [(useW true, src 0), (useW true, src 4)] (regsOf true) false
    ∧ LaneRuns (st regs8) iss (crew regs8) (f96t 2 0 4 6 1 0).h [(useW true, src 0), (useW true, src 4), (useW true, src 6)] (regsOf true) false
    ∧ LaneRuns (st regs8) iss (crew regs8) (f96i 1 0 0 0x3F800000).h [(useW false, src 0)] (regsOf false) false
    ∧ LaneRuns (st regs8) iss (crew regs8) (f64 200 0 2 0).h [(useW false, src 0), (useW false, src 2)] 1 false := by
  and_intros <;> first | decide +kernel | (unfold LaneRuns Issues; decide +kernel)

/-- Codes of each class in FP32: a NaN, the infinities, the zeros, 3, -3, 1.5 and the smallest subnormal. -/
theorem witness_FloatRounding :
    fdecode ffF32 0x7FC00000 = .nan ∧ fdecode ffF32 0x7F800000 = .inf false ∧ fdecode ffF32 0xFF800000 = .inf true
    ∧ fdecode ffF32 0 = .fin false 0 (-149) ∧ fdecode ffF32 0x80000000 = .fin true 0 (-149) ∧ fdecode ffF32 0x40400000 = .fin false 12582912 (-22)
    ∧ fdecode ffF32 0xC0400000 = .fin true 12582912 (-22) ∧ fdecode ffF32 0x3FC00000 = .fin false 12582912 (-23)
    ∧ fdecode ffF32 1 = .fin false 1 (-149) ∧ ffE3M5.signed = false ∧ ffE2M1.narrow = true := by
  and_intros <;> decide +kernel
/-- Terms 1 and -1/2, of which the larger lies in the binade of exponent 0; terms that are zeros; infinities that meet. -/
theorem witness_FloatRounding_terms :
    ((∀ t ∈ [FVal.fin false 1 0, .fin true 1 (-1)], |t.rat| < 2 ^ ((0 : Int) + 1)) ∧ ∃ t ∈ [FVal.fin false 1 0, .fin true 1 (-1)], (2 : ℚ) ^ (0 : Int) ≤ |t.rat|)
    ∧ (∀ t ∈ [FVal.fin true 0 5, .fin false 0 0], t.rat = 0) ∧ (.inf false ∈ [FVal.inf true, .inf false] ∧ .inf true ∈ [FVal.inf true, .inf false]) := by
  refine ⟨⟨fun t ht => ?_, .fin false 1 0, by decide, by norm_num [FVal.rat]⟩, fun t ht => ?_, by decide⟩
  all_goals
    simp only [List.mem_cons, List.not_mem_nil, or_false] at ht
    rcases ht with rfl | rfl <;> norm_num [FVal.rat]
/-- 3 is an integer and no power of two, 1.5 neither; 1/2 is a power of two. -/
theorem witness_FunctionAccuracy :
    (fdecode ffF32 0x40400000).rat = 3 ∧ (fdecode ffF32 0x3FC00000).rat = 3 / 2 ∧ (fdecode ffF32 0x3F000000).rat = 2 ^ (-1 : Int)
    ∧ (∀ z : Int, (3 / 2 : ℚ) ≠ z) ∧ ∀ z : Int, (3 : ℚ) ≠ 2 ^ z := by
  have h1 : fdecode ffF32 0x40400000 = .fin false 12582912 (-22) := by decide +kernel
  have h2 : fdecode ffF32 0x3FC00000 = .fin false 12582912 (-23) := by decide +kernel
  have h3 : fdecode ffF32 0x3F000000 = .fin false 8388608 (-24) := by decide +kernel
  refine ⟨by rw [h1]; norm_num [FVal.rat], by rw [h2]; norm_num [FVal.rat], by rw [h3]; norm_num [FVal.rat], fun z h => ?_, fun z h => ?_⟩
  · have : (3 : Int) = 2 * z := by have h' : (3 : ℚ) = 2 * z := by linarith
                                   exact_mod_cast h'
    omega
  · rcases lt_or_ge z 2 with hz | hz
    · have : (2 : ℚ) ^ z ≤ 2 ^ (1 : Int) := zpow_le_zpow_right₀ (by norm_num) (by omega)
      norm_num at this; linarith
    · have : (2 : ℚ) ^ (2 : Int) ≤ 2 ^ z := zpow_le_zpow_right₀ (by norm_num) hz
      norm_num at this; linarith

theorem witness_PackedAndConversionResults :
    LaneRuns (st regs8) iss (crew regs8) (f64 1 0 2 0).h [(.w32, src 0), (.w32, src 2)] 1 false
    ∧ LaneRuns (st regs8) iss (crew regs8) (f96t 1 0 2 4 3 0).h [(.w32, src 0), (.w32, src 2)] 1 false
    ∧ LaneRuns (st regs8) iss (crew regs8) (f64 2 0 2 1).h [(useW false, src 0)] (regsOf true) false := by
  and_intros <;> first | decide +kernel | (unfold LaneRuns Issues; decide +kernel)

/-- Collective instructions with the whole crew, `perm` of the last lane, `quant` of a block that begins in lane 8. -/
theorem witness_CrossLaneResults :
    (field (f64 200 2 0 1).mod.toNat 0 2 < 2 ∧ LaneRuns (st regs8) iss (crew regs8) (f64 200 2 0 1).h [(.w32, src 2)] 1 true)
    ∧ LaneRuns (st regs8) iss (crew regs8) (f64 1 7 0 3).h [(.sel, src 7)] 1 true
    ∧ LaneRuns (st regs8) iss (crew regs8) (f64 1 2 0 4).h [(useW false, src 2)] (regsOf false) true
    ∧ (let c := crew regs8
       let em := guardMask c allLanes (hdr 2)
       let f := f64 2 1 3 0
       let srcs : List (Use × Src) := [(.plain false, src 1), (.w32, src 3)]
       Issues (st regs8) iss c ∧ isCreg 2 = false ∧ oddAt c em srcs 2 (regsOf false) false = false ∧ boundLanes c em srcs 2 (regsOf false) = 0
       ∧ permCheck (st regs8) c allLanes em 0 0x400000 f (permK (st regs8) c allLanes (.plain false) f) (permS (st regs8) c allLanes em (.plain false) f) = none
       ∧ (c.thread 0).relog = none)
    ∧ (let c := { crew regs8 with threads := List.replicate 32 { thr regs8 with relog := some [4, 5] } }
       (c.thread 0).relog = some [4, 5] ∧ (c.thread 0).gaps = [])
    ∧ (let c := crew regs8
       let em := guardMask c allLanes (hdr 1)
       Issues (st regs8) iss c ∧ isCreg 1 = false
       ∧ operandCheck (st regs8) c allLanes em (allLanes &&& maskOf ((List.range 24).map (fun j => 8 + j))) 0x400000 [(.w32, src 2)] 1 1 false = none
       ∧ boundLanes c em [(.w32, src 2)] 1 1 = 0) := by
  and_intros <;> first | decide +kernel | (unfold LaneRuns Issues; decide +kernel)

/-- Blocks that hold a NaN, only zeros, an infinity, and values that a scale covers. -/
theorem witness_CrossLaneResults_blocks :
    let block := fun (x : Nat) => x :: List.replicate 23 0
    (∀ x ∈ [0x7FC00000, 0, 0x7F800000, 0x40400000], (block x).length = 24)
    ∧ FVal.nan ∈ (block 0x7FC00000).map (fdecode ffF32) ∧ (∀ x ∈ [0, 0x7F800000, 0x40400000], FVal.nan ∉ (block x).map (fdecode ffF32))
    ∧ (block 0).map (fdecode ffF32) = List.replicate 24 (.fin false 0 (-149))
    ∧ FVal.inf false ∈ (block 0x7F800000).map (fdecode ffF32) ∧ FVal.fin false 12582912 (-22) ∈ (block 0x40400000).map (fdecode ffF32) := by
  and_intros <;> decide +kernel

/-- Formats of the conversions: two floats, a float and an integer, two integers; the integers 0, -1 and 5. -/
theorem witness_PackedAndConversionResults_formats :
    ffOf 2 = some ffF32 ∧ (ffOf 4).isSome = true ∧ ffOf 12 = none ∧ ffOf 13 = none ∧ (intOf 12).1 = 32 ∧ signed 32 (2 ^ 32 - 1) = -1 := by
  and_intros <;> decide +kernel

/-- A package with two granules' towers in turn: addresses 0x10000 to 0x1FFFF are homed in stack 1, the rest of 4 GiB in stack 0. -/
def pkg : Package :=
  { Package.reset with
    parts := [{ num := 0, first := 0, log2 := 4, fn := 1, base := 0, granules := 65536, itab := 0 :: 2 :: List.replicate 62 0
                tgranules := 65536, ttab := List.replicate 64 0 }]
    dies := (List.range 16).map (fun k => { Die.reset k with log := some k, cls := 2 })
    towers := (List.range 16).map (fun k => { Tower.reset k with present := true }) }

/-- A leaf that maps the first 64 MiB to themselves, for every use. -/
def leaf : Leaf :=
  { asid := 0, secure := false, va := 0, pa := 0, size := 2 ^ 26, wr := true, ex := true, usr := true, cls := 0, shr := false, pin := true
    wld := false, sfmt := 0, csoff := 0 }

def context : Ctx := { (default : Ctx) with id := 0, wayq := 0xCCCC, asids := 0x100000, htab := 0 }

/-- The small state in a package that is up, with a translation of its first 64 MiB. -/
def up (s : State) : State :=
  { s with pkg := pkg, ctxs := [context], store := { s.store with coreTlb := [(0, leaf)], llTlb := [(0, leaf)] }, host := { s.host with ready := true } }

/-- The crew with a change in every thread. -/
def crewWith (regs : List Reg) (f : Thread → Thread) : Crew := { crew regs with privSize := 65536, threads := List.replicate 32 (f (thr regs)) }
def stWith (i : Issue) (c : Crew) : State := { State.reset with crews := [c], teams := [team], cur := some i }

def okThen {ε α β : Type} (d : β) (f : α → β) : Except ε α → β
  | .ok x => f x
  | .error _ => d

/-! ### Witnesses: control transfers, stops, faults -/

/-- A CALL from depth 3, a JMP to a code address, a RET at depth 1 and at depth 4, and no source at all. -/
theorem witness_ControlTransferTargets :
    let c3 := crewWith regs8 (fun t => { t with depth := 3, stack := [0x400100, 0x400200, 0x400300] })
    let cj := crew [reg 4 0x400100, reg 5 0]
    let c1 := crewWith regs8 (fun t => { t with depth := 1, stack := [0x400100] })
    let c4 := crewWith regs8 (fun t => { t with depth := 4, stack := [0x400100, 0x400200, 0x400300, 0x400400] })
    let em := guardMask c3 allLanes (hdr 255)
    (Issues (stWith iss c3) iss c3 ∧ operandCheck (stWith iss c3) c3 allLanes em em 0x400000 [] 255 1 false = none
      ∧ boundLanes c3 em [] 255 1 = 0 ∧ ∀ l ∈ lanesOf em, (c3.thread l).depth < 4)
    ∧ (Issues (stWith iss cj) iss cj ∧ operandCheck (stWith iss cj) cj allLanes em em 0x400000 [(.w64, src 4)] 255 1 false = none
      ∧ boundLanes cj em [(.w64, src 4)] 255 1 = 0
      ∧ ∀ l ∈ lanesOf em, val (readLane (stWith iss cj) cj allLanes [(.w64, src 4)] l).vals 0 = 0x400100 ∧ (cj.thread l).depth < 4)
    ∧ (Issues (stWith iss c1) iss c1 ∧ ∀ l ∈ lanesOf em, (c1.thread l).stack = [0x400100] ∧ (c1.thread l).depth = 1)
    ∧ (Issues (stWith iss c4) iss c4 ∧ ∀ l ∈ lanesOf em, (c4.thread l).stack.head? = some 0x400100 ∧ (c4.thread l).depth = 4) := by
  unfold Issues; and_intros <;> decide +kernel

/-- Operands that are mapped, with a pair at the top of the register file and of the crew registers, and the flags. -/
theorem witness_OperandReads_plain :
    let c := crew ((List.range 128).map (fun n => reg n n))
    (∀ l ∈ lanesOf allLanes, allLanes.getLsbD l = true ∧ (c.thread l).relog = none)
    ∧ (∀ p ∈ ([(.w32, src 0), (.w64, src 126), (.sel, src 9), (.w32, src 211), (.w64, src 190)] : List (Use × Src)),
      (p.1 = .w32 ∨ p.1 = .w64 ∨ p.1 = .sel) ∧ p.2.pat = 0
      ∧ p.2.last = 0 ∧ (p.2.code.toNat < 192 ∨ 200 ≤ p.2.code.toNat)
      ∧ (p.2.code.toNat = 211 → ∀ l ∈ lanesOf allLanes, (stWith iss c).flagsPend c l = false)
      ∧ (128 ≤ p.2.code.toNat → p.2.code.toNat < 192 → ∀ j < p.1.regs, ¬ (p.2.code.toNat - 128 + j) ∈ c.cbad)
      ∧ (p.1 ≠ .sel → p.2.code.toNat < 128 → ∀ l ∈ lanesOf allLanes, ∀ j < p.1.regs,
          ((c.thread l).reg? (p.2.code.toNat + j)).any (fun r => r.st == .mapped && !r.pend && !r.bad) = true))
    ∧ (∀ l ∈ lanesOf allLanes, ∀ j < 2, ((c.thread l).reg? (126 + j)).any (fun r => r.st == .mapped && !r.pend && !r.bad) = true) := by
  and_intros <;> decide +kernel

/-- A lane that is served by a lane of its bundle and one that is not; a lane that has logged its values; a die in service for codes 209 and 210. -/
theorem witness_OperandReads :
    (let s := up (stWith iss (crew regs8))
     let c := crew regs8
     (c.thread 31).relog = none ∧ s.pkg.leftOut = [] ∧ (s.pkg.dies.find? (fun d => d.log == some (c.core / 64))).isSome = true
     ∧ (1 : Mask).getLsbD ((31 + 1) % 32) = true ∧ (1 : Mask).getLsbD (0 ^^^ 2 ^ 4) = false)
    ∧ (let c := fun (gaps : List Src) => crewWith regs8 (fun t => { t with relog := some [7], gaps := gaps })
       ((c []).thread 0).relog = some [7] ∧ ((c []).thread 0).gaps = []
       ∧ ((c [src 192]).thread 0).gaps.contains (src 192) = true ∧ [(Use.w32, src 0)].all (fun p => !((c [src 192]).thread 0).gaps.contains p.2) = true) := by
  and_intros <;> decide +kernel

/-- One state for each stop: an odd indexed pair, a register still to be written, a poisoned register, an unmapped one under strict reads, a callee
that has no budget for its destination. -/
theorem witness_LaneInstructionStops :
    let s := fun (c : Crew) => stWith iss c
    let odd := crewWith regs8 (fun t => { t with idx := (3 + 4 * 128) :: t.idx.tail })
    let dep := crew [{ reg 0 1 with pend := true }, reg 2 5]
    let bad := crew [{ reg 0 1 with bad := true }, reg 2 5]
    let strict : State := { s (crew [reg 2 5]) with teams := [{ team with strict := true }] }
    let callee := { crew [reg 0 1, reg 2 5] with frames := [default], rbud := 2 }
    let past := crewWith regs8 (fun t => { t with idx := (8 * 128 + 8 * 2 ^ 16) :: t.idx.tail })
    let ks : List (Use × Src) := [(.w32, src 0)]
    let clean := fun (s : State) (c : Crew) (l : Nat) =>
      srcOdd (c.thread l) .w32 (src 0) = false ∧ (∀ p ∈ (readLane s c allLanes ks l).regs, regBlocked c p = false) ∧ s.flagsWait c allLanes ks l = false
    (Issues (s odd) iss odd ∧ srcOdd (odd.thread 0) .w64 (src 192) = true)
    ∧ (Issues (s dep) iss dep ∧ regBlocked dep (0, 0) = true ∧ (0, 0) ∈ (readLane (s dep) dep allLanes [(.w32, src 0)] 0).regs)
    ∧ (Issues (s bad) iss bad ∧ regBad bad (0, 0) = true ∧ (0, 0) ∈ (readLane (s bad) bad allLanes ks 0).regs
      ∧ ∀ l ∈ lanesOf allLanes, clean (s bad) bad l)
    ∧ (Issues strict iss (crew [reg 2 5]) ∧ (readLane strict (crew [reg 2 5]) allLanes ks 0).zread = true
      ∧ (strict.teamOf (crew [reg 2 5])).strict = true ∧ ∀ l ∈ lanesOf allLanes, clean strict (crew [reg 2 5]) l)
    ∧ (Issues (s callee) iss callee ∧ overBudget callee allLanes (fun _ => []) (fun l => dstRegs (callee.thread l) 1 1) ≠ 0
      ∧ ∀ l ∈ lanesOf allLanes, clean (s callee) callee l)
    ∧ (Issues (s past) iss past ∧ operandCheck (s past) past allLanes allLanes allLanes 0x400000 [(.w32, src 192), (.w32, src 0)] 1 1 false = none
      ∧ boundLanes past allLanes [(.w32, src 192), (.w32, src 0)] 1 1 ≠ 0) := by
  unfold Issues; and_intros <;> decide +kernel

/-- A crew of a core without a debugger, and a scheduler of its core that runs. -/
theorem witness_FaultEntry :
    (st regs8).crews[0]? = some (crew regs8) ∧ (∀ j < 4, (((st regs8).debugOf 0).sched j).sof = false) ∧ (st regs8).dumpCore 1 = none
    ∧ (((st regs8).debugOf 0).sched 3).stopped = false ∧ ((st regs8).debugOf 0).scheds.length = 4 := by
  and_intros <;> decide +kernel

theorem undebugged (c : Crew) (s : State) (h : s.dbg = []) : Undebugged s c := by
  refine ⟨fun j => ?_, ?_⟩
  · simp only [State.debugOf, h, List.find?_nil, Option.getD_none, Debug.sched]
    rcases j with _ | _ | _ | _ | j <;> rfl
  · simp only [State.dumpCore, h, List.find?_nil, Option.map_none]

/-! ### Witnesses: exits, gates, waits -/

/-- EXIT outside a gate call and inside one; TRAP with its operand in a register. -/
theorem witness_ThreadEnds :
    Issues (st regs8) iss (crew regs8) ∧ (crew regs8).frames = []
    ∧ (let c := { crew regs8 with frames := [default] }
       Issues (stWith iss c) iss c ∧ guardMask c allLanes (hdr 255) ≠ 0 ∧ c.frames ≠ [])
    ∧ (let c := { crew regs8 with claim := some { fdom := 0, index := 0, rid := 5, dws := [] } }
       Issues (stWith iss c) iss c ∧ c.frames = [] ∧ c.live &&& ~~~guardMask c allLanes (hdr 255) = 0)
    ∧ operandCheck (st regs8) (crew regs8) allLanes allLanes allLanes 0x400000 [(.w32, src 3)] 255 1 false = none
    ∧ boundLanes (crew regs8) allLanes [(.w32, src 3)] 255 1 = 0 := by
  unfold Issues; and_intros <;> decide +kernel

/-- A gate entry: 2 arguments, 1 result, budget 16, ASID 0, EPC 0x500000, every class, one page for each thread. -/
def gateImage : Nat := 1 + 2 ^ 8 * 2 + 2 ^ 13 * 1 + 2 ^ 18 * 16 + 2 ^ 64 * 0x500000 + 2 ^ 128 * (2 ^ 32 - 1) + 2 ^ 160 * 1
def gateState (img : Nat) (depth gcnt : Nat) : State :=
  let c := { crew regs8 with frames := List.replicate depth default }
  { up (stWith iss c) with
    teams := [{ team with gcnt := gcnt }], gates := [{ ctx := 0, rcb := 0, n := 3, pa := 0x1000, img := BitVec.ofNat 256 img }] }

/-- GATE 3 of a table of 4 entries, from outside any call and from depth 3; GRET from a call. -/
theorem witness_GateTransfers :
    (let s := gateState gateImage 0 4
     let c := (s.crews[0]?).getD default
     let e := GateEntry.ofNat gateImage
     Issues s iss c ∧ c.live = allLanes ∧ guardMask c allLanes (hdr 255) = allLanes ∧ 3 < (s.teamOf c).gcnt
     ∧ s.gateEntry 0 0 3 = some e ∧ e.ok (s.ctxOf 0) = true ∧ bit e.cmask 0 = true ∧ e.cworld = c.secure
     ∧ admits (s.classOf c.core) e.cworld = true ∧ c.frames.length < 4 ∧ s.accs = []
     ∧ ∀ l < 32, (∀ r ∈ (c.thread l).regs, r.st = .mapped)
        ∧ s.canTake c l (((c.thread l).regs.filter (fun r => decide (r.n < e.narg))).length) = true)
    ∧ ((gateState gateImage 3 4).crews[0]?).map (·.frames.length) = some 3
    ∧ (let s := gateState gateImage 1 4
       let c := (s.crews[0]?).getD default
       Issues s iss c ∧ c.live = allLanes ∧ c.frames = [default] ∧ s.accs = []
       ∧ ∀ l < 32, (∀ r ∈ (c.thread l).regs, r.n < (default : Frame).nres → r.st = .mapped)
          ∧ ∀ q ∈ ((((default : Frame).lanes)[l]?).getD default).regs, q.st = .mapped) := by
  unfold Issues; and_intros <;> decide +kernel

/-- One state for each check: no such entry, an entry that is not valid, a class outside its mask, the other world, depth 4. -/
theorem witness_GateTransfers_checks :
    (gateState gateImage 0 3).gateEntry 0 0 3 = some (GateEntry.ofNat gateImage) ∧ ((gateState gateImage 0 3).teams.map (·.gcnt)) = [3]
    ∧ (GateEntry.ofNat (gateImage - 1)).ok context = false
    ∧ (let e := GateEntry.ofNat (gateImage - 2 ^ 128); e.ok context = true ∧ bit e.cmask 0 = false)
    ∧ (let e := GateEntry.ofNat (gateImage + 4); e.ok context = true ∧ bit e.cmask 0 = true ∧ e.cworld ≠ false ∧ e.xworld = false)
    ∧ (let e := GateEntry.ofNat gateImage
       e.ok context = true ∧ bit e.cmask 0 = true ∧ e.cworld = false ∧ admits ((gateState gateImage 4 4).classOf 0) e.cworld = true
       ∧ ((gateState gateImage 4 4).crews[0]?).map (·.frames.length) = some 4) := by
  and_intros <;> decide +kernel

/-- A statement about every lane of a bundle of lane 0 alone. -/
theorem only_lane_zero {P : Nat → Prop} (h : P 0) : ∀ l ∈ lanesOf (1 : Mask), P l := by
  intro l hl
  have : lanesOf (1 : Mask) = [0] := by decide +kernel
  rw [this, List.mem_singleton] at hl
  exact hl ▸ h

/-- A WAIT for at most 7 batches, which holds at once; a lane that waits for batch 0, and one whose time-out of 2 ticks has run out. -/
def pending (cs : List Cond) (elapsed : Nat) : Pending :=
  { conds := cs, all := false, msz := 4, mrel := 0, dst := 200, creg := some 5, len := 16, elapsed := elapsed, polled := 0, vals := [], addr := 0 }
theorem witness_Waits :
    (let f := f128x 200 1 0 0 0 2
     let s := stWith iss1 (crew regs8)
     let p : Nat → Pending := fun _ => { pending [.batch 7] 0 with creg := none, vals := [8] }
     Issues s iss1 (crew regs8) ∧ (waitKinds f.ctl.toNat).filter (· != 0) = [2]
     ∧ operandCheck s (crew regs8) 1 1 1 0x400000 [(.w32, src 1)] 255 1 false = none ∧ boundLanes (crew regs8) 1 [(.w32, src 1)] 255 1 = 0
     ∧ (∀ l ∈ lanesOf (1 : Mask), waitLane s (crew regs8) f l (readLane s (crew regs8) 1 [(.w32, src 1)] l).vals = .ok (p l) 0 ∧ ReadsClean s (p l))
     ∧ (∀ l < 32, ((crew regs8).thread l).st ≠ .waiting ∧ (((crew regs8).thread l).st = .ready → ((crew regs8).thread l).why = .none))
     ∧ (∀ l ∈ lanesOf (1 : Mask), ((crew regs8).thread l).pc = 0x400000) ∧ (crew regs8).threads.length = 32)
    ∧ (let c := crewWith regs8 (fun t => { t with st := .waiting, batches := [[1]], wait := some (pending [.batch 0, .time 2] 20) })
       let s := stWith iss c
       s.crewAt 1 0 = some 0 ∧ s.crews[0]? = some c ∧ c.threads.length = 32 ∧ (∀ th ∈ c.threads, th.st = .ready → th.why = .none)
       ∧ s.waitPoison c (pending [.batch 0, .time 2] 20) = none ∧ ReadsClean s (pending [.batch 0, .time 2] 20) ∧ s.waitExpired (pending [.batch 0, .time 2] 20) = true) := by
  refine ⟨⟨⟨rfl, rfl⟩, by decide +kernel, by decide +kernel, by decide +kernel, only_lane_zero ⟨rfl, fun _ h => nomatch h⟩, by decide +kernel, by decide +kernel, rfl⟩, ?_⟩
  and_intros <;> first | decide +kernel | exact fun _ h => nomatch h

/-- A boundary at cycle 0; a hold that has reached the least limit, 64; a collective that has; an ended team without copies. -/
theorem witness_TimedReleases :
    (st regs8).cycle % 8 = 0
    ∧ (let c := { crewWith regs8 (fun t => { t with st := .held, mrv := true, mrm := 0x400000 }) with holds := [(0x400000, 64)] }
       let s := stWith iss c
       s.crewAt 1 0 = some 0 ∧ s.crews[0]? = some c ∧ (∀ th ∈ c.threads, th.st = .ready → th.why = .none) ∧ c.threads.length = 32
       ∧ (0x400000, 64) ∈ c.holds ∧ (s.teamOf c).holdcfg = 0)
    ∧ (let c := { crewWith regs8 (fun t => { t with st := .cheld }) with coll := [(0x400000, 64)] }
       let s := stWith iss c
       s.crewAt 1 0 = some 0 ∧ s.crews[0]? = some c ∧ (s.teamOf c).holdcfg = 0 ∧ c.coll.find? (fun x => decide (max 64 0 ≤ x.2)) = some (0x400000, 64))
    ∧ (let s : State := { State.reset with teams := [{ team with ended := true }] }
       s.findTeam 1 = some { team with ended := true } ∧ s.copies = []) := by
  and_intros <;> decide +kernel

/-- Lane 0 held at its PC, lane 1 about to join it, the others with no meeting address; the same with a lane that is still to come. -/
def meetCrew (away : Bool) : Crew :=
  { crew [] with
    holds := [(0x400000, 5)]
    threads := { thr [] with st := .held, mrv := true, mrm := 0x400000 } :: { thr [] with mrv := true, mrm := 0x400000 }
      :: { thr [] with pc := 0x500000, mrv := away, mrm := 0x400000 } :: List.replicate 29 { thr [] with pc := 0x500000 } }
/-- A crew of which lane 31 has exited, one at a collective of which the others are elsewhere, one whose guard is true in lane 0 alone. -/
theorem witness_Meetings :
    (∀ away, (meetCrew away).threads.length = 32 ∧ ∀ th ∈ (meetCrew away).threads, (th.st = .ready → th.why = .none)
      ∧ (th.st = .held → th.mrOld = none ∧ th.mrv = true ∧ th.mrm = th.pc ∧ ∃ h ∈ (meetCrew away).holds, h.1 = th.pc))
    ∧ (let f := f64 1 2 0 0
       let gone := { crew regs8 with threads := List.replicate 31 (thr regs8) ++ [{ thr regs8 with st := .exited }] }
       let half : Issue := { crew := 0, mask := 0xFFFF, pc := 0x400000 }
       let some := { crew regs8 with threads := { thr regs8 with preds := 1 } :: List.replicate 31 (thr regs8) }
       let g : F64 := { f with h := { gp := 0, gn := 0, dst := 1 } }
       (Issues (stWith iss gone) iss gone ∧ gone.live ≠ allLanes)
       ∧ (Issues (stWith half (crew regs8)) half (crew regs8) ∧ (crew regs8).live = allLanes ∧ half.mask ≠ allLanes)
       ∧ (Issues (stWith iss some) iss some ∧ some.live = allLanes ∧ guardMask some allLanes g.h ≠ 0 ∧ guardMask some allLanes g.h ≠ allLanes
         ∧ isCreg 1 = false ∧ isCreg 129 = true ∧ oddAt some (guardMask some allLanes g.h) [(useW false, g.s1)] 1 1 false = false))
    ∧ (let at_ := fun (st : TState) (pc : DWord) => { thr [] with st := st, pc := pc }
       let lost := { crew [] with coll := [(0x400000, 3)], threads := at_ .exited 0 :: List.replicate 31 (at_ .cheld 0x400000) }
       let whole := { crew [] with coll := [(0x400000, 3)], threads := List.replicate 32 (at_ .cheld 0x400000) }
       let apart := { crew [] with coll := [(0x400000, 3)], threads := at_ .ready 0 :: List.replicate 31 (at_ .cheld 0x400000) }
       (lost.threads.length = 32 ∧ (∃ th ∈ lost.threads, th.st = .exited) ∧ ∃ th ∈ lost.threads, th.st = .cheld)
       ∧ (whole.threads.length = 32 ∧ ∀ th ∈ whole.threads, th.st = .cheld ∧ th.pc = 0x400000)
       ∧ (apart.threads.length = 32 ∧ (∀ th ∈ apart.threads, th.st ≠ .exited)
         ∧ ∃ th ∈ apart.threads, ∃ u ∈ apart.threads, th.st = .cheld ∧ ¬ (u.st = .cheld ∧ u.pc = th.pc))) := by
  unfold Issues; and_intros <;> decide +kernel

/-! ### Witnesses: memory -/

def f128m (d a b c m fmt scp ord sp : Nat) : F128M :=
  { h := hdr d, s1 := src a, s2 := src b, mod := BitVec.ofNat 6 m, s3 := src c, fmt := BitVec.ofNat 4 fmt, pg := 0, scp := BitVec.ofNat 3 scp
    rd := 2, ord := BitVec.ofNat 2 ord, sp := BitVec.ofNat 2 sp, cnt := 0, rsv := 0, off := 0 }

/-- The hypotheses of `MemLaw` for a bundle of lane 0: a lane with a plan, and one whose plan is `drop`. -/
def memHyps (i : Instr) (f : F128M) (d : MemDesc) (s : State) (p : LanePlan) : Prop :=
  let c := (s.crews[0]?).getD default
  Issues s iss1 c ∧ memDesc i = some d ∧ guardMask c 1 f.h = 1 ∧ pageWait s c iss1 1 d = none ∧ pageLanes s c 1 1 d = [] ∧ memOut s c 1 1 d = 0
  ∧ hintDrop s c 1 1 d = 0 ∧ memCheck s c 1 1 0 0x400000 d = none
  ∧ blockRule [(0, d.plan s c 0 (readLane s c 1 (d.uses (fmtOfLane s c 1 d 0)) 0).vals)] = [(0, .ok p)]
  ∧ s.slotsHeld c.team c.id + 4 ≤ 11 ∧ 1 ≤ (s.teamOf c).level

def unit (l : Loc) (n v : Nat) : AUnit := { loc := l, size := n, data := v, done := false }


/-- x0:x1 = 64, x2:x3 = 4096, x4 = 1: an offset, an address, a count. -/
def memState : State := up (stWith iss1 (crew [reg 0 64, reg 1 0, reg 2 4096, reg 3 0, reg 4 1, reg 5 0, reg 6 7, reg 7 0]))

/-- An engine that holds line 4 in G: an epilogue that has still to store there. -/
def heldState : State :=
  { memState with
    accq := [{ (default : AccEntry) with id := 9, granted := true, lines := [4] }]
    accs := [{ (default : Acc) with id := 9, kind := .tile, units := [unit (.phys 4096) 8 0] }] }

theorem witness_MemoryInstructionsIssue :
    (∃ d p, memHyps (.ld (f128m 8 0 0 0 2 0 0 0 1)) (f128m 8 0 0 0 2 0 0 0 1) d memState p)
    ∧ (∃ d p, memHyps (.ld (f128m 8 0 0 0 2 0 0 1 0)) (f128m 8 0 0 0 2 0 0 1 0) d memState p)
    ∧ (∃ d p, memHyps (.ldm (f128m 8 0 4 0 2 0 0 0 1)) (f128m 8 0 4 0 2 0 0 0 1) d memState p)
    ∧ (∃ d p, memHyps (.st (f128m 255 0 6 0 2 0 0 2 0)) (f128m 255 0 6 0 2 0 0 2 0) d memState p)
    ∧ (∃ d p, memHyps (.stm (f128m 255 0 6 4 2 0 0 0 1)) (f128m 255 0 6 4 2 0 0 0 1) d memState p)
    ∧ (∃ d p, memHyps (.aadd (f128m 8 0 6 0 0 12 0 3 0)) (f128m 8 0 6 0 0 12 0 3 0) d memState p)
    ∧ (∃ d p, memHyps (.acas (f128m 8 0 6 4 0 13 0 0 1)) (f128m 8 0 6 4 0 13 0 0 1) d memState p)
    ∧ (∃ d p, memHyps (.amaxswap (f128m 8 0 0 0 0 2 0 0 1)) (f128m 8 0 0 0 0 2 0 0 1) d memState p)
    ∧ (∃ d p, memHyps (.stsig (f128m 255 0 6 2 2 0 2 0 0)) (f128m 255 0 6 2 2 0 2 0 0) d memState p)
    ∧ (∃ d p, memHyps (.binit (f128m 255 0 4 0 0 0 0 0 1)) (f128m 255 0 4 0 0 0 0 0 1) d memState p)
    ∧ (∃ d p, memHyps (.barr (f128m 8 0 4 0 0 0 0 0 1)) (f128m 8 0 4 0 0 0 0 0 1) d memState p)
    ∧ (∃ d p, memHyps (.binv (f128m 255 0 0 0 0 0 0 0 1)) (f128m 255 0 0 0 0 0 0 0 1) d memState p)
    ∧ (∃ d p, memHyps (.clwb (f128m 255 2 0 0 0 0 0 0 0)) (f128m 255 2 0 0 0 0 0 0 0) d memState p)
    ∧ (∃ d p, memHyps (.ldphys (f128m 8 2 0 0 2 0 0 0 0)) (f128m 8 2 0 0 2 0 0 0 0) d memState p)
    ∧ (∃ d p, memHyps (.stphys (f128m 255 2 6 0 2 0 0 0 0)) (f128m 255 2 6 0 2 0 0 0 0) d memState p)
    ∧ (let f := f128m 255 2 0 0 0 0 0 0 0
       let c := (memState.crews[0]?).getD default
       hintDrop memState c 1 1 (lineDesc f .load) = 0 ∧ memCheck memState c 1 1 0 0x400000 (lineDesc f .load) = none
       ∧ hintPlan f 1 memState c 0 4096 = .ok [(4096, 0, false)] ∧ memState.gLines = [] ∧ memState.fabricHolds (some 0) 4096 = false
       ∧ 4096 / 1024 ∈ heldState.gLines ∧ hintPlan f 1 heldState c 0 4096 = .ok [(4096, 0, false)]) := by
  and_intros
  iterate 15 exact ⟨_, _, ⟨⟨rfl, rfl⟩, rfl, by decide +kernel, rfl, rfl, by decide +kernel, by decide +kernel, by decide +kernel, rfl,
    by decide +kernel, by decide +kernel⟩⟩
  · decide +kernel
  · decide +kernel
  · rfl
  · rfl
  · decide +kernel
  · decide +kernel
  · rfl

/-- An access of lane 0 of the crew, alone in the machine. -/
def acc (i : Instr) (k : AccKind) (us : List AUnit) : Acc :=
  { (default : Acc) with id := 9, group := 8, serial := 1, pc := 0x400000, ins := i, kind := k, units := us, slots := 1, addr := 64 }
def accState (a : Acc) : State := { up (stWith iss1 (crew [reg 8 0])) with cur := none, accs := [a] }
def performing (a : Acc) (k : Nat) (u : AUnit) : Prop := Performs (accState a) 9 k a u ∧ NoSpill (accState a) a

theorem noSpill_of (a : Acc) (h : a.dst = none ∨ a.dst = some 8) : NoSpill (accState a) a := by
  intro b hb _ k c _ hc
  have hb : b = a := by simpa [accState] using hb
  right
  intro r hr
  have hc : [crew [reg 8 0]][k]? = some c := hc
  rcases k with _ | k
  · have hc : c = crew [reg 8 0] := by simpa using hc.symm
    subst hc; subst hb
    have : ((crew [reg 8 0]).thread b.lane).regs = [reg 8 0] ∨ ((crew [reg 8 0]).thread b.lane).regs = [] := by
      unfold Crew.thread
      cases h : (crew [reg 8 0]).threads[b.lane]? with
      | none => right; rfl
      | some t =>
        left
        have := List.mem_of_getElem? h
        have ht : t = thr [reg 8 0] := by simpa [crew] using this
        rw [ht]; rfl
    rcases this with h | h
    · rw [h] at hr; simp only [List.mem_singleton] at hr; rw [hr]; rfl
    · rw [h] at hr; simp at hr
  · simp at hc

/-- A table of three levels at 0x20000, 0x40000 and 0x60000 with a leaf of 2 GiB, for ASID 0. -/
def tableState : State :=
  let m := ((Memory.writeN [] 0 16 (1 + 2 ^ 17)).writeN 0x20000 16 (1 + 2 ^ 10 * 0x100)).writeN 0x40000 16 (1 + 2 + 4 + 8 + 16)
  { up (st regs8) with store := { (up (st regs8)).store with mem := m } }

/-- Pages at 64 MiB and 128 MiB that lookups of the crew have found absent and invalid; a leaf of the other world at 192 MiB, one that the user may
not use at 256 MiB, one of FP4B24 at 320 MiB. -/
def trapState' (lv : Nat) : State :=
  let q : Lookup := { core := 0, asid := 0, secure := false, va := 2 ^ 26, walking := true, guess := none, failed := some .pageAbsent, waiters := [(1, 0)] }
  { memState with
    teams := [{ team with level := lv, clvl := 1, csize := 3, teams := 3 }, { team with serial := 2, teamid := 1, core := 16 }, { team with serial := 3, teamid := 2, core := 1 }]
    store := { memState.store with
      coreTlb := [(0, leaf), (0, { leaf with va := 3 * 2 ^ 26, wld := true }), (0, { leaf with va := 4 * 2 ^ 26, usr := false }), (0, { leaf with va := 5 * 2 ^ 26, sfmt := 7 })]
      lookups := [q, { q with va := 2 * 2 ^ 26, failed := some .ptInvalid }] } }
def trapF (sp : Nat) : F128M := f128m 8 0 6 0 2 13 0 0 sp
def laneIs (p : Space → Int → Bool) : Except Cause (Space × Int) → Bool
  | .ok (sp, o) => p sp o
  | .error _ => false
theorem witness_MemoryTraps_lanes :
    let s := trapState' 0
    let c := (s.crews[0]?).getD default
    let window := 0x1FFFF * 2 ^ 40
    (match laneAddr (trapF 0) (2 ^ 57) with | .error e => e == .addrRange | _ => false) = true
    ∧ (match laneAddr (trapF 0) (window + 4 * 2 ^ 32) with | .error e => e == .addrWindow | _ => false) = true
    ∧ laneIs (fun sp o => sp == .scratch && o == 2) (laneAddr (trapF 1) 2) = true ∧ laneIs (fun sp o => sp == .scratch && o == -4) (laneAddr (trapF 1) (2 ^ 32 - 4)) = true
    ∧ laneIs (fun sp o => sp == .scratch && o == 1024 * 32) (laneAddr (trapF 1) 32768) = true
    ∧ (laneIs (fun sp o => sp == .dscratch && o == 0) (laneAddr (trapF 2) 0) = true ∧ (s.ctxOf 0).ways 0 = 0)
    ∧ (∀ m < 4, laneIs (fun sp o => sp == .peer m && o == 32768) (laneAddr (trapF 0) (window + 3 * 2 ^ 32 + m * 2 ^ 19 + 32768)) = true)
    ∧ ((s.teams.find? (fun u => u.ctx == 0 && u.node == 0 && u.teamid == 1 && !u.ended)).map (·.core) = some 16
      ∧ (s.teams.find? (fun u => u.ctx == 0 && u.node == 0 && u.teamid == 2 && !u.ended)).map (fun u => (u.core, u.scrK)) = some (1, 32))
    ∧ (laneIs (fun sp o => sp == .priv && o == 0) (laneAddr (trapF 0) (window + 2 ^ 32)) = true ∧ c.privSize = 0)
    ∧ s.xlate c (2 ^ 26) .write = .fault .pageAbsent ∧ s.xlate c (2 * 2 ^ 26) .write = .fault .ptInvalid ∧ s.xlate c (3 * 2 ^ 26) .write = .fault .worldFault
    ∧ s.xlate c (4 * 2 ^ 26) .write = .fault .pageProt ∧ s.xlate c 4096 .write = .ok 4096 leaf
    ∧ (s.fenced c 0 4096 4 = false ∧ s.tableAt 4096 4 = false ∧ s.homeOff 4096 = false ∧ leaf.sfmt ≠ 7)
    ∧ ({ s with pkg := { s.pkg with off := [0] } } : State).homeOff 4096 = true ∧ s.xlate c (5 * 2 ^ 26) .write = .ok 0 { leaf with va := 5 * 2 ^ 26, sfmt := 7 } := by
  and_intros <;> decide +kernel

/-- The state with FP4B24 pages at 320 MiB, whose block scales lie in the first 64 MiB. -/
def fp4State : State :=
  let s := trapState' 0
  { s with store := { s.store with coreTlb := [(0, leaf), (0, { leaf with va := 5 * 2 ^ 26, sfmt := 7, csoff := -(5 * 2 ^ 26) })] } }
def isElem (p : LaneRes → Bool) (x : Except LaneRes (Loc × Nat × Option Leaf × Nat)) : Bool := match x with | .error r => p r | .ok _ => false
/-- Typed and `.page` accesses to a page with its format, to one that is absent or invalid, and to FP4B24 pages; elements of a strided access; STSIG. -/
theorem witness_MemoryTraps_formats :
    let s := fp4State
    let c := (s.crews[0]?).getD default
    let f := f128m 8 0 0 0 0 3 0 0 0
    let fp4 := { f128m 8 0 0 0 0 7 0 0 0 with pg := 1 }
    (¬(f.fmt = 0 ∧ f.pg = 0) ∧ laneIs (fun sp o => sp == .global && o == 4096) (laneAddr f 4096) = true ∧ s.leafRes c 4096 = .ok leaf ∧ leaf.sfmt = 0
      ∧ s.xlate c 4096 .read = .ok 4096 leaf)
    ∧ s.leafRes c (2 ^ 26) = .failed .pageAbsent ∧ s.leafRes c (2 * 2 ^ 26) = .failed .ptInvalid
    ∧ (let lf := { leaf with va := 5 * 2 ^ 26, sfmt := 7, csoff := -(5 * 2 ^ 26) }
       s.leafRes c (5 * 2 ^ 26) = .ok lf ∧ s.xlate c (5 * 2 ^ 26) .read = .ok 0 lf ∧ 24 * (lf.size / 12) ≥ 1
       ∧ wrap 57 ((lf.va : Int) + lf.csoff + 0) = 0 ∧ s.xlate c 0 .read = .ok 0 leaf
       ∧ s.fenced c 0 0 1 = false ∧ s.tableAt 0 1 = false ∧ s.homeOff 0 = false)
    ∧ fp4.pg = 1
    ∧ (let g := f128m 8 0 4 0 2 0 0 0 0
       laneIs (fun sp o => sp == .global && o == 4096) (laneAddr g 4096) = true
       ∧ (match planElem g false s c 0 4096 4096 0 with | .ok y => y.2.1 == 2 | .error _ => false) = true
       ∧ isElem (fun r => match r with | .page va a _ => va == 2 ^ 26 && a == 4096 | _ => false) (planElem g false s c 0 4096 4096 (2 ^ 26 - 4096)) = true
       ∧ isElem (fun r => match r with | .fault e _ a => e == .ptInvalid && a == 4096 | _ => false) (planElem g false s c 0 4096 4096 (2 ^ 27 - 4096)) = true)
    ∧ (let g := f128m 255 0 6 2 2 0 0 0 0
       g.n = 1 ∧ laneIs (fun sp o => sp == .global && o == 4096) (laneAddr g 4096) = true
       ∧ (match decodeAddr 4096 with | .ok (sp, o) => sp == .global && o == 4096 | .error _ => false) = true
       ∧ (match s.pieces c 0 .write .global 4096 [] (chunks 4096 4) with | .ok _ => true | .error _ => false) = true
       ∧ s.xlate c 4096 .write = .ok 4096 leaf
       ∧ (match decodeAddr (2 ^ 57) with | .ok _ => false | .error e => e == .addrRange) = true) := by
  and_intros <;> decide +kernel

/-- A LD of three lanes: lane 0 at a page that is absent, lane 1 misaligned, lane 2 in order. -/
def trapCrew : Crew :=
  { crew [] with threads := thr [reg 0 (2 ^ 26), reg 1 0] :: thr [reg 0 4098, reg 1 0] :: List.replicate 30 (thr [reg 0 4096, reg 1 0]) }
def resIs (p : LaneRes → Bool) (r : List (Nat × LaneRes)) : Bool := r.length == 1 && r.all (fun x => p x.2)
theorem witness_MemoryTraps_issue :
    let i : Issue := { crew := 0, mask := 7, pc := 0x400000 }
    let s := { trapState' 0 with crews := [trapCrew], cur := some i }
    let f := f128m 8 0 0 0 0 0 0 0 0
    ∃ d, memDesc (.ld f) = some d ∧ d.hint = false ∧ d.f.pg ≠ 1 ∧ d.phys = false ∧ Issues s i trapCrew ∧ s.dbg = [] ∧ guardMask trapCrew 7 d.f.h = 7
      ∧ memOut s trapCrew 7 7 d = 0 ∧ memCheck s trapCrew 7 7 0 0x400000 d = none ∧ (∀ x ∈ d.uses 0, x.2.last = 0)
      ∧ resIs (fun r => match r with | .page va _ _ => va == 2 ^ 26 | _ => false) (blockRule [(0, d.plan s trapCrew 0 (readLane s trapCrew 7 (d.uses 0) 0).vals)]) = true
      ∧ resIs (fun r => match r with | .fault k _ _ => k == .misalign | _ => false) (blockRule [(1, d.plan s trapCrew 1 (readLane s trapCrew 7 (d.uses 0) 1).vals)]) = true
      ∧ resIs (fun r => match r with | .ok _ => true | _ => false) (blockRule [(2, d.plan s trapCrew 2 (readLane s trapCrew 7 (d.uses 0) 2).vals)]) = true
      ∧ s.slotsHeld 1 0 + 1 ≤ 11 := by
  refine ⟨_, rfl, rfl, ?_⟩
  unfold Issues; and_intros <;> decide +kernel

/-- The table of `tableState`, from its root; and a CALL at depth 516 beside one at depth 0, a RET at depth 0. -/
theorem witness_MemoryTraps_walk :
    tableState.homeRead (tableState.pkg.atb * 2 ^ 20) 16 % 4 = 1 ∧ tableState.homeRead 0x20000 16 % 4 = 1 ∧ tableState.homeRead 0x40000 16 % 4 = 3
    ∧ leafReserved (tableState.homeRead 0x40000 16) = false ∧ (∃ p ∈ tableState.pkg.parts, 0 < p.base + p.granules * 65536)
    ∧ tableState.homeRead 0x40010 16 % 2 = 0 := by
  and_intros <;> decide +kernel
theorem witness_MemoryTraps_calls :
    let c := { crew [] with threads := { thr [] with depth := 516 } :: List.replicate 31 (thr []) }
    let i : Issue := { crew := 0, mask := 3, pc := 0x400000 }
    Issues (stWith i c) i c ∧ guardMask c 3 (hdr 255) = 3 ∧ operandCheck (stWith i c) c 3 3 3 0x400000 [] 255 1 false = none ∧ boundLanes c 3 [] 255 1 = 0
    ∧ 516 ≤ (c.thread 0).depth ∧ (c.thread 1).depth = 0 := by
  unfold Issues; and_intros <;> decide +kernel

/-- A store to a scratchpad, one at the top of a W sector of another stack's line, and one to a line of its own stack; one with a release at stack
scope; the payload of a STSIG; physical stores to a tower and past every tower. -/
theorem witness_StoresPerform :
    (let a := acc (.st (f128m 255 0 6 0 2 0 0 0 1)) .store [unit (.scr 1 64) 4 7]
     Performs (accState a) 9 0 a (unit (.scr 1 64) 4 7) ∧ a.phys = false ∧ wideRelease a = false)
    ∧ (let u := unit (.phys 0x100FC) 4 7
       let a := acc (.st (f128m 255 0 6 0 2 0 0 0 0)) .store [u]
       Performs (accState a) 9 0 a u ∧ (accState a).inW { core := 0, ctx := 0, scope := 0 } 0x100FC = true ∧ 0x100FC % 256 + 4 = 256
       ∧ (accState a).store.poison = [] ∧ (accState a).store.l2 = [])
    ∧ (let u := unit (.phys 4096) 8 7
       let a := acc (.st (f128m 255 0 6 0 3 0 0 0 0)) .store [u]
       Performs (accState a) 9 0 a u ∧ (accState a).inW { core := 0, ctx := 0, scope := 0 } 4096 = false ∧ (accState a).store.wsecs = [])
    ∧ (let u := unit (.phys 4096) 8 7
       let a := { acc (.st (f128m 255 0 6 0 3 0 3 2 0)) .store [u] with rel := true, scope := 3 }
       Performs (accState a) 9 0 a u ∧ wideRelease a = true)
    ∧ (let u := unit (.phys 4096) 4 7
       let a := acc (.stsig (f128m 255 0 6 2 2 0 2 0 0)) .stsig [u, unit (.phys 8192) 4 0]
       Performs (accState a) 9 0 a u ∧ a.kind = .stsig ∧ 0 + 1 ≠ a.units.length)
    ∧ (∀ pa ∈ [4096, 2 ^ 40], let u := unit (.phys pa) 4 7
       let a := { acc (.stphys (f128m 255 2 6 0 2 0 0 0 0)) .store [u] with phys := true }
       Performs (accState a) 9 0 a u ∧ ((accState a).partAt pa = none ↔ pa = 2 ^ 40) ∧ pa % 256 + u.size ≤ 256) := by
  unfold Performs; and_intros <;> decide +kernel

/-- A load of one word whose register is pending, the last of its instruction. -/
theorem witness_LoadsAndAtomics_loads :
    let u := unit (.scr 1 64) 4 0
    let a := { acc (.ld (f128m 8 0 0 0 2 0 0 0 1)) .load [u] with dst := some 8, nreg := 1 }
    Performs (accState a) 9 0 a u ∧ NoSpill (accState a) a ∧ (accState a).store.wsecs = []
    ∧ (accState a).crewAt 1 0 = some 0 ∧ a.nreg = a.result.1.length
    ∧ (let c := crew [reg 8 0]
       (c.thread 0).st ≠ .exited ∧ ((c.thread 0).reg? 8).any (fun r => r.st == .mapped) = true)
    ∧ ([a].map (fun b => { b with units := [{ u with done := true }] })).all Acc.done = true := by
  refine ⟨?_, noSpill_of _ (.inr rfl), ?_⟩
  · unfold Performs; decide +kernel
  · and_intros <;> decide +kernel

/-- LDPHYS in a tower and past every tower; a load whose die holds W sectors. -/
theorem witness_LoadsAndAtomics_physical :
    (∀ pa ∈ [4096, 2 ^ 40], let u := unit (.phys pa) 4 0
       let a := { acc (.ldphys (f128m 8 2 0 0 2 0 0 0 0)) .load [u] with phys := true, dst := some 8, nreg := 1 }
       Performs (accState a) 9 0 a u ∧ NoSpill (accState a) a ∧ ((accState a).partAt pa = none ↔ pa = 2 ^ 40) ∧ pa % 1024 + u.size ≤ 1024)
    ∧ (let w : WSec := { die := 0, sector := 0x100, ctx := 0, bytes := [(0x10000, 7)] }
       let u := unit (.phys 0x10000) 4 0
       let a := { acc (.ld (f128m 8 0 0 0 2 0 0 0 0)) .load [u] with dst := some 8, nreg := 1 }
       let s := { accState a with store := { (accState a).store with wsecs := [w] } }
       Performs s 9 0 a u ∧ s.store.mem.wf = true ∧ WForm s) := by
  refine ⟨fun pa h => ?_, by unfold Performs WForm; and_intros <;> decide +kernel⟩
  simp only [List.mem_cons, List.not_mem_nil, or_false] at h
  rcases h with rfl | rfl <;> refine ⟨by unfold Performs; decide +kernel, noSpill_of _ (.inr rfl), by decide +kernel, by decide +kernel⟩

/-- ADD at a word, and a compare-and-swap that finds its value and one that does not. -/
theorem witness_LoadsAndAtomics :
    (let f := f128m 8 0 6 0 0 12 0 3 1
     let u := unit (.scr 1 64) 4 0
     let a := { acc (.aadd f) .atomic [u] with dst := some 8, nreg := 1, vals := [64, 7] }
     Performs (accState a) 9 0 a u ∧ wideRelease a = false ∧ NoW (accState a) u.loc 4 ∧ NoSpill (accState a) a ∧ a.ins = .aadd f)
    ∧ (let f := f128m 8 0 6 4 0 12 0 0 1
       let u := unit (.scr 1 64) 4 0
       let a := fun (c : Nat) => { acc (.acas f) .atomic [u] with dst := some 8, nreg := 1, vals := [64, 7, c] }
       ∀ c ∈ [0, 5], Performs (accState (a c)) 9 0 (a c) u ∧ ofBytes ((accState (a c)).readLoc 0 u.loc 4) = 0) := by
  refine ⟨⟨?_, by decide +kernel, ?_, noSpill_of _ (.inr rfl), rfl⟩, ?_⟩
  · unfold Performs; decide +kernel
  · intro pa h; cases h
  · unfold Performs; decide +kernel

/-- The state of an access to an object at offset 64 with these bytes. -/
def barState (a : Acc) (v : Nat) : State := { accState a with teams := [{ team with scr := Memory.writeN [] 64 16 v }] }

/-- BINIT; BARR that completes a phase (its pend is its count); BEXPB with an arrival; BINV; a count that is too large. -/
theorem witness_BarrierUpdates :
    let f := f128m 255 0 4 0 0 0 0 0 1
    let g := f128m 8 0 4 0 1 0 0 0 1
    let u := unit (.scr 1 64) 16 0
    let on := fun (i : Instr) (k : AccKind) (n v : Nat) =>
      let a := { acc i k [u] with vals := [64, n] }
      Performs (barState a v) 9 0 a u ∧ wideRelease a = false ∧ ofBytes ((barState a v).readLoc 0 u.loc 16) = v
    on (.binit f) .bar 65535 0 ∧ on (.barr g) .bar 2 (2 * 2 ^ 16 + 2 * 2 ^ 32) ∧ on (.bexpb g) .bar 32 (2 ^ 16 + 2 ^ 32)
    ∧ on (.binv f) .binv 0 (1 + 2 ^ 16) ∧ on (.barr g) .bar 3 (2 * 2 ^ 16 + 2 * 2 ^ 32)
    ∧ (let a := { acc (.barr g) .bar [u] with vals := [64, 2], rel := true, scope := 3 }
       Performs (barState a 0) 9 0 a u ∧ wideRelease a = true)
    ∧ (let a := acc (.binv f) .binv [u]
       let s := barState a 0
       Performs { s with copies := [{ (default : Copy) with recvs := [{ serial := 1, off := 64, arrived := false }] }] } 9 0 a u)
    ∧ (let x := { acc (.tcopy (f128x 255 0 0 0 4 0x10)) .copy [] with vals := [0, 0, 4] }
       Loc.scr 1 64 ∈ (barState x 0).waitNames x)
    ∧ (barState (acc (.barr g) .bar [u]) 0).copies = [] ∧ (barState (acc (.barr g) .bar [u]) 0).dbg = []
    ∧ (barState (acc (.barr g) .bar [u]) 0).crewAt 1 0 = some 0 := by
  unfold Performs; and_intros <;> decide +kernel

/-- A fence that releases to the stack and one that does not; a payload and the signal word of a STSIG; a write-back; a W sector alone. -/
theorem witness_ReleasesAndWriteBacks :
    (let u := unit (.phys 0) 0 0
     ∀ sc ∈ [0, 3], let a := { acc (.fence (f64 255 0 0 0)) .fence [u] with rel := true, scope := sc }
       Performs (accState a) 9 0 a u ∧ (wideRelease a = true ↔ sc = 3) ∧ (accState a).dieGone (dieOf a.core) = false)
    ∧ (let f := f128m 255 0 6 2 2 0 2 0 0
       let p := unit (.scr 1 64) 4 7
       let q := unit (.phys 4096) 4 0
       let a := acc (.stsig f) .stsig [unit (.phys 4100) 4 7, q]
       let b := acc (.stsig f) .stsig [{ p with done := true }, q]
       Performs (accState a) 9 0 a (unit (.phys 4100) 4 7) ∧ (accState a).inW { core := 0, ctx := 0, scope := 0 } 4100 = false
       ∧ Performs (accState b) 9 1 b q ∧ 1 + 1 = b.units.length ∧ (accState b).store.wsecs = [])
    ∧ (let u := unit (.phys 4096) 1024 0
       let a := acc (.clwb (f128m 255 2 0 0 0 0 0 0 0)) .clwb [u]
       let b := acc (.clevict (f128m 255 2 0 0 0 0 0 0 0)) .clevict [u]
       Performs (accState a) 9 0 a u ∧ Performs (accState b) 9 0 b u ∧ (accState a).store.poison.contains (4096 / 256 + u.data) = false
       ∧ (let s := { accState a with store := { (accState a).store with poison := [16] } }
          Performs s 9 0 a u ∧ s.store.poison.contains (4096 / 256 + u.data) = true))
    ∧ (let w : WSec := { die := 0, sector := 0x100, ctx := 0, bytes := [(0x10000, 7)] }
       let s := { up (st regs8) with store := { (up (st regs8)).store with wsecs := [w] } }
       s.store.wsecs.filter (fun x => x.die == w.die && x.sector == w.sector) = [w] ∧ s.dieGone w.die = false
       ∧ s.host.cur = .gale ∧ s.fabricHolds (some w.die) (256 * w.sector) = false) := by
  unfold Performs; and_intros <;> decide +kernel

/-- The place of the word that a CALL (from depth 4 on) or a RET (from depth 5 on) of a lane moves. -/
def deepPiece (s : State) (c : Crew) (w : Want) (l least : Nat) : Except LaneRes (Loc × Option Leaf) :=
  let off := 8 * ((c.thread l).depth - least)
  s.piece c l w .priv (off : Int) 8 off (s.footOf c l .priv (off : Int) 8)

/-- A CALL at depth 4 whose window is mapped; its access and that of a RET from depth 5, which may be performed. -/
theorem witness_DeepCalls :
    (let c := crewWith regs8 (fun t => { t with depth := 4, stack := [0x400100, 0x400200, 0x400300, 0x400400] })
     let s := up (stWith iss1 c)
     Issues s iss1 c ∧ lanesOf (guardMask c 1 (hdr 255)) ≠ [] ∧ s.slotsHeld 1 0 + 2 ≤ 11
     ∧ ∀ l ∈ lanesOf (1 : Mask), 4 ≤ (c.thread l).depth ∧ (c.thread l).depth < 516 ∧ deepPiece s c .write l 4 = .ok (.phys 0, some leaf))
    ∧ (let c := crewWith regs8 (fun t => { t with depth := 515, stack := [0x400100, 0x400200, 0x400300, 0x400400] })
       let s := up (stWith iss1 c)
       ∀ l ∈ lanesOf (1 : Mask), (c.thread l).depth < 516 ∧ deepPiece s c .write l 4 = .ok (.phys 4088, some leaf))
    ∧ (let c := crewWith regs8 (fun t => { t with depth := 5, stack := [0x400100, 0x400200, 0x400300, 0x400400] })
       let s := up (stWith iss1 c)
       s.slotsHeld 1 0 + 1 ≤ 11 ∧ ∀ l ∈ lanesOf (1 : Mask), 5 ≤ (c.thread l).depth ∧ ((c.thread l).stack.head?.getD 0).toNat % 4 = 0
        ∧ deepPiece s c .read l 5 = .ok (.phys 0, some leaf))
    ∧ (let u := unit (.phys 0) 8 0x400400
       let c := crewWith regs8 (fun t => { t with st := .stalled, why := .call, depth := 4, stack := [1, 2, 3, 4] })
       let go := fun (k : AccKind) =>
         let a := acc (.call (f96i 255 0 0 16)) k [u]
         let s := { up (stWith iss1 c) with cur := none, accs := [a] }
         Performs s 9 0 a u ∧ s.accs.filter (fun b => b.group == 8) = [a] ∧ s.crewAt 1 0 = some 0 ∧ s.crews[0]? = some c
         ∧ (c.thread 0).st = .stalled ∧ s.store.mem.wf = true ∧ s.store.wsecs = [] ∧ ∀ x ∈ c.threads, x.st = .ready → x.why = .none
       go (.push 0x400040 0x40000C) ∧ go .pop) := by
  refine ⟨⟨⟨rfl, rfl⟩, by decide +kernel, by decide +kernel, only_lane_zero ⟨by decide +kernel, by decide +kernel, rfl⟩⟩,
    only_lane_zero ⟨by decide +kernel, rfl⟩, ⟨by decide +kernel, only_lane_zero ⟨by decide +kernel, by decide +kernel, rfl⟩⟩, ?_⟩
  unfold Performs; and_intros <;> decide +kernel

/-- A lookup before and after it has missed the last-level TLB, with a leaf there, without one, and with no table to walk. -/
theorem witness_TranslationLookups :
    let q : Lookup := { core := 0, asid := 0, secure := false, va := 0, walking := false, guess := none, failed := none, waiters := [] }
    let s := fun (l : List (Nat × Leaf)) (w : Bool) =>
      { up (st regs8) with store := { (up (st regs8)).store with llTlb := l, lookups := [{ q with walking := w }] } }
    100 / 65536 * 65536 = q.va ∧ (s [] true).walkWaits q = false ∧ (s [(0, leaf)] false).llLeaf 0 0 false 100 = some leaf ∧ (s [] false).llLeaf 0 0 false 100 = none
    ∧ (match walk (s [] true) 0 false 0 with | .error _ => True | .ok _ => False) := by
  and_intros <;> first | decide +kernel | trivial

theorem witness_TranslationLookups_walk : ∃ l, walk tableState 0 false 0 = .ok l := by
  have h : (match walk tableState 0 false 0 with | .ok l => l.size == 2 ^ 31 | .error _ => false) = true := by decide +kernel
  cases e : walk tableState 0 false 0 with
  | ok l => exact ⟨l, rfl⟩
  | error c => rw [e] at h; cases h

/-- Two lanes of a load that wait to be replayed, whose plans are accesses again; in replay, an access with a recorded source that is done. -/
theorem witness_Replays :
    (∀ h ∈ [Hold.replay, .predict],
     let f := f128m 8 0 0 0 2 0 0 0 1
     let a := { acc (.ld f) .load [] with hold := h, vals := [64], dst := some 8, nreg := 1 }
     let b := { a with id := 10, lane := 1, vals := [68] }
     let s := { accState a with accs := [a, b] }
     s.accs.filter (fun x => x.group == a.group && x.hold == a.hold) = [a, b] ∧ [a, b].Pairwise (fun x y => x.lane < y.lane)
     ∧ (∀ x ∈ [a, b], ∀ y ∈ s.accs, y.id = x.id → y = x) ∧ s.replayReady (crew [reg 8 0]) a = true ∧ s.crewAt 1 0 = some 0
     ∧ ∃ d p q, memDesc a.ins = some d ∧ blockRule ([a, b].map (fun x => (x.lane, d.plan s (crew [reg 8 0]) x.lane x.vals))) = [(0, .ok p), (1, .ok q)])
    ∧ (let a := { acc (.ld (f128m 8 0 0 0 2 0 0 0 1)) .load [unit (.scr 1 64) 4 0] with hold := .clock }
       let s := { accState a with
         rr := { Replay.reset with lcp := 1, run := some { mode := 2, ctx := 0, node := 0, lbase := 0, llog := 16 }, clocks := [(3, 40, 2)] }
         store := { (accState a).store with mem := Memory.writeN [] 0 32 (recordBits (3, 40, 2) (0, 0, 1)) } }
       s.accs.find? (fun b => b.id == 9) = some a ∧ s.crewAt 1 0 = some 0 ∧ s.findTeam 1 = some team
       ∧ ∀ r ∈ s.rr.run, ∀ j < min s.rr.lcp r.size, (recordAt s r j).2 = (0, 0, (s.rr.clock 0 0 + 1) % 2 ^ 32)
         ∧ (recordAt s r j).1.2.2 ≤ s.rr.clock (recordAt s r j).1.1 (recordAt s r j).1.2.1) := by
  refine ⟨fun h hh => ?_, by and_intros <;> decide +kernel⟩
  simp only [List.mem_cons, List.not_mem_nil, or_false] at hh
  rcases hh with rfl | rfl <;>
    exact ⟨by decide +kernel, by decide +kernel, by decide +kernel, by decide +kernel, by decide +kernel, _, _, _, rfl, rfl⟩

/-- A `.page` load whose page was absent at its issue, and is there now, in FP32. -/
theorem witness_Replays_late :
    let f := { f128m 8 2 0 0 0 0 0 0 0 with pg := 1 }
    let x : Late := { first := 8, len := 1, room := none, zero := [], bad := [], fresh := [8], last := [] }
    let a := { acc (.ld f) .load [] with hold := .replay, vals := [4096], dst := some 8, nreg := 1, late := some x }
    let s := accState a
    s.replayReady (crew [reg 8 0]) a = true
    ∧ (memDesc a.ins).any (fun d => match d.fmtAt s (crew [reg 8 0]) a.lane a.vals with
        | .ok st => (d.lateStop x (s.teamOf (crew [reg 8 0])).strict st).isNone
        | .error _ => false) = true := by
  and_intros <;> decide +kernel

/-! ### Witnesses: privileged instructions -/

/-- The hypotheses of `PrivLaw` but its precondition, for lane 0 of the crew at 0. -/
def privHyps (h : Hdr) (srcs : List (Use × Src)) (level : Nat) (s : State) : Prop :=
  let c := (s.crews[0]?).getD default
  s.cur = some iss1 ∧ s.crew? 0 = some c ∧ level ≤ (s.teamOf c).level ∧ (lanesOf (guardMask c 1 h)).head? = some 0 ∧ s.crewIdle c = true
  ∧ (∀ x ∈ srcs, x.2.last = 0) ∧ operandCheck s c 1 (maskOf [0]) (maskOf [0]) 0x400000 srcs 255 1 false = none
  ∧ boundLanes c (maskOf [0]) srcs 255 1 = 0

/-- What the lane reads. -/
def privVals (srcs : List (Use × Src)) (s : State) : List Nat := (readLane s ((s.crews[0]?).getD default) 1 srcs 0).vals

def okIs {ε α : Type} (p : α → Bool) : Except ε α → Bool
  | .ok x => p x
  | .error _ => false
def privIs {α : Type} (p : α → Bool) : Priv α → Bool
  | .ok x => p x
  | _ => false

/-- x0:x1 = 64, x2:x3 = 4096, x4:x5 = 1, x6:x7 = 17, x8:x9 = 8192; a second crew of the team; a handle table of 4 entries; level F. -/
def privRegs : List Reg := [reg 0 64, reg 1 0, reg 2 4096, reg 3 0, reg 4 1, reg 5 0, reg 6 17, reg 7 0, reg 8 8192, reg 9 0]
def privState : State :=
  { up (stWith iss1 (crew privRegs)) with
    crews := [crew privRegs, { crew [] with id := 1, slot := 1 }]
    teams := [{ team with crews := 2, level := 2 }]
    ctxs := [{ context with htab := BitVec.ofNat 64 (4 * 2 ^ 46) }] }

theorem witness_PrivilegeCheck :
    let s : State := { privState with teams := [{ team with level := 0 }] }
    let c := crew privRegs
    s.cur = some iss1 ∧ s.crew? 0 = some c ∧ (s.teamOf c).level < 1
    ∧ oddAt c (guardMask c 1 (hdr 255)) [(.w64, src 4), (.w32, src 6), (.w64, src 8)] 255 1 false = false
    ∧ oddAt c (guardMask c 1 (hdr 2)) [] 2 2 true = false := by
  and_intros <;> decide +kernel

theorem witness_PrivilegeCheck_physical :
    let s : State := { privState with teams := [{ team with level := 0 }] }
    let c := crew privRegs
    let f := f128m 8 2 6 0 2 0 0 0 0
    ∀ i ∈ [Instr.ldphys f, .stphys { f with h := hdr 255 }], (memDesc i).any (fun d => (memIllegal s c 1 (guardMask c 1 f.h)
      0x400000 d).isNone) = true := by
  decide +kernel

/-- One fault record, of a crew of context 0. -/
def oneRec : Rec := { (default : Rec) with rid := 5, cause := .userTrap, fdom := 0, serial := 1, crew := 1, lmask := 1 }
def ringState : State :=
  { privState with cp := { privState.cp with rings := [{ ctx := 0, fdom := 0, head := 0, tail := 1
                                                         recs := [{ index := 0, fault := oneRec, claimed := false, ended := false }] }] } }

/-- A register of each width; TR.NEXT with a record that can be claimed, and without one. -/
theorem witness_SpecialRegistersRead :
    let c := crew privRegs
    LaneRuns ringState iss1 c (f96i 1 0 0 0x022).h [] 1 false ∧ LaneRuns ringState iss1 c (f96i 126 0 1 0x117).h [] 2 false
    ∧ 1 ≤ (ringState.teamOf c).level ∧ guardMask c 1 (hdr 1) ≠ 0 ∧ c.claim = none
    ∧ ((ringState.ringOf 0 0).recs.find? (fun y => !y.claimed && !y.ended)).map (·.index) = some 0
    ∧ (privState.ringOf 0 0).recs = [] := by
  unfold LaneRuns Issues; and_intros <;> decide +kernel

theorem witness_ContextInstructions :
    CrewsWhole privState ∧ privState.store.wsecs = [] ∧ privHyps (f96i 255 6 0 0x012).h [(useW false, src 6)] 1 privState ∧ privHyps (f96i 255 6 1 0x013).h [(useW true, src 6)] 2 privState
    ∧ privHyps (f64 255 2 5 2).h [(.w64, src 2), (.w32, src 5)] 1 privState ∧ privVals [(.w64, src 2), (.w32, src 5)] privState = [4096, 0]
    ∧ (privState.ctxOf 0).asids.toNat = 16 * 2 ^ 16
    ∧ privHyps (f64 255 4 0 2).h [(.w32, src 4)] 1 privState ∧ privHyps (f64 255 0 0 10).h [] 1 privState
    ∧ (privHyps (f64 255 4 4 0).h [(.w32, src 4), (.w32, src 4)] 1 privState ∧ privVals [(.w32, src 4), (.w32, src 4)] privState = [1, 1]
       ∧ (privState.partOf 0).map (·.num) = some 0 ∧ ((privState.partOf 0).map (privState.partDies ·)) = some (List.range 16)
       ∧ ∀ u ∈ privState.teams, u.dscrK = 0)
    ∧ privHyps (f64 255 6 0 0).h [(.w32, src 6)] 1 privState
    ∧ val (privVals [(.w32, src 4)] privState) 0 < (privState.ctxOf 0).hcnt
    ∧ (let f := f128m 255 2 4 0 0 0 0 0 0
       privHyps f.h [(.w64, f.s1), (.w32, f.s2)] 1 privState ∧ val (privVals [(.w64, f.s1), (.w32, f.s2)] privState) 1 = 1
       ∧ privIs (fun _ => true) (privState.threadRead (crew privRegs) 0 4096 64 32) = true) := by
  unfold privHyps CrewsWhole; and_intros <;> decide +kernel

/-- An operation of each kind, the oldest of a machine with nothing else under way. -/
theorem witness_DrainsEnd :
    let drain := fun (k : DrainKind) => ({ id := 7, ctx := 0, serial := 1, crew := 0, kind := k } : Drain)
    let s := fun (k : DrainKind) => { privState with drains := [drain k] }
    ∀ k ∈ [DrainKind.tlb 0 1 none 0 2 [9], .split 1 [0], .split 0 [3, 4], .seed 9, .handle 3 [1, 2], .handleAll, .htab 5],
      (s k).drains.find? (fun e => e.id == 7) = some (drain k) ∧ (s k).accs = [] ∧ (s k).copies = [] ∧ (s k).dictlds = [] ∧ (s k).firstSplit (drain k) = true
      ∧ (∀ x ∈ (s k).pkg.dies, x.rebuilding = false) ∧ (s k).store.wsecs = [] ∧ (s k).handleBusy (drain k) (some 3) = false
      ∧ (s k).handleBusy (drain k) none = false ∧ ((s k).ctxOf 0).ways 3 = 0 ∧ ((s k).ctxOf 0).handles.wf = true ∧ Unheld (s k) ∧ CrewsWhole (s k) := by
  intro drain s k hk; simp only [List.mem_cons, List.not_mem_nil, or_false] at hk
  rcases hk with rfl | rfl | rfl | rfl | rfl | rfl | rfl <;> unfold Unheld CrewsWhole <;> and_intros <;> decide +kernel

/-- A TLBINV whose access 9 is to perform still, and one whose accesses have performed while another, translated through a leaf that came back, has not. -/
theorem witness_DrainsEnd_users :
    let d : Drain := { id := 7, ctx := 0, serial := 1, crew := 0, kind := .tlb 0 1 none 0 2 [9] }
    let a := { acc (.ld (f128m 8 0 0 0 2 0 0 0 0)) .load [unit (.phys 4096) 4 0] with foot := [(.va 4096, 4)] }
    let s := { privState with drains := [d], accs := [a] }
    let u := { privState with drains := [d], accs := [{ a with id := 10 }] }
    (s.accs.map (fun x => (x.id, x.hold == Hold.none, x.units.isEmpty))) = [(9, true, false)]
    ∧ (∀ x ∈ u.accs, x.id ∉ [9]) ∧ 10 ∈ u.tlbUsers d.ctx 0 1 none 0 2 ∧ (u.accs.map (fun x => (x.hold == Hold.none, x.units.isEmpty))) = [(true, false)] := by
  and_intros <;> decide +kernel

/-- A lane that waits for a MEM word of ASID 0 at an address that the invalidation of page 0 may move. -/
theorem witness_ContextInstructions_waits :
    let p := { pending [.mem (.phys 4096) 1 1] 0 with addr := 4096 }
    let c := crewWith regs8 (fun t => { t with st := .waiting, wait := some p })
    let s := { privState with crews := [c] }
    (s.unitOf 2 c.core = s.unitOf 2 0 ∧ 0 ≤ c.asid ∧ c.asid < 0 + 1 ∧ (c.thread 0).st = .waiting ∧ (c.thread 0).wait = some p)
    ∧ p.conds = [.mem (.phys 4096) 1 1] ∧ (footVas (s.footOf c 0 .global 4096 p.msz)).any (fun v => v / 2 ^ 31 == 0) = true
    ∧ (match decodeAddr 4096 with | .ok (sp, o) => sp == .global && o == 4096 | .error _ => false) = true := by
  and_intros <;> decide +kernel

/-- x6 = 17 names crew 1 of team 1, which is not the issuer. -/
theorem witness_CrewControl :
    let f := f64 255 6 0 0
    let d := { crew [] with id := 1, slot := 1 }
    privHyps f.h [(.w32, f.s1)] 1 privState ∧ privVals [(.w32, f.s1)] privState = [17] ∧ privState.findTeam 1 = some { team with crews := 2, level := 2 }
    ∧ privState.crews[1]? = some d ∧ privState.crewAt 1 1 = some 1 ∧ privState.authority (crew privRegs) { team with crews := 2, level := 2 } 0 = true
    ∧ privState.dumpCore 1 = none ∧ privState.saved = [] ∧ privState.drains = [] ∧ privState.accs = [] ∧ privState.accq = []
    ∧ d.threads.length = 32 ∧ (∀ th ∈ d.threads, th.st = .ready → th.why = .none) ∧ (∀ y ∈ privState.crews, privState.nextId ∉ y.busy) := by
  unfold privHyps; and_intros <;> decide +kernel

/-- The team of both crews by name, 16; a crew inside a gate call whose innermost frame is to end, the accesses of which are all of its crew. -/
theorem witness_CrewControl_team :
    let f := f64 255 6 0 1
    let s := { privState with crews := [crew (privRegs.map (fun r => if r.n = 6 then reg 6 16 else r)), { crew [] with id := 1, slot := 1 }] }
    let d := { crew [] with id := 1, slot := 1, frames := [default] }
    let u := { privState with crews := [crew privRegs, d] }
    privHyps f.h [(.w32, f.s1)] 1 s ∧ privVals [(.w32, f.s1)] s = [16] ∧ 16 % 16 = 0
    ∧ (∀ d ∈ s.crews, s.authority ((s.crews[0]?).getD default) { team with crews := 2, level := 2 } d.fdom = true)
    ∧ privHyps (f64 255 6 4 2).h [(.w32, src 6), (.w32, src 4)] 1 u ∧ privVals [(.w32, src 6), (.w32, src 4)] u = [17, 1] ∧ u.accs = []
    ∧ (u.teamOf (crew privRegs)).level = 2 ∧ d.frames ≠ [] ∧ ∀ th ∈ d.threads, th.causes = [] := by
  unfold privHyps; and_intros <;> decide +kernel

/-- A saved team 5 in an area at 4096 whose header says so. -/
def savedTeam : Saved := { (default : Saved) with team := { team with serial := 5 }, crews := [{ crew [] with team := 5, id := 1 }], addr := 4096, status := 1 }
def savedState : State :=
  { privState with saved := [savedTeam], store := { privState.store with mem := (Memory.writeN [] 4096 4 1).writeN 4104 3 5 } }
def areaIs (p : Memory → Bool) (s : State) : Bool :=
  okIs p (s.saveRead { (default : Saved) with team := s.teamOf (crew privRegs), addr := 4096, asid := 0, secure := false, status := 1 } 2 0 12)

/-- A team whose save area is its header alone, of one line: sets of caches are free values, and no evaluation tells whether two lines share one. -/
def small : Team := { team with ended := false, crews := 0, scrK := 0, tiles := 0, tile := [] }
/-- CTXSAVE of team 1, of team 64 that nobody knows, and of a team of a cohort of two; CTXREST of an area of status 1 of a saved team, and of one that
has no team; a save that has drained and is written, one that is ended, and one whose area is not mapped. -/
theorem witness_SavesAndRestores :
    (let f := f64 255 4 2 0
     privHyps f.h [(.w32, f.s1), (.w64, f.s2)] 1 privState ∧ privVals [(.w32, f.s1), (.w64, f.s2)] privState = [1, 4096]
     ∧ privState.findTeam 1 = some { team with crews := 2, level := 2 } ∧ privState.saving 1 = false ∧ privState.dumpCore 1 = none
     ∧ (∀ d ∈ privState.crews, d.team = 1 → privState.authority (crew privRegs) { team with crews := 2, level := 2 } d.fdom = true)
     ∧ okIs (· == 4096) (privState.pinned 0 0 false 4096 .write) = true ∧ privState.store.mem.wf = true ∧ privState.store.wsecs = [])
    ∧ (let f := f64 255 0 2 0
       privHyps f.h [(.w32, f.s1), (.w64, f.s2)] 1 privState ∧ privVals [(.w32, f.s1), (.w64, f.s2)] privState = [64, 4096] ∧ privState.findTeam 64 = none)
    ∧ (let u := { team with crews := 2, level := 2, clvl := 1, teamid := 1 }
       let v := { u with serial := 2, teamid := 0 }
       let s := { privState with teams := [u, v] }
       privHyps (hdr 255) [(.w32, src 4), (.w64, src 2)] 1 s ∧ s.findTeam 1 = some u ∧ s.cohortOf u = [u, v])
    ∧ (privHyps (f64 255 2 0 0).h [(.w64, src 2)] 1 savedState ∧ areaIs (fun m => m.readN 0 4 == 1 && m.readN 8 3 == 5) savedState = true
       ∧ (savedState.saved.find? (fun y => y.team.serial == 5 && y.status == 1)).map (·.op) = some none)
    ∧ (privHyps (f64 255 2 0 0).h [(.w64, src 2)] 1 privState ∧ areaIs (fun m => m.readN 0 4 == 0) privState = true ∧ privState.saved = [])
    ∧ (∀ q ∈ [({ savedTeam with team := { team with ended := false }, status := 0 } : Saved),
          { savedTeam with team := { team with ended := false }, status := 0, acts := [.killAll] },
          { savedTeam with team := { team with ended := false }, status := 0, addr := 2 ^ 40 }],
       let x := { team with ended := false }
       let s : State := { up (st regs8) with crews := [crew regs8, { crew [] with team := 2 }], saved := [q] }
       s.saved.find? (fun v => v.team.serial == x.serial && v.status == 0) = some q ∧ s.findTeam x.serial = some x ∧ s.saveReady x = true
       ∧ s.journalRoom = true ∧ s.saveHeld q x = false ∧ Unheld s ∧ x.scr.wf = true ∧ (∀ m ∈ x.tile, m.wf = true)
       ∧ ∀ w ∈ s.saved, w.team.serial = x.serial)
    ∧ (let x := small
       let s : State := { up (st regs8) with crews := [{ crew [] with team := 2 }], teams := [small] }
       let out := fun (a : Nat) => State.saveOut ((s.crews.filter (fun c => c.team == x.serial)).foldl State.spillsUse
           ((s.pushDie 0).areaUse { savedTeam with team := x, status := 0, addr := a } (saveBytes x) .write)) { savedTeam with team := x, status := 0, addr := a } x
         (s.crews.filter (fun c => c.team == x.serial)) []
       s.findTeam 1 = some x ∧ s.saveReady x = true ∧ okIs (fun _ => true) (out 4096) = true ∧ okIs (fun _ => true) (out (2 ^ 40)) = false)
    ∧ Unheld privState ∧ Unheld savedState ∧ privState.drains = [] ∧ savedState.drains = []
    ∧ okIs (· == 4100) (privState.pinnedOff savedTeam.team.core 0 false (savedTeam.addr + 4) 8 .write) = true := by
  unfold privHyps Unheld; and_intros <;> decide +kernel

/-- A crew that claims the record of a crew: of crew 1 (outside a gate call, in one with nothing under way, in one with a load), of no crew, of a crew
that has exited, of a saved one; one that claims nothing; and one in another domain's gate call. -/
def claimed : Crew := { crew privRegs with claim := some { fdom := 0, index := 0, rid := 5, dws := [] } }
def trapState (disp : Nat) (r : Rec) (d : Crew) : State :=
  { ringState with
    crews := [{ claimed with threads := List.replicate 32 (thr [reg 4 disp]) }, d]
    cp := { ringState.cp with rings := [{ ctx := 0, fdom := 0, head := 0, tail := 1, recs := [{ index := 0, fault := r, claimed := true, ended := false }] }] } }
def parkedCrew (gate : Bool) : Crew :=
  { crew [] with id := 1, slot := 1, frames := if gate then [default] else []
                 threads := List.replicate 32 { thr [] with st := .parked, causes := [.fault 5] } }
theorem witness_TrapReturn :
    (∀ disp ∈ [0, 1, 2, 3], ∀ gate ∈ [false, true],
      let s := trapState disp oneRec (parkedCrew gate)
      let c := (s.crews[0]?).getD default
      privHyps (f64 255 4 0 0).h [(.w32, src 4)] 1 s ∧ privVals [(.w32, src 4)] s = [disp] ∧ c.claim.map (·.index) = some 0
      ∧ ((s.ringOf 0 0).recs.find? (fun r => r.index == 0)).map (·.fault) = some oneRec ∧ s.crewAt 1 1 = some 1 ∧ s.crews[1]? = some (parkedCrew gate)
      ∧ (parkedCrew gate).live ≠ 0 ∧ s.authority c (s.teamOf (parkedCrew gate)) 0 = true ∧ (s.teamOf c).level = 2 ∧ s.saving 1 = false ∧ s.dumpCore 1 = none
      ∧ s.accs = [])
    ∧ (let s := { trapState 3 oneRec (parkedCrew true) with accs := [{ acc (.ld (f128m 8 0 0 0 2 0 0 0 1)) .load [unit (.scr 1 64) 4 0] with crew := 1 }] }
       privHyps (f64 255 4 0 0).h [(.w32, src 4)] 1 s ∧ (parkedCrew true).frames ≠ [] ∧ ∀ a ∈ s.accs, a.crew = 1 ∧ a.held = false)
    ∧ (let s := trapState 0 { oneRec with crew := 2 } (parkedCrew false)
       privHyps (f64 255 4 0 0).h [(.w32, src 4)] 1 s ∧ s.crewAt 1 2 = none ∧ s.saved = [])
    ∧ (let d := { crew [] with id := 1, slot := 1, threads := List.replicate 32 { thr [] with st := .exited } }
       let s := trapState 0 oneRec d
       privHyps (f64 255 4 0 0).h [(.w32, src 4)] 1 s ∧ s.crewAt 1 1 = some 1 ∧ d.live = 0)
    ∧ (let s := { trapState 3 { oneRec with serial := 5 } (parkedCrew true) with saved := [{ savedTeam with crews := [{ parkedCrew true with team := 5 }] }] }
       let c := (s.crews[0]?).getD default
       privHyps (f64 255 4 0 0).h [(.w32, src 4)] 1 s ∧ s.crewAt 5 1 = none ∧ (s.saved.find? (fun w => w.team.serial == 5)).isSome = true
       ∧ s.saved.all (fun w => s.authority c w.team 0 && w.crews.all (fun d => d.id == 1 && (s.killGateFault c (w.ahead d)).isNone)) = true)
    ∧ (let d := { parkedCrew false with fdom := 9 }
       let s := trapState 0 oneRec d
       let s := { s with teams := s.teams.map (fun x => { x with level := 1 }), crews := s.crews.modify 0 (fun c => { c with frames := [default] }) }
       let c := (s.crews[0]?).getD default
       privHyps (f64 255 4 0 0).h [(.w32, src 4)] 1 s ∧ s.crewAt 1 1 = some 1 ∧ s.authority c (s.teamOf d) d.fdom = false)
    ∧ privHyps (f64 255 4 0 0).h [(.w32, src 4)] 1 privState ∧ (crew privRegs).claim = none := by
  unfold privHyps; and_intros <;> decide +kernel

/-- An RCB at 8192 with a gate table of 4 entries at 16384; a new entry at 4096. -/
def gateTableState : State :=
  { privState with store := { privState.store with mem := (Memory.writeN [] 8224 8 16384).writeN 8232 2 4 } }
theorem witness_GateTableWrites :
    let s := gateTableState
    let c := crew privRegs
    let f := f128m 255 2 4 8 0 0 0 0 0
    Unheld s ∧ privHyps f.h [(.w64, f.s1), (.w32, f.s2), (.w64, f.s3)] 1 s ∧ privVals [(.w64, f.s1), (.w32, f.s2), (.w64, f.s3)] s = [4096, 1, 8192]
    ∧ privIs (fun ch => (rcbGates (ch.head?.getD (0, 0)).2).2 == 4 && s.regionAuthority c ch) (s.ownChain c 0 8192) = true
    ∧ privIs (fun _ => true) (s.threadRead c 0 4096 32 32) = true ∧ s.store.wsecs = []
    ∧ privHyps (f64 255 4 8 0).h [(.w32, src 4), (.w64, src 8)] 1 s ∧ privHyps (f64 255 0 8 1).h [(.w64, src 8)] 1 s ∧ s.store.mem.wf = true := by
  unfold privHyps Unheld; and_intros <;> decide +kernel

/-! ### Witnesses: accumulators, copies, dictionaries -/

/-- INT8 operands in scratch, at x0 = 64 and x2 = 4096, with rows 64 bytes apart. -/
def intMma : F128X := f128x 216 0 2 0 0 (8 + 8 * 16 + 16 * 2 ^ 10 + 16 * 2 ^ 17)
def matIs : MatRes → Bool
  | .ok _ _ => true
  | _ => false
def matState : State := { up (stWith iss (crew privRegs)) with cur := some iss }
def latchCrew : Crew :=
  { crew privRegs with latch := some (.mma intMma), threads := List.replicate 32 { thr privRegs with st := .stalled, why := .latch } }
def latchState : State := { matState with cur := none, crews := [latchCrew] }

theorem witness_MatrixInstructions :
    (matState.crews[0]? = some (crew privRegs) ∧ (crew privRegs).live = allLanes ∧ guardMask (crew privRegs) allLanes intMma.h = allLanes
     ∧ intMma.h.dst.toNat - 216 < (matState.teamOf (crew privRegs)).tiles
     ∧ matIs (mmaPlan matState (crew privRegs) iss (.mma intMma) intMma false) = true
     ∧ matIs (mmaPlan matState (crew privRegs) iss (.mmag (f128x 216 0 2 0 0 (8 + 8 * 16 + 16 * 2 ^ 17))) (f128x 216 0 2 0 0 (8 + 8 * 16 + 16 * 2 ^ 17)) true) = true)
    ∧ latchState.crewAt 1 0 = some 0 ∧ (∀ th ∈ latchCrew.threads, th.st = .stalled ∧ th.why = .latch) ∧ latchState.queued 0 < 16
    ∧ matIs (mmaPlan { latchState with crews := latchState.crews.set 0 { latchCrew with latch := none } } latchCrew
        { crew := 0, mask := allLanes, pc := (latchCrew.thread 0).pc } (.mma intMma) intMma false) = true := by
  and_intros <;> decide +kernel

/-- The hypotheses of `AccLaw` but the entry, for the whole crew at 0. -/
def accHyps (i : Instr) (h : Hdr) (srcs : List (Use × Src)) (slots : Nat) (s : State) : Prop :=
  let c := (s.crews[0]?).getD default
  s.cur = some iss ∧ s.crew? 0 = some c ∧ (lanesOf (guardMask c allLanes h)).head? = some 0 ∧ c.frames = []
  ∧ (∀ n ∈ namedTiles i, n < (s.teamOf c).tiles) ∧ (∀ x ∈ srcs, x.2.last = 0)
  ∧ oddAt c (guardMask c allLanes h) srcs 255 1 false = false ∧ operandCheck s c allLanes (maskOf [0]) (maskOf [0]) 0x400000 srcs 255 1 false = none ∧ boundLanes c (maskOf [0]) srcs 255 1 = 0
  ∧ s.queued c.core < 16 ∧ (slots = 0 ∨ s.slotsHeld c.team c.id + slots ≤ 11)

/-- Pitches of 64 words at x0 = 64; an AEPI to scratch and one to memory at x2 = 4096, BF16 with rows 128 bytes apart in x10. -/
def epi (spc : Nat) : F128X := f128x 255 2 4 0 10 (3 * 16 + spc * 2 ^ 8)
def epiState : State := { up (stWith iss (crew (privRegs ++ [reg 10 128, reg 11 0]))) with cur := some iss }
theorem witness_MatrixInstructions_entries :
    accHyps (.aclr (f64 217 0 0 0)) (hdr 217) [] 0 matState ∧ accHyps (.amov (f64 217 0 0 16)) (hdr 217) [] 0 matState
    ∧ (let f := f128x 217 0 0 0 0 64
       accHyps (.ald f) f.h [(.w32, f.s1)] 0 matState ∧ accHyps (.ast f) f.h [(.w32, f.s1)] 0 matState
       ∧ 64 % 16 = 0 ∧ 64 + 63 * (4 * (f.ctl.toNat % 2 ^ 11)) + 256 ≤ 1024 * team.scrK
       ∧ ∀ r < 64, matState.poisonRead 0 (.scr 1 (64 + r * 256)) 256 = none)
    ∧ (accHyps (.aepi (epi 1)) (hdr 255) [(.w32, src 2), (.w32, src 4), (.w32, src 10)] 0 epiState
       ∧ okIs (fun x => x.length == 1024) (aepiPlaces epiState (crew (privRegs ++ [reg 10 128, reg 11 0])) (epi 1) 0 [4096, 1, 128]) = true)
    ∧ (accHyps (.aepi (epi 0)) (hdr 255) [(.w64, src 2), (.w32, src 4), (.w32, src 10)] 1 epiState
       ∧ okIs (fun x => !x.isEmpty) (aepiPlaces epiState (crew (privRegs ++ [reg 10 128, reg 11 0])) (epi 0) 0 [4096, 1, 128]) = true) := by
  unfold accHyps; and_intros <;> decide +kernel

/-- Queue states with one entry: each kind may start; one of each shape may complete; one waits for its tensor bytes. -/
def accEntry (i : Instr) (ss ds : List Nat) : AccEntry :=
  { (default : AccEntry) with id := 9, serial := 1, ins := i, srcs := ss, dsts := ds, granted := true }
theorem witness_AccumulatorEntries_clean (src k : Nat) : team.tileBadAt src k = false := rfl
theorem witness_AccumulatorEntries :
    (let s := fun (e : AccEntry) => { matState with cycle := 1, cur := none, accq := [e], accs := tileAccs e }
     ∀ e ∈ [accEntry (.aclr (f64 217 0 0 0)) [] [1], accEntry (.amov (f64 217 0 0 16)) [0] [1], accEntry (.ald (f128x 217 0 0 0 0 64)) [] [1],
         { accEntry (.ast (f128x 255 0 0 0 0 64)) [0] [] with units := List.replicate 2048 (unit (.scr 1 0) 8 0) }, accEntry (.mma intMma) [0] [0]],
       (s e).accq.find? (fun y => y.core == 0 && (s e).mayStart y) = some e ∧ (s e).findTeam 1 = some team)
    ∧ (mmaFmt 8 8).map (fun q => (q.bits, q.n)) = some (8, 64)
    ∧ (∀ e ∈ [{ accEntry (.aclr (f64 217 0 0 0)) [] [1] with started := true, result := [(1, [])] },
         { accEntry (.ast (f128x 255 0 0 0 0 64)) [0] [] with started := true }],
       [e].filter (fun y => y.id == e.id) = [e] ∧ matState.crewAt e.serial e.crew = some 0 ∧ matState.accs = [] ∧ e.poison = none
       ∧ ∀ y ∈ matState.teams, y.ended = false)
    ∧ (∀ n ∈ [8, 4],
       let u := unit (.scr 1 64) n 7
       let e := { accEntry (.aepi (epi 1)) [0] [] with started := true, units := [u] }
       let a := { acc (.aepi (epi 1)) .tile [u] with group := 9 }
       Performs { accState a with accq := [e] } 9 0 a u ∧ [e].find? (fun y => y.id == a.id) = some e ∧ NoW (accState a) u.loc 4
       ∧ (accState a).poisonRead 0 u.loc 4 = none)
    ∧ (let e := { accEntry (.mma intMma) [0] [0] with bsrc := [.zero, .drop] }
       [e].find? (fun y => y.id == e.id) = some e ∧ matState.dictReady e.ctx e.dict e.gen = true ∧ matState.frozen e.ctx = false
       ∧ matState.store.upsets = []) := by
  refine ⟨by decide +kernel, by decide +kernel, by decide +kernel, ?_, by decide +kernel⟩
  intro n hn; simp only [List.mem_cons, List.not_mem_nil, or_false] at hn
  rcases hn with rfl | rfl <;> refine ⟨by unfold Performs; decide +kernel, by decide +kernel, ?_, by decide +kernel⟩ <;>
  · intro pa h; cases h

/-- Entries of BF16, FP64 and FP4B24 MMA and of an AEPI with BF16 output, whose tile holds no poison; a tile that holds some; an entry that met poison. -/
theorem witness_AccumulatorEntries_values :
    (∀ f ∈ [3, 1, 7], let i := .mma (f128x 216 0 2 0 0 (f + f * 16))
      let e := accEntry i [0] [0]
      let s := { matState with cycle := 1, cur := none, accq := [e] }
      s.accq.find? (fun y => y.core == 0 && s.mayStart y) = some e ∧ (mmaFmt f f).any (fun q => !(q.bits == 8 && (f == 8 || f == 9)) && decide (0 < q.n)) = true)
    ∧ (let f := epi 1
       f.ctl.toNat / 16 % 16 = 3 ∧ f.ctl.toNat % 16 = 0 ∧ f.ctl.toNat / 2 ^ 14 % 4 = 0)
    ∧ (List.range 4096).any ({ team with tileBad := [5] }.tileBadAt 0) = true
    ∧ (let e := { accEntry (.mma intMma) [0] [0] with started := true, result := [(0, [])], poison := some 3 }
       matState.accs = [] ∧ matState.crewAt e.serial e.crew = some 0 ∧ (crew privRegs).live ≠ 0 ∧ matState.dbg = []
       ∧ [e].filter (fun y => y.id == e.id) = [e])
    ∧ (let e := accEntry (.aepi (epi 1)) [0] []
       let a := { acc (.aepi (epi 1)) .tile [unit (.scr 1 64) 8 7] with id := e.id }
       [e].find? (fun y => y.id == e.id) = some e ∧ a.id = e.id ∧ a.kind = .tile) := by
  and_intros <;> decide +kernel

/-- TCOPY without a record of x8 zero bytes to the scratchpad, at the offset in x0; its lane is alone. -/
def copyF : F128X := f128x 255 8 0 0 0 (0 + 2 * 8 + 2 ^ 16 + 2 ^ 17)
def copyIs : CopyRes → Bool
  | .copy _ _ vas => vas.isEmpty
  | _ => false
def oneCopy : Copy :=
  { (default : Copy) with id := 9, serial := 1, ins := .tcopy (f128x 255 2 0 0 0 (2 * 8)), targets := [1], granted := true, level := 2 }
def copyState (c : Copy) : State := { privState with cur := none, copies := [c] }

theorem witness_CopyInstructions :
    (let s := privState
     let c := crew privRegs
     Issues s iss1 c ∧ guardMask c 1 copyF.h = 1 ∧ c.frames = [] ∧ (∀ x ∈ tcSrcs copyF, x.2.last = 0)
     ∧ operandCheck s c 1 1 1 0x400000 (tcSrcs copyF) 255 1 false = none ∧ boundLanes c 1 (tcSrcs copyF) 255 1 = 0
     ∧ s.openCopies 1 0 0 < 64 ∧ s.slotsHeld 1 0 + 1 ≤ 11 ∧ copyIs (tcopyLane s c iss1 (.tcopy copyF) copyF 0) = true)
    ∧ (let s := privState
       let c := crew privRegs
       operandCheck s c 1 1 1 0x400000 [(.w64, src 2)] 255 1 false = none ∧ boundLanes c 1 [(.w64, src 2)] 255 1 = 0 ∧ 4096 % 1024 = 0
       ∧ okIs (fun l => l.length == 128) (s.enginePieces c 0 .read ((List.range 128).map (fun k => ((4096 + 8 * k) % 2 ^ 64, 8)))) = true)
    ∧ (let x := { oneCopy with lines := [4], granted := false }
       let c := { crew [] with threads := List.replicate 32 { thr [] with st := .stalled, why := .grant } }
       let s := { copyState x with crews := [c] }
       s.crewAt 1 0 = some 0 ∧ s.copies.find? (fun y => y.serial == 1 && y.crew == 0 && y.lane == 0 && !y.granted) = some x
       ∧ s.linesFree x.id 1 0 x.lane x.lines = true ∧ s.copies.filter (fun y => y.id == x.id) = [x] ∧ x.fields.scope < 3 ∧ s.dieGone (dieOf x.core) = false)
    ∧ (let e := { accEntry (.aepi (epi 0)) [0] [] with lines := [4], granted := false }
       let c := { crew [] with threads := List.replicate 32 { thr [] with st := .stalled, why := .grant } }
       let s := { privState with cur := none, crews := [c], accq := [e] }
       s.crewAt 1 0 = some 0 ∧ s.accq.find? (fun y => y.serial == 1 && y.crew == 0 && y.lane == 0 && !y.granted) = some e ∧ s.linesFree e.id 1 0 0 e.lines = true ∧ s.copies = []
       ∧ s.queued 0 < 16 ∧ c.bundles.find? (fun b => b.getLsbD 0) = some allLanes) := by
  unfold Issues; and_intros <;> decide +kernel

/-- A TCOPY of one word from the scratchpad to 8192, whose dense record at 4096 is read at its issue, with an error in no codeword and in one of the
record; a copy that pushes no W sector. -/
def flatF : F128X := f128x 255 2 0 0 0 (2 + 2 ^ 17)
theorem witness_CopyInstructions_record :
    let m := Memory.writeN [] 4096 32 (1 + 2 ^ 2 + 2 ^ 5 * 2 + 2 ^ 64 * 8192 + 2 ^ 128)
    let c := crew privRegs
    let s := { privState with store := { privState.store with mem := m } }
    let u := { s with store := { s.store with upsets := [{ line := 64, ten := none, bad := false }] } }
    let seen := u.recordCheck c 0 (val (tcopyArgs u c 1 flatF 0).vals 0)
    (tcFields flatF).nr = false ∧ (tcFields flatF).dk = 0 ∧ s.rr.run = none
    ∧ operandCheck s c 1 1 1 0x400000 (tcSrcs flatF) 255 1 false = none ∧ boundLanes c 1 (tcSrcs flatF) 255 1 = 0 ∧ (tcFields flatF).scope < 3
    ∧ (match tcopyLane s c iss1 (.tcopy flatF) flatF 0 with | .copy x _ _ => x.moves.length == 1 && x.failed.isNone | _ => false) = true
    ∧ (match tcopyLane seen c iss1 (.tcopy flatF) flatF 0 with | .copy x _ _ => x.failed.isNone | _ => false) = true
    ∧ s.pushWaits 3 0 = false := by
  and_intros <;> decide +kernel

def engIs (p : List Byte → Bool) : EngRead → Bool
  | .ok b => p b
  | _ => false

/-- A dense record's first element at 4096; a chain whose only element is at 4096 and names 16 bytes at 8192; a move of 8 bytes; an object that the copy completes; a copy that is over, and one
that has failed. -/
theorem witness_CopyEngines :
    (let c := { oneCopy with elem := some 4096 }
     let s := { copyState c with store := { privState.store with mem := Memory.writeN [] 4096 32 1 } }
     CopyActs s 9 c ∧ s.store.upsets = [] ∧ c.held = none ∧ c.first = none ∧ c.elems = 0 ∧ engIs (fun b => b == toBytes 32 1) (s.engineRead c 4096 32) = true)
    ∧ (let v := 2 + 8 + 2 ^ 8 * 16 + 2 ^ 64 * 8192
     let c := { oneCopy with elem := some 4096 }
     let s := { copyState c with store := { privState.store with mem := Memory.writeN [] 4096 32 v } }
     CopyActs s 9 c ∧ c.fields.sk = 0 ∧ 2 ≤ c.fields.dk ∧ engIs (fun b => b == toBytes 32 v) (s.engineRead c 4096 32) = true ∧ v < 2 ^ 256
     ∧ s.store.upsets = [] ∧ c.held = none ∧ c.first = none
     ∧ (v % 4 = 2 ∧ v / 2 ^ 8 % 2 ^ 24 = 16 ∧ v / 2 ^ 64 % 16 = 0 ∧ v / 4 % 2 = 0 ∧ v / 8 % 2 = 1)
     ∧ (Copy.lay s c ((List.range 16).map (fun j => .va (8192 + j)))).1.length = 2
     ∧ (Copy.lay s c ((List.range 16).map (fun j => .va (8192 + j)))).2 = none)
    ∧ (let m : Move := { srcs := List.replicate 8 .zero, dsts := (List.range 8).map (fun j => .at (.scr 1 (64 + j))), recv := 0, addr := 0, done := false }
       let c := { oneCopy with moves := [m] }
       CopyActs (copyState c) 9 c ∧ (copyState c).dictReady c.ctx c.dict c.gen = true ∧ c.plane = none ∧ (copyState c).store.upsets = []
       ∧ engIs (fun b => b.length == 8) ((copyState c).moveBytes c m.srcs) = true)
    ∧ (let c := { oneCopy with recvs := [{ serial := 1, off := 16, arrived := false }], run := 16 }
       (copyState c).copies.filter (fun x => x.id == 9) = [c] ∧ c.elem = none ∧ c.failed = none ∧ c.granted = true ∧ c.fields.scope < 3
       ∧ (copyState c).frozen c.ctx = false ∧ (copyState c).crewAt c.serial c.crew = some 0
       ∧ ((copyState c).poisonRead 0 (.scr 1 16) 16).isSome = false
       ∧ (({ copyState c with teams := [{ team with scrBad := [2] }] } : State).poisonRead 0 (.scr 1 16) 16).isSome = true)
    ∧ (let c := { oneCopy with failed := some (.misalign, 8) }
       c.granted = true ∧ (copyState c).crewAt c.serial c.crew = some 0 ∧ (crew privRegs).live ≠ 0) := by
  unfold CopyActs; and_intros <;> decide +kernel

theorem witness_BatchesAndDictionaries :
    (LaneRuns (st regs8) iss (crew regs8) (f64 1 0 0 0).h [] 1 false ∧ (crew regs8).frames = []
      ∧ ∀ l ∈ lanesOf allLanes, ((crew regs8).thread l).batches.length < 8)
    ∧ (Issues privState iss1 (crew privRegs) ∧ operandCheck privState (crew privRegs) 1 1 1 0x400000 [(.w32, src 4)] 255 1 false = none
      ∧ boundLanes (crew privRegs) 1 [(.w32, src 4)] 255 1 = 0
      ∧ ∀ l < 32, ((crew privRegs).thread l).st ≠ .waiting ∧ (((crew privRegs).thread l).st = .ready → ((crew privRegs).thread l).why = .none))
    ∧ (let c := crewWith [] (fun t => { t with batches := [[], [4]] })
       let s := stWith iss c
       s.crewAt 1 0 = some 0 ∧ (c.threads[0]?).map (·.batches) = some [[], [4]] ∧ ∀ x ∈ c.threads, x.st ≠ .waiting)
    ∧ (let p := { pending [.batch 0] 0 with creg := none }
       let c := { crew [] with threads := { thr [] with batches := [[]], st := .waiting, wait := some p } :: List.replicate 31 (thr []) }
       let s := stWith iss c
       s.crewAt 1 0 = some 0 ∧ c.threads.length = 32 ∧ (c.thread 0).batches = [[]] ∧ (∀ l < 32, l ≠ 0 → (c.thread l).st ≠ .waiting)
       ∧ (∀ x ∈ c.threads, x.st = .ready → x.why = .none) ∧ (c.thread 0).wait = some p ∧ p.conds = [.batch 0] ∧ p.creg = none)
    ∧ (let d : DictLoad := { (default : DictLoad) with id := 9, serial := 1, todo := [2], fenced := true }
       let e := { d with todo := [], reached := [(2, 1)], image := [.phys 4096] }
       let s := fun (d : DictLoad) => { privState with cur := none, dictlds := [d] }
       (s d).dictlds.filter (fun x => x.id == d.id) = [d] ∧ 2 ∈ d.todo ∧ d.failed = none ∧ (s d).accs = [] ∧ (s d).frozen d.ctx = false
       ∧ e.reached.find? (fun r => r.1 == 2) = some (2, 1) ∧ (s e).olderReads e.ctx 2 e.slot 1 = false ∧ (s e).dictReady e.ctx (some (2, e.slot)) 0 = true
       ∧ (∀ l ∈ e.image, (s e).poisonRead 0 l 8 = none ∧ (s e).locInG e.id l = false) ∧ (s e).store.upsets = [] ∧ (s e).store.wsecs = [] ∧ (s e).crewAt 1 0 = some 0
       ∧ (s e).fabricHolds (some 0) 4096 = false) := by
  unfold LaneRuns Issues; and_intros <;> decide +kernel

/-! ### Witnesses: the command processor -/

/-- A fault descriptor of domain 0 at 0x4000, with its ring of 16 records at 0x8000. -/
def faultState : State :=
  { privState with
    ctxs := [{ context with fdt := 0x4001 }]
    cp := { privState.cp with faultQ := [oneRec] }
    store := { privState.store with mem := Memory.writeN [] 0x4000 64 (1 + 4 * 2 ^ 32 + 2 ^ 64 * 0x8000) } }
theorem witness_FaultRecords :
    (faultState.cp.faultQ.find? faultState.deliverable = some oneRec ∧ faultState.journalRoom = true ∧ Unheld faultState
      ∧ faultState.cp.failed = false ∧ faultState.host.cur ≠ .calm
      ∧ (let s1 : State := { faultState with cp := { faultState.cp with faultQ := [] } }
         ((s1.engineUse oneRec.core (s1.ctxOf 0).abase (s1.ctxOf 0).secure (s1.recVas oneRec)).recTarget oneRec).map (fun p => (p.1, p.2.2)) = some (0, false)) ∧ faultState.store.mem.wf = true)
    ∧ ringState.crewAt 1 0 = some 0 ∧ 1 ≤ (ringState.teamOf (crew privRegs)).level
    ∧ ((ringState.ringOf 0 0).recs.find? (fun y => !y.claimed && !y.ended)).map (·.fault) = some oneRec
    ∧ oneRec.sub < 2 ^ 8 ∧ oneRec.gdepth < 8 ∧ oneRec.crew < 16 ∧ oneRec.info < 2 ^ 32 ∧ oneRec.ilane < 32 ∧ oneRec.core < 1024 := by
  unfold Unheld; and_intros <;> decide +kernel

def quietState : State := { privState with cur := none }
def withQueue (q : Queue) (m : Memory) : State :=
  { quietState with cp := { quietState.cp with queues := q :: List.replicate 63 Queue.reset }, store := { quietState.store with mem := m } }
theorem witness_IntakeAndRegisterWrites :
    (withQueue { Queue.reset with fn := 1 } []).awake = true
    ∧ (false, 5) ≠ (Queue.reset.loc, Queue.reset.rbase) ∧ (4, 7) ≠ (Queue.reset.log2n, Queue.reset.ctx)
    ∧ (withQueue { Queue.reset with fn := 1, en := true } []).host.ready = true
    ∧ (16 + 2 ^ 32 - 0) % 2 ^ 32 ≤ 2 ^ Queue.reset.log2n ∧ (17 + 2 ^ 32 - 0) % 2 ^ 32 > 2 ^ Queue.reset.log2n
    ∧ quietState.blockThere 1023 = true
    ∧ (let q := { Queue.reset with fn := 1 }
       let s := withQueue q []
       q.en = false ∧ bit (1 + 2 * 4 + 2 ^ 6 * 7) 0 = true ∧ s.host.ready = true ∧ s.findCtx 7 = none ∧ (s.findCtx 0).isSome = true
       ∧ (s.pkg.parts.find? (fun p => p.fn == q.fn)).map (·.num) = some 0)
    ∧ quietState.visible 9 = false ∧ quietState.allCores[1023]? = some 1023 := by
  and_intros <;> decide +kernel

/-- A command of kind NOP, one of no kind, and a SIGNAL to an address that is not a multiple of 8. -/
theorem witness_CommandsAccepted :
    let s := withQueue { Queue.reset with fn := 1, en := true, tail := 1 }
    ∀ m ∈ [Memory.writeN [] 0 64 (2 ^ 32 * 9), Memory.writeN [] 0 64 4, Memory.writeN [] 0 64 (3 + 2 ^ 256 * 4)],
      (s m).awake = true ∧ (s m).cp.failed = false ∧ (s m).accepting = true ∧ (s m).nextQueue = some 0 ∧ (s m).cp.heldDecs = [] ∧ Unheld (s m) := by
  intro s m hm; simp only [List.mem_cons, List.not_mem_nil, or_false] at hm
  rcases hm with rfl | rfl | rfl <;> unfold Unheld <;> and_intros <;> decide +kernel

/-- A region at 8192 that allows one team of one crew, and the launch record at 12288: EPC 0x400000, one crew, one page. -/
def launchMem : Memory :=
  (Memory.writeN [] 8192 128 (2 ^ 384 * 12288 + 2 ^ 512)).writeN 12288 64 (0x400000 + 2 ^ 64 + 2 ^ 192)
def node (kind a0 a1 a2 : Nat) : Node := { (default : Node) with id := 3, kind := kind, arg0 := a0, arg1 := a1, arg2 := a2 }
def nodeState (n : Node) (m : Memory) : State :=
  { quietState with cp := { quietState.cp with nodes := [n] }, store := { quietState.store with mem := m } }
def errIs (c : Nat) : Except Nat Launch → Bool
  | .error k => k == c
  | .ok _ => false
def launchTm : Team := { team with node := 3, serial := 0, tslots := 1, teams := 1, scrK := 0, tiles := 0 }
def launch (t : Team) : Launch := { (default : Launch) with team := t }
def entry (ids : List Nat) : QEntry := { ctx := 0, node := 3, prio := 0, order := 0, teamids := ids, saved := [] }
/-- A machine with one launch, one entry at the head of core 5, and no crew. -/
def launched (t : Team) (es : List QEntry) : State :=
  { quietState with
    crews := [], teams := []
    cp := { quietState.cp with nodes := [{ node 1 8192 0 0 with st := .started }], launches := [launch t]
                               engines := [{ QEngine.reset 5 with entries := es, headWait := 4096 }] } }

theorem witness_NodesRun :
    (∀ n ∈ [node 0 0 0 0, node 2 4096 8192 16, node 3 4096 5 0, node 1 8192 0 0],
      ((nodeState n launchMem).startable 0 3 n.kind) = some n ∧ n.bufs = [] ∧ n.succs = [] ∧ (nodeState n launchMem).launch? 0 3 = none
      ∧ Unheld (nodeState n launchMem))
    ∧ (let s := nodeState (node 2 4096 8192 16) launchMem
       s.rangeHeld 4096 16 = false ∧ s.rangeHeld 8192 16 = false ∧ s.store.wsecs = [] ∧ s.store.poison = [] ∧ s.located 4096 = true ∧ s.located 8207 = true
       ∧ s.cp.wseq - s.cp.cons + 2 ≤ s.cp.records)
    ∧ okIs (fun l => l.team.crews == 1) ((nodeState (node 1 8192 0 0) launchMem).checkLaunch (node 1 8192 0 0)) = true
    ∧ errIs 5 ((nodeState (node 1 4096 0 0) launchMem).checkLaunch (node 1 4096 0 0)) = true
    ∧ (let n := { node 0 0 0 0 with st := .started, succs := [4] }
       let y := { node 0 0 0 0 with id := 4, pred := 1 }
       let s := { nodeState n [] with cp := { quietState.cp with nodes := [n, y] } }
       s.node? 0 3 = some n ∧ s.launch? 0 3 = none ∧ s.journalRoom = true ∧ s.node? 0 4 = some y)
    ∧ (let s := launched launchTm []
       s.launch? 0 3 = some (launch launchTm) ∧ (∀ e ∈ s.cp.engines, s.stuckOf 0 3 e = []) ∧ s.strayGroups 0 3 = [] ∧ launchTm.teams - 0 ≤ groupSize launchTm
       ∧ (s.dealTo launchTm 1).isSome = true) := by
  unfold Unheld; and_intros <;> decide +kernel

theorem witness_TeamsAdmitted :
    (let s := launched launchTm [entry [0]]
     let u := s.setEngine { s.queueEngine 5 with entries := [], headWait := 0 }
     (s.queueEngine 5).entries = [entry [0]] ∧ s.launch? 0 3 = some (launch launchTm) ∧ s.journalRoomFor 0 = true ∧ u.takes launchTm (.new 0) 5 = true
     ∧ u.freeTeamSlot launchTm = some 0 ∧ takeSlots 0 1 (u.freeSlots 5) = some [0])
    ∧ (let t := { launchTm with clvl := 1, csize := 2, tslots := 2 }
       let s := launched t [entry [0, 1]]
       s.launch? 0 3 = some (launch t) ∧ t.clvl ≠ 0 ∧ (s.tryAdmit 5).isSome = true)
    ∧ (let t := { launchTm with tslots := 0, prio := 3 }
       let s := launched t [entry [0]]
       s.tryAdmit 5 = none ∧ s.entryTeam (entry [0]) = some t ∧ 4096 ≤ (s.queueEngine 5).headWait ∧ s.dbg = [])
    ∧ (let v : Saved := { (default : Saved) with team := { launchTm with serial := 7, crews := 0 }, addr := 4096, status := 1 }
       let s := { launched launchTm [{ entry [] with saved := [7] }] with saved := [v] }
       let u := s.setEngine { s.queueEngine 5 with entries := [], headWait := 0 }
       s.saved.find? (fun w => w.team.serial == 7) = some v ∧ s.journalRoomFor 1 = true ∧ u.takes v.team (.saved 7) 5 = true ∧ s.coreAlive 5 = true
       ∧ v.op = none ∧ v.acts = [] ∧ okIs (fun x => x.2.length == 0) ((u.areaUse v (saveBytes v.team) .read).restoreRead v) = true ∧ takeSlots 0 0 (u.freeSlots 5) = some []
       ∧ Unheld s) := by
  unfold Unheld; and_intros <;> decide +kernel

/-- The example of 14: core 5's LFSR holds 6, steps to 12, and names core 12 of its cluster; core 4 has two entries to give. -/
theorem witness_StealingSteps :
    (let s := launched launchTm []
     s.maySteal 5 = true ∧ (s.queueEngine 5).lfsr = 6 ∧ (s.allCores.filter (fun k => s.unitOf 1 k == s.unitOf 1 5))[12 % 16]? = some 12
     ∧ s.coreAlive 12 = true)
    ∧ (let s := { launched launchTm [] with cp := { (launched launchTm []).cp with engines :=
          [{ QEngine.reset 5 with asked := some 4, backoff := 1 }, { QEngine.reset 4 with entries := [entry [0], entry [1]] }] } }
       (s.queueEngine 5).asked = some 4 ∧ s.host.cur = .gale ∧ s.given 4 5 = [entry [1]] ∧ s.given 3 5 = [] ∧ (s.queueEngine 5).backoff = 1
       ∧ 2 ≤ (s.queueEngine 4).entries.length ∧ (s.queueEngine 5).entries.length + 1 ≤ 64
       ∧ ∀ q ∈ (s.queueEngine 4).entries.reverse.take 1, s.mayMove 4 5 q = true ∧ (s.entryTeam q).map (·.clvl) = some 0) := by
  and_intros <;> decide +kernel

/-- A bank that owes entries to the first crew, with a victim that has one to give; a register being spilled and one that has been; a fetch. -/
theorem witness_SpillsRefillsFetches :
    (let c := { crew [] with owed := true }
     let d := { crew [reg 3 1] with team := 2, slot := 1, order := 1 }
     let e := { crew [] with team := 3, slot := 2 }
     let s := { quietState with crews := [c, d, e], teams := [{ team with regmin := 128 }, { team with serial := 2 }, { team with serial := 3, regmin := 4000 }] }
     s.crewAt 1 0 = some 0 ∧ s.crewBlocked c ≠ 0 ∧ s.victim 0 (s.crewBlocked c) = some 1)
    ∧ (let c := crew [{ reg 3 9 with st := .spilling }, { reg 4 0 with st := .spilled }]
       let s := { quietState with crews := [c] }
       (c.regsAt 0 0).find? (fun r => r.n == 3 && r.st == .spilling) = some { reg 3 9 with st := .spilling } ∧ c.spilledLevel 0 4 = some 0
       ∧ s.canTake c 0 1 = true ∧ okIs (fun _ => true) (s.spillPa c 0 3 0 .write) = true ∧ okIs (fun _ => true) ((s.spillUse c 0 4 0).spillPa c 0 4 0 .read) = true
       ∧ s.spillHeld c 0 3 0 .write = false ∧ s.spillHeld c 0 4 0 .read = false ∧ (s.spillUse c 0 4 0).poisonRead 0 (.phys 0x10000) 4 = none
       ∧ s.poisonRead 0 (.phys 0x10000) 4 = none ∧ s.store.upsets = [])
    ∧ (let c := { crew [] with threads := List.replicate 32 { thr [] with st := .stalled, why := .fetch } }
       let s := { quietState with crews := [c] }
       (match s.fetch c 0x400000 with | .wait pa => pa == 0x400000 | _ => false) = true ∧ s.fetchReady c 0x400000 = true
       ∧ s.store.poison = [] ∧ s.store.upsets = [] ∧ ∀ x ∈ s.store.icache, x.secs.length = 4) := by
  and_intros <;> decide +kernel

/-! ### Witnesses: the package -/

/-- The package with a host state. -/
def hostState (f : HostLink → HostLink) : State := { launched launchTm [] with host := f quietState.host }
/-- A package with nothing at all under way. -/
def idleState (f : HostLink → HostLink) : State := { State.reset with pkg := pkg, host := f { HostLink.reset with ready := true } }

theorem witness_TemperaturesAndPower :
    (quietState.die 3).log ≠ none ∧ (quietState.tower 15).present = true
    ∧ (let s := idleState (fun h => { h with hlt := 500, idle := 1000000 })
       s.pkgIdle = true ∧ 1000 * s.host.idlet ≤ s.host.idle ∧ s.host.entering = none ∧ s.host.exiting = none ∧ s.host.cur = .gale)
    ∧ (let s := idleState (fun h => { h with hlt := 500, entering := some .zephyr })
       s.host.entering = some .zephyr ∧ s.host.exiting = none ∧ s.host.wakeAfter = false ∧ 200 ≤ 500)
    ∧ (idleState (fun h => { h with entering := some .calm })).host.entering = some .calm
    ∧ (idleState (fun h => { h with cur := .calm, exiting := some .gale, timer := 0 })).host.timer = 0 := by
  and_intros <;> decide +kernel

/-- A resident team on core 0 of a running package with a standby; die 1 unanswered for 5 µs; die 2 waking too long; die 3 gone. -/
def lossState : State :=
  let die := fun (k : Nat) => match k with
    | 1 => { Die.reset 1 with log := some 1, hbMiss := some 5000 }
    | 2 => { Die.reset 2 with log := some 2, wakeAge := some 100000 }
    | 3 => { Die.reset 3 with log := some 3, failed := true, rebuilding := true }
    | k => { Die.reset k with log := some k }
  { quietState with
    pkg := { pkg with dies := (List.range 16).map die, failedCores := [17] }
    cp := { quietState.cp with hbAge := 5000, standby := true } }
theorem witness_LossesAndErrors :
    (4160 < 2 ^ 52 ∧ lossState.homeStack 4161 = some 0 ∧ lossState.homeStack (64 * (4161 / 64)) = some 0 ∧ lossState.store.upsets = [] ∧ lossState.homeStack 0x10000 = some 1 ∧ lossState.stackOff 1 = false ∧ lossState.host.cur = .gale)
    ∧ lossState.coreAlive 0 = true ∧ (17 ∈ lossState.pkg.failedCores ∧ ∀ c ∈ lossState.crews, c.core ≠ 17)
    ∧ (lossState.pkg.dies.find? (fun x => x.log == some 15 && !x.failed)).isSome = true
    ∧ ((lossState.die 1).log = some 1 ∧ (lossState.die 1).failed = false ∧ (lossState.die 1).hbMiss = some 5000)
    ∧ ((lossState.die 2).log = some 2 ∧ (lossState.die 2).wakeAge = some 100000 ∧ 1000 * min 1000 (max 10 lossState.pkg.lwl) ≤ 100000)
    ∧ ((lossState.die 3).rebuilding = true ∧ (lossState.die 3).log = some 3) ∧ (lossState.die 0).asleep = false
    ∧ lossState.cp.failed = false ∧ 5000 ≤ lossState.cp.hbAge ∧ lossState.cp.standby = true
    ∧ (let n := node 0 0 0 0
       let m := { node 0 0 0 0 with id := 4, pred := 1 }
       let s := { lossState with cp := { lossState.cp with nodes := [m], nstore := [{ n with st := .done, succs := [4] }, m] } }
       s.cp.nstore.find? (fun x => x.ctx == m.ctx && x.id == m.id && x.seq == m.seq) = some m)
    ∧ (let s := { quietState with cp := { quietState.cp with hbAge := 5000, standby := true } }
       5000 ≤ s.cp.hbAge ∧ s.cp.standby = true ∧ Unheld s)
    ∧ (let s := { lossState with cp := { lossState.cp with standby := false, failed := true }, saved := [savedTeam] }
       5000 ≤ s.cp.hbAge ∧ s.cp.standby = false ∧ s.cp.failed = true ∧ (∃ x ∈ s.ctxs, x.id = 0 ∧ x.lost = false)
       ∧ (∃ u ∈ s.teams, u.ended = false ∧ u.ctx = 0 ∧ s.dumpCore u.serial = none ∧ ∀ w ∈ s.saved, w.team.serial ≠ u.serial)) := by
  unfold Unheld; and_intros <;> decide +kernel

theorem witness_NetworkAndOutside :
    quietState.pkg.ports[15]? = some 0
    ∧ (quietState.outsideWaits (.hostDeviceMemoryAccess 4096 true [1, 2]) = false ∧ quietState.located 4096 = true ∧ quietState.located 4097 = true
      ∧ quietState.store.wsecs = [] ∧ quietState.tableAt 4096 2 = false ∧ quietState.tableAt 64 2 = true)
    ∧ (let s := { quietState with pkg := { quietState.pkg with parts := [] } }
       s.visible 3 = true ∧ s.pkg.parts.find? (fun x => x.fn == 3) = none ∧ s.host.cur = .gale)
    ∧ (hostState (fun h => { h with cur := .zephyr })).outsideWaits (.incomingLaunoRequest 4096 true [1, 2]) = true
    ∧ (quietState.pkg.parts.find? (fun x => x.fn == 1)).map (·.num) = some 0 ∧ quietState.host.cur = .gale ∧ quietState.host.entering = none := by
  and_intros <;> decide +kernel

/-- Core 0 in its reset state; a comparator that matches the PC of a ready crew whose instruction is in the cache; a team parked whole. -/
def matchState : State :=
  { quietState with
    crews := [crew privRegs]
    dbg := [{ Debug.reset 0 with scheds := { Sched.reset with pc0 := 0x400001 } :: List.replicate 3 Sched.reset }]
    store := { quietState.store with icache := [{ core := 0, line := 0x1000, secs := [encode (.flclr (f64 1 0 0 0)) ++ List.replicate 248 0, [], [], []] }] } }
def fetchedIs (p : Instr → Bool) : Fetched → Bool
  | .ok i => p i
  | _ => false
theorem witness_DebugBlock :
    (quietState.blockThere 0 = true ∧ (quietState.debugOf 0).scheds.length = 4 ∧ ((quietState.debugOf 0).sched 3).stopped = false)
    ∧ (((matchState.debugOf 0).sched 0).stopped = false ∧ ((matchState.debugOf 0).sched 0).stepping = false
       ∧ (crew privRegs).bundles = [allLanes] ∧ (lanesOf allLanes).head? = some 0 ∧ ((crew privRegs).thread 0).st = .ready
       ∧ bit 0x400001 0 = true ∧ 0x400001 / 4 = ((crew privRegs).thread 0).pc.toNat / 4 % 2 ^ 55
       ∧ fetchedIs (· != .padWord) (matchState.fetch (crew privRegs) 0x400000) = true)
    ∧ (let c := { crew [] with threads := List.replicate 32 { thr [] with st := .parked } }
       let s := { quietState with crews := [c], teams := [team], dbg := [{ Debug.reset 0 with dteam := 1 }] }
       s.findTeam 1 = some team ∧ team.core = 0 ∧ team.ended = false ∧ s.saving 1 = false ∧ ∀ th ∈ c.threads, th.st = .parked ∨ th.st = .exited)
    ∧ (let c := { crew [] with threads := List.replicate 32 { thr [] with st := .parked } }
       let s := { quietState with crews := [c], teams := [team], dbg := [{ Debug.reset 0 with dstat := 1, dump := some { team := 1, addr := 0 } }] }
       s.findTeam 1 = some team ∧ s.dumpReady { team := 1, addr := 0 } team = true ∧ (s.debugOf 0).waiting = []
       ∧ s.dumpReach 0 0x400 = (0x400, false) ∧ s.store.upsets = [])
    ∧ (let s := { quietState with dbg := [{ Debug.reset 0 with scheds := { Sched.reset with due := some 1 } :: List.replicate 3 Sched.reset }] }
       (s.dbg.map (·.core)).Nodup ∧ (∀ d ∈ s.dbg, d.scheds.length = 4) ∧ ((s.debugOf 0).sched 0).stopped = false ∧ ((s.debugOf 0).sched 0).due = some 1)
    ∧ (let last : DumpPart := { off := 0, len := 0xB0, pieces := [areaPiece 0 (toBytes 4 1)] }
       let d : DumpRun := { team := 1, addr := 0x10000, todo := some [last] }
       let s := { quietState with teams := [team], dbg := [{ Debug.reset 0 with dstat := 1, dump := some d }] }
       let p := { s with store := { s.store with poison := [0x100] } }
       s.dumpReady d team = true ∧ s.dumpReach 0x10000 0xB0 = (0xB0, false) ∧ p.dumpReady d team = true ∧ (p.dumpReach 0x10000 0xB0).2 = true
       ∧ (∀ q ∈ p.partPieces (p.debugOf 0) last true, q.2.2.wf = true) ∧ ({ s with teams := [] } : State).findTeam 1 = none) := by
  and_intros <;> decide +kernel

theorem witness_MailboxRequests :
    quietState.visible 1 = true ∧ (quietState.fn 1).handshake = false ∧ (quietState.fn 1).session = false ∧ (quietState.fn 1).tdisp = .unlocked
    ∧ (let s := hostState (fun h => { h with fns := h.fns.map (fun f => { f with session := true, handshake := true, tdisp := .locked }) })
       s.visible 1 = true ∧ (s.fn 1).session = true ∧ (s.fn 1).handshake = true ∧ (s.fn 1).tdisp = .locked) := by
  and_intros <;> decide +kernel

/-- One partition of all sixteen dies. -/
def goodConfig : Memory := ((Memory.writeN [] 0 4 1).writeN 4 4 1).writeN 0x10 4 (16 * 4)
/-- The ready package, and the state at reset, with an applied configuration that holds together or does not, for an image that verifies or does
not: `Config.imageVerifies` is free. -/
theorem witness_BringUp :
    (idleState id).host.ready = true ∧ State.reset.host.ready = false ∧ State.reset.host.bstat = 0
    ∧ (idleState (fun h => { h with ready := false, bstat := 1 })).host.busMaster = false
    ∧ (∀ k < 16, bit (2 ^ 16 - 1) k = true) ∧ bit 0 0 = false ∧ bit (2 ^ 32) 32 = true
    ∧ (State.numberUnits { State.reset with host := { State.reset.host with config := Memory.writeN [] 0 2 1 } } 0).cfgGood = false
    ∧ (State.numberUnits { State.reset with host := { State.reset.host with config := goodConfig } } (2 ^ 32)).cfgGood = true
    ∧ (bit (2 ^ 16 + 2 ^ 24) 16 = true ∧ bit (2 ^ 16 + 2 ^ 24) 24 = true)
    ∧ (∀ n ∈ [2, 3, 4], let s := idleState (fun h => { h with ready := false, bstat := n }); s.host.ready = false ∧ 2 ≤ s.host.bstat)
    ∧ (let s := idleState (fun h => { h with ready := false, bstat := 1, busMaster := true, imglen := 4096 })
       s.host.ready = false ∧ s.host.bstat = 1 ∧ s.host.busMaster = true ∧ 4096 ≤ s.host.imglen ∧ s.host.imglen ≤ 2 ^ 26) := by
  and_intros <;> decide +kernel

/-! ### Witnesses: the machine as a whole -/

theorem witness_DecodeEncodeAgree :
    WellFormed (.mma intMma) = true ∧ WellFormed (.add (f64 1 0 2 4)) = true
    ∧ okIs (fun p => p.1 == .add (f64 1 0 2 4) && p.2 == [7]) (decode (encode (.add (f64 1 0 2 4)) ++ [7])) = true := by
  and_intros <;> decide +kernel

theorem witness_StepKeepsSlots : BetweenSteps State.reset := by unfold BetweenSteps SlotsOnce; decide +kernel

/-- The machine after reset with add.s32 x1, x0:rot1, x0! (06) placed: its next action is the issue of it by the whole crew. -/
def placed : State := State.reset.withFetchWord 64 0x10020012_00017000
def issueIs (p : Cand → Bool) : Action → Bool
  | .issue x => p x
  | _ => false
theorem witness_StepRunsDecoded :
    let c := (placed.crews[0]?).getD default
    issueIs (fun x => x.crew == 0 && x.mask == allLanes) placed.action = true ∧ (lanesOf allLanes).head? = some 0
    ∧ okIs (· == placePa) (({ placed with freeCtr := placed.freeCtr + 1 } : State).fetchPa c (c.thread 0).pc) = true
    ∧ (placed.fetchBlock c.core placePa).isSome = true
    ∧ okIs (fun p => p.2.length == 24) (decode (((placed.fetchBlock c.core placePa).getD []).drop (placePa % 32))) = true := by
  and_intros <;> decide +kernel

theorem witness_MemoryReadsBack : (Memory.writeN [] 4 4 7).wf = true ∧ Memory.wf [] = true ∧ (0 + 4 ≤ 4 ∨ 4 + 4 ≤ 0) := by decide +kernel

theorem witness_PredicateSeven :
    (thr []).relog = none ∧ (opcodeOf (.add (f64 1 0 2 4))).isSome = true
    ∧ illegalSub (.add { f64 1 0 2 4 with h := { gp := 7, gn := 1, dst := 1 } }) = some 4 := by
  and_intros <;> decide +kernel

/-! ### Decoding: the worked encodings of the spec, and one word of each other family written out from its format -/

def srcL (code : Nat) : Src := { src code with last := 1 }
/-- The bytes decode to the instruction, and nothing is left. -/
def decodesTo (bytes : List Nat) (i : Instr) : Bool := okIs (fun p => p.1 == i && p.2.isEmpty) (decode (bytes.map (BitVec.ofNat 8)))

/-- 06: `add.s32 x1, x0:rot1, x0!`. -/
theorem test_decode_add : decodesTo [0x00, 0x70, 0x01, 0x00, 0x12, 0x00, 0x02, 0x10]
    (.add { h := hdr 1, s1 := { code := 0, last := 0, pat := 1, parm := 1 }, s2 := srcL 0, mod := 4 }) = true := by decide +kernel
/-- 08: `ld.bf16.die.rd3 x10, [x4!+16]`. -/
theorem test_decode_ld : decodesTo [0x02, 0x74, 0x0A, 0x04, 0x01, 0, 0, 0, 0, 0, 0x86, 0x06, 0, 0x10, 0, 0]
    (.ld { h := hdr 10, s1 := srcL 4, s2 := noSrc, mod := 0, s3 := noSrc, fmt := 3, pg := 0, scp := 2, rd := 3, ord := 0, sp := 0, cnt := 0, rsv := 0
           off := 16 }) = true := by decide +kernel
/-- 07: `gate 3`. -/
theorem test_decode_gate : decodesTo [0x0D, 0x72, 0xFF, 0, 0, 0, 0, 0, 3, 0, 0, 0] (.gate (f96i 255 0 0 3)) = true := by decide +kernel
/-- 09: `cvt.s32.f32.rz x7, x6!`. -/
def cvtEx : F64 := { h := hdr 7, s1 := srcL 6, s2 := src 2, mod := 0b011100 }
theorem test_decode_cvt : decodesTo [0x48, 0x78, 0x07, 0x06, 0x01, 0x04, 0x00, 0x70] (.cvt cvtEx) = true := by decide +kernel
/-- 10: `mma.bf16.bf16.ap16.bp16 a3, c1, c2`. -/
theorem test_decode_mma : decodesTo [0x02, 0x7C, 0xDB, 0x81, 0, 0x04, 0x01, 0, 0, 0, 0, 0, 0xCC, 0, 0x81, 0]
    (.mma (f128x 0xDB 129 130 0 0 0x204033)) = true := by decide +kernel
/-- 12: `mmag.fp4b24.fp4b24 a0, x20, th(c2)[x16, x17], c3, c4`. -/
theorem test_decode_mmag : decodesTo [0x06, 0x7C, 0xD8, 0x14, 0, 0x04, 0x01, 0, 0x10, 0, 0x06, 0x01, 0xDC, 0x05, 0, 0x10]
    (.mmag (f128x 0xD8 20 130 16 131 0x4000177)) = true := by decide +kernel
/-- 13: `swr 0x012, x4`; 15: `tlbinv.pkg x4, x6`; 16: `(p2) eret 1` and `(!p2) eret 2`. -/
theorem test_decode_swr : decodesTo [0x05, 0x7E, 0xFF, 0x04, 0, 0, 0, 0, 0x12, 0, 0, 0] (.swr (f96i 255 4 0 0x12)) = true := by decide +kernel
theorem test_decode_tlbinv : decodesTo [0x08, 0x7E, 0xFF, 0x04, 0, 0x0C, 0, 0x14] (.tlbinv (f64 255 4 6 5)) = true := by decide +kernel
theorem test_decode_eret :
    decodesTo [0x2C, 0x2E, 0xFF, 0xE1, 0, 0, 0, 0] (.eret { f64 255 0xE1 0 0 with h := { gp := 2, gn := 0, dst := 255 } }) = true
    ∧ decodesTo [0x2C, 0xAE, 0xFF, 0xE2, 0, 0, 0, 0] (.eret { f64 255 0xE2 0 0 with h := { gp := 2, gn := 1, dst := 255 } }) = true := by
  and_intros <;> decide +kernel
/-- 07: `(p1) call` of −6 words. -/
theorem test_decode_call : decodesTo [0x05, 0x12, 0xFF, 0, 0, 0, 0, 0, 0xFA, 0xFF, 0xFF, 0xFF]
    (.call { f96i 255 0 0 0xFFFFFFFA with h := { gp := 1, gn := 0, dst := 255 } }) = true := by decide +kernel
/-- 11: `wait p3, mem.eq.w4.pkg(x4, x8, 1), time(x9)`. -/
theorem test_decode_wait : decodesTo [0x02, 0x73, 0xCB, 0x04, 0, 0x10, 0, 0, 0xE1, 0, 0x12, 0, 0xAC, 0, 0x14, 0]
    (.wait (f128x 0xCB 4 8 225 9 0x5002B)) = true := by decide +kernel
/-- 12: `(p3) barr.clus`; 19: `aadd.n32.die`. -/
theorem test_decode_barr : decodesTo [0xCA, 0x34, 0xFF, 0x1E, 0, 0xC2, 0x01, 0, 0, 0, 0x40, 0, 0, 0, 0, 0]
    (.barr { f128m 255 30 225 0 0 0 1 0 0 with h := { gp := 3, gn := 0, dst := 255 }, rd := 0 }) = true := by decide +kernel
theorem test_decode_aadd : decodesTo [0x42, 0x74, 0xFF, 0x02, 0, 0xC2, 0x01, 0, 0, 0, 0x9A, 0x04, 0, 0, 0, 0]
    (.aadd (f128m 255 2 225 0 0 13 2 0 0)) = true := by decide +kernel
/-- 19: `(p0) tcopy sp(x24), flat, [x6], bar(x23)`. -/
theorem test_decode_tcopy : decodesTo [0x42, 0x0C, 0xFF, 0x06, 0, 0, 0, 0, 0x18, 0, 0x2E, 0, 0x40, 0, 0, 0]
    (.tcopy { f128x 255 6 0 24 23 0x10 with h := { gp := 0, gn := 0, dst := 255 } }) = true := by decide +kernel
/-- R127: the pad word 0x0000_0003. -/
theorem test_decode_pad : decodesTo [3, 0, 0, 0] .padWord = true := by decide +kernel

/-! ### Ill-formed encodings: each check refuses one (R135) -/

def refuses (bytes : List Nat) (sub : Nat) : Bool :=
  match decode (bytes.map (BitVec.ofNat 8)) with | .error (.illegal n) => n == sub | _ => false
/-- Sub-cause 1: a LEN of 3 that is not the pad word. 2: an opcode that no row has. 3: an opcode in another format's length. -/
theorem test_illegal_words :
    refuses [7, 0, 0, 0] 1 = true ∧ refuses [0xFC, 0x7F, 0, 0, 0, 0, 0, 0] 2 = true ∧ refuses [0x01, 0x70, 1, 0, 0, 0, 0, 0, 0, 0, 0, 0] 3 = true := by
  and_intros <;> decide +kernel
/-- 4: the guard "not p7". 5: a source code that nothing has. 6: a destination of another class, an odd pair. 7: an unassigned MOD.
8: an unused source field. -/
theorem test_ill_formed :
    illegalSub (.add { f64 1 0 2 4 with h := { gp := 7, gn := 1, dst := 1 } }) = some 4
    ∧ illegalSub (.add (f64 1 218 2 4)) = some 5 ∧ illegalSub (.add (f64 200 0 2 4)) = some 6 ∧ illegalSub (.add (f64 1 0 2 6)) = some 6
    ∧ illegalSub (.adda (f64 2 4 6 7)) = some 7 ∧ illegalSub (.mov (f64 1 0 2 0)) = some 8
    ∧ ∀ i ∈ [Instr.add { f64 1 0 2 4 with h := { gp := 7, gn := 1, dst := 1 } }, 
        .add (f64 1 218 2 4), .add (f64 200 0 2 4), .add (f64 1 0 2 6), .adda (f64 2 4 6 7),
        .mov (f64 1 0 2 0), .nopCommand 0 0], WellFormed i = false := by
  and_intros <;> decide +kernel

/-! ### One instruction at a time, against values that the spec prints or that follow by hand -/

/-- The instruction answers a next state with a property. -/
def runs (i : Instr) (s : State) (p : State → Bool) : Bool :=
  match exec i s with
  | .next t => p t
  | _ => false
/-- Register n of lane l of the first crew; an unmapped one reads 0. -/
def regIn (s : State) (l n : Nat) : Nat :=
  match (((s.crews[0]?).getD default).thread l).reg? n with
  | some r => r.v.toNat
  | none => 0
def threadIn (s : State) (l : Nat) : Thread := ((s.crews[0]?).getD default).thread l
/-- One lane, with some registers. -/
def lane (l : List (Nat × Nat)) : State := st1 (l.map (fun p => reg p.1 p.2))

/-- 09: x6 = 0xC02C_CCCD (−2.7) gives x7 = 0xFFFF_FFFE, releases x6, and sets NX (bit 4); the PC has moved past the word. -/
theorem test_cvt : runs (.cvt cvtEx) (lane [(6, 0xC02CCCCD)]) (fun t => regIn t 0 7 == 0xFFFFFFFE && ((threadIn t 0).reg? 6).isNone
    && (threadIn t 0).flags == 16 && (threadIn t 0).pc == 0x400008) = true := by decide +kernel
/-- 07: the worked `wsh.dn.m x5, x4, x4, x6`. -/
theorem test_wsh : runs (.wsh (f96t 5 4 4 6 2 0)) (lane [(4, 0x80000001), (6, 4)]) (fun t => regIn t 0 5 == 0x18000000) = true := by decide +kernel
/-- R144: 2^31 − 1 + 1 wraps, or is clamped with SAT; the other lanes do not execute. -/
theorem test_add_wraps : runs (.add (f64 1 0 2 4)) (lane [(0, 0x7FFFFFFF), (2, 1)]) (fun t => regIn t 0 1 == 0x80000000 && regIn t 1 1 == 0) = true := by
  decide +kernel
theorem test_add_saturates : runs (.add (f64 1 0 2 12)) (lane [(0, 0x7FFFFFFF), (2, 1)]) (fun t => regIn t 0 1 == 0x7FFFFFFF) = true := by decide +kernel
/-- R145: −7 / 2 is −3 remainder −1; a zero divisor gives all ones and DZ (bit 1). -/
theorem test_div : runs (.div (f64 1 0 2 4)) (lane [(0, 0xFFFFFFF9), (2, 2)]) (fun t => regIn t 0 1 == 0xFFFFFFFD) = true := by decide +kernel
theorem test_rem_zero : runs (.rem (f64 1 0 2 4)) (lane [(0, 9)]) (fun t => regIn t 0 1 == 9 && (threadIn t 0).flags.getLsbD 1) = true := by decide +kernel
/-- R146: a shift by the width gives 0; SAR keeps the sign. -/
theorem test_shl_width : runs (.shl (f64 1 0 2 0)) (lane [(0, 1), (2, 32)]) (fun t => regIn t 0 1 == 0) = true := by decide +kernel
theorem test_sar_width : runs (.sar (f64 1 0 2 0)) (lane [(0, 0x80000000), (2, 40)]) (fun t => regIn t 0 1 == 0xFFFFFFFF) = true := by decide +kernel
/-- R147: a pair and a negative offset times 64. -/
theorem test_adda : runs (.adda (f64 2 4 6 6)) (lane [(4, 0), (5, 1), (6, 0xFFFFFFFF)]) (fun t => regIn t 0 2 == 0xFFFFFFC0 && regIn t 0 3 == 0) = true := by
  decide +kernel
/-- R148: four bits from bit 4, as a signed field. -/
theorem test_bfx : runs (.bfx (f96t 1 0 0 0 2 (4 + 4 * 64))) (lane [(0, 0xF0)]) (fun t => regIn t 0 1 == 0xFFFFFFFF) = true := by decide +kernel
/-- R151, R36: signed −1 < 1 into p2; a write to p7 is discarded. -/
theorem test_setp : runs (.setp (f64 202 0 2 (4 + 2 * 8))) (lane [(0, 0xFFFFFFFF), (2, 1)]) (fun t => (threadIn t 0).preds == 4) = true := by decide +kernel
/-- R194: 1 + 2^-24 in FP32 is inexact and rounds to 1; 1 / 0 is infinite with DZ; the root of 4. -/
theorem test_fadd : runs (.fadd (f64 1 0 2 0)) (lane [(0, 0x3F800000), (2, 0x33800000)]) (fun t => regIn t 0 1 == 0x3F800000 && (threadIn t 0).flags == 16) = true := by
  decide +kernel
theorem test_fdiv_zero : runs (.fdiv (f64 1 0 2 0)) (lane [(0, 0x3F800000)]) (fun t => regIn t 0 1 == 0x7F800000 && (threadIn t 0).flags.getLsbD 1) = true := by
  decide +kernel
theorem test_fsqrt : runs (.fsqrt (f64 1 0 0 0)) (lane [(0, 0x40800000)]) (fun t => regIn t 0 1 == 0x40000000) = true := by decide +kernel
/-- R154: FLCLR gives the flags and clears the mask. -/
theorem test_flclr : runs (.flclr (f64 1 0 0 0)) (stWith iss1 (crewWith [reg 0 31] (fun t => { t with flags := 0x50 })))
    (fun t => regIn t 0 1 == 0x50 && (threadIn t 0).flags == 0x40) = true := by decide +kernel
/-- R156, R157: a CALL of 16 words keeps its return address. -/
theorem test_call : runs (.call (f96i 255 0 0 16)) (lane []) (fun t => (threadIn t 0).pc == 0x400040 && (threadIn t 0).stack == [0x40000C]
    && (threadIn t 0).depth == 1) = true := by decide +kernel
/-- R157: a RET with an empty stack takes RET_EMPTY: the crew is parked at its PC. -/
theorem test_ret_empty : runs (.ret (f64 255 0 0 0)) (lane []) (fun t => (threadIn t 0).st == .parked && (threadIn t 0).pc == 0x400000
    && (t.cp.faultQ.map (·.cause)) == [.retEmpty]) = true := by decide +kernel
/-- R159: EXIT of one lane. -/
theorem test_exit : runs (.exit (f64 255 0 0 0)) (lane []) (fun t => (threadIn t 0).st == .exited && (threadIn t 1).st == .ready) = true := by decide +kernel
/-- R161: TRAP carries its operand. -/
theorem test_trap : runs (.trap (f64 255 0 0 0)) (lane [(0, 0x12345)]) (fun t => (t.cp.faultQ.map (fun r => (r.cause, r.info))) == [(.userTrap, 0x2345)]) = true := by
  decide +kernel
/-- R173: a load of scratch leaves x8 pending, and one access of 4 bytes. -/
theorem test_ld : runs (.ld (f128m 8 0 0 0 0 0 0 0 1)) memState (fun t => (t.accs.map (fun a => a.units.map (fun u => (u.loc, u.size)))) == [[(.scr 1 64, 4)]]
    && (((threadIn t 0).reg? 8).map (·.pend)) == some true) = true := by decide +kernel
/-- R173: an address that its size does not divide takes MISALIGN. -/
theorem test_ld_misaligned : runs (.ld (f128m 8 4 0 0 0 0 0 0 1)) memState (fun t => (t.cp.faultQ.map (·.cause)) == [.misalign] && t.accs == []) = true := by
  decide +kernel
/-- R187: BINIT with a count of 5: the count and the pending count, and the load completes. -/
theorem test_binit :
    let a := { acc (.binit (f128m 255 0 4 0 0 0 0 0 1)) .bar [unit (.scr 1 64) 16 0] with vals := [64, 5] }
    runs (.loadComplete 9 0) (accState a) (fun t => t.accs == [] && ((t.teams.map (fun x => x.scr.readN 64 16)) == [5 * 2 ^ 16 + 5 * 2 ^ 32])) = true := by
  decide +kernel
/-- R256: SWR 0x012 writes CTX.WAYQ (13: 0x8C6C). -/
theorem test_swr : runs (.swr (f96i 255 4 0 0x12)) { privState with crews := [crew [reg 4 0x8C6C]] }
    (fun t => (t.ctxs.map (·.wayq.toNat)) == [0x8C6C]) = true := by decide +kernel
/-- R247: at user level it takes PRIV_OP, and the register keeps its value. -/
theorem test_swr_user : runs (.swr (f96i 255 4 0 0x12)) { privState with teams := [team].map (fun x => { x with level := 0 }) }
    (fun t => (t.ctxs.map (·.wayq.toNat)) == [0xCCCC] && (t.cp.faultQ.map (·.cause)) == [.privOp]) = true := by decide +kernel
/-- R268: ERET without a claim takes ERET_NONE. -/
theorem test_eret_none : runs (.eret (f64 255 4 0 0)) privState (fun t => (t.cp.faultQ.map (·.cause)) == [.eretNone]) = true := by decide +kernel
/-- 14: the LFSR of core 5 steps from 6 to 12 and names core 12. -/
theorem test_steal : runs (.stealRequest 5) (launched launchTm []) (fun t => (t.queueEngine 5).lfsr == 12 && (t.queueEngine 5).asked == some 12) = true := by
  decide +kernel
/-- 17: physical address 0x0_0012_3401_0400 lies in slice 55 with SEED 0, and in slice 11 with SEED 0xFF. -/
theorem test_slice : sliceOf 0x12_3401_0400 0 = 55 ∧ sliceOf 0x12_3401_0400 0xFF = 11 := by and_intros <;> decide +kernel
/-- 16: DW0 of the record that R318 prints. -/
theorem test_record : (quietState.recDws { oneRec with serial := 0x123, crew := 2, ctx := 3, core := 17, info := 7, pc := 0x400300, lmask := 1 } 5 41).map (fun v => v)
    = [0x50010, 0x1_00001232, 0x400300, 0, 7, 41, 0x11003, 0] := by decide +kernel
/-- The step after a placed word runs it: the whole crew has issued `add.s32 x1, x0:rot1, x0!`. -/
theorem test_step_runs : (match step placed with
    | .next t => (t.crews.map (fun c => c.threads.map (fun h => h.pc.toNat))) == [List.replicate 32 0x10008]
    | _ => false) = true := by decide +kernel

end Sys2Proof.Tests
end

section
/-! R36: predicate register 7, in a thread's predicates, in a guard, in a predicate selector and in the encoding. -/
namespace Sys2Proof.Machine

/-- R36: a write to p7 is discarded. -/
theorem Thread.setPred_seven (t : Thread) (v : Bool) : t.setPred 7 v = t := rfl

/-- The mask that a write of one predicate uses. -/
theorem getLsbD_predBit (n k : Nat) (hk : k < 8) : (BitVec.ofNat 8 (2 ^ n)).getLsbD k = decide (k = n) := by
  rw [BitVec.getLsbD_ofNat, Nat.testBit_two_pow, decide_eq_true hk, Bool.true_and, decide_eq_decide]
  exact eq_comm

/-- R36: p0 to p6 read after a write, the written one and the others. -/
theorem Thread.setPred_preds_getLsbD (t : Thread) (n k : Nat) (v : Bool) (hn : n < 7) (hk : k < 8) :
    (t.setPred n v).preds.getLsbD k = if k = n then v else t.preds.getLsbD k := by
  have hn7 : (n == 7) = false := beq_false_of_ne (by omega)
  unfold Thread.setPred
  rw [hn7]
  cases v with
  | false =>
    change (t.preds &&& ~~~(BitVec.ofNat 8 (2 ^ n))).getLsbD k = _
    rw [BitVec.getLsbD_and, BitVec.getLsbD_not, getLsbD_predBit n k hk]
    by_cases h : k = n <;> simp [hk, h]
  | true =>
    change (t.preds ||| BitVec.ofNat 8 (2 ^ n)).getLsbD k = _
    rw [BitVec.getLsbD_or, getLsbD_predBit n k hk]
    by_cases h : k = n <;> simp [h]

/-- A lane belongs to the guard when the bundle holds it and its guard is true or it performs the instruction again (R143, R173). -/
theorem guardMask_getLsbD (c : Crew) (mask : Mask) (h : Hdr) (l : Nat) :
    (guardMask c mask h).getLsbD l = (mask.getLsbD l &&
      ((c.thread l).relog.isSome || ((h.gp == 7 || (c.thread l).preds.getLsbD h.gp.toNat) != (h.gn == 1)))) := by
  unfold guardMask
  rw [maskOf_getLsbD _ (fun x hx => lanesOf_lt mask x (List.mem_filter.mp hx).1), Bool.eq_iff_iff]
  simp only [List.contains_iff_mem, List.mem_filter, mem_lanesOf, Bool.and_eq_true]

/-- A lane that does not perform an instruction again reads its sources from its registers. -/
theorem readLane_of_relog_none (s : State) (c : Crew) (mask : Mask) (srcs : List (Use × Src)) (l : Nat) (h : (c.thread l).relog = none) :
    readLane s c mask srcs l = joinReads (srcs.map (fun p => readSrc s c mask l p.1 p.2)) := by
  unfold readLane
  rw [h]

/-- R36, R152: the selector of p7, not negated, reads true in every lane. -/
theorem readSrc_sel_seven (s : State) (c : Crew) (mask : Mask) (x : Src) (l : Nat) (hx : x.code = 7) :
    (readSrc s c mask l .sel x).vals = [1] := by
  simp [readSrc, hx, bit, ofBool]

/-- Every instruction that has an encoding has a shape. -/
theorem shape_isSome_of_opcodeOf {i : Instr} {p : Nat × Fields} (h : opcodeOf i = some p) : (shape i).isSome = true := by
  have same : (shape i).isSome = (opcodeOf i).isSome := by cases i <;> rfl
  rw [same, h, Option.isSome_some]

/-- The rules of a shape give no sub-cause below 5. -/
theorem Shape.sub_ne_four (p : Shape) (d : Nat) : p.sub d ≠ some 4 := by
  unfold Shape.sub
  split_ifs <;> simp

/-- R36, R135: sub-cause 4 is that of the guard "not p7", and of no other encoding. -/
theorem illegalSub_eq_four_iff {i : Instr} {op : Nat} {f : Fields} (h : opcodeOf i = some (op, f)) :
    illegalSub i = some 4 ↔ f.hdr.gn = 1 ∧ f.hdr.gp = 7 := by
  obtain ⟨p, hp⟩ := Option.isSome_iff_exists.mp (shape_isSome_of_opcodeOf h)
  simp only [illegalSub, h, hp, Bool.and_eq_true, beq_iff_eq]
  by_cases hg : f.hdr.gn = 1 ∧ f.hdr.gp = 7
  · simp only [hg, and_self, if_true]
  · simp only [hg, if_false, p.sub_ne_four]

/-- Settles O60 (R36): p7 as a destination, as a guard, as a selector and in the check of an encoding. -/
theorem predicateSeven : Obligations.PredicateSeven := by
  unfold Obligations.PredicateSeven
  refine ⟨Thread.setPred_seven, Thread.setPred_preds_getLsbD, ?guard, ?selector, ?encoding⟩
  case guard =>
    intro c mask h l hrelog
    simp only [guardMask_getLsbD, hrelog, Option.isSome_none, Bool.false_or, beq_eq_decide]
  case selector =>
    intro s c mask x l hrelog hx
    rw [readLane_of_relog_none s c mask _ l hrelog]
    simp [joinReads, readSrc_sel_seven s c mask x l hx]
  case encoding =>
    intro i op f h
    exact ⟨(illegalSub_eq_four_iff h).mpr, (illegalSub_eq_four_iff h).mp⟩

end Sys2Proof.Machine
end

section
/-! R147: the address that ADDA forms, and the MOD values that make it ILLEGAL. -/
namespace Sys2Proof.Machine

/-- An instruction that `runLane` issues, with no further effect on thread or crew, obeys the lane law of its operation. -/
theorem laneLaw_of_exec_eq_runLane {i : Instr} {o : LaneOp} (hexec : ∀ s, exec i s = runLane o s) (hpost : o.post = fun _ t => t)
    (hcpost : o.cpost = fun _ c => c) : LaneLaw i o.h o.srcs o.k o.len o.coll o.f := by
  intro s iss c hruns
  rw [hexec]
  exact runLane_done o s iss c hpost hcpost hruns

theorem exec_adda (f : F64) (s : State) : exec (.adda f) s = runLane (addaOp f) s := rfl

/-- A shape whose MOD value is not assigned gives a sub-cause: 7, or a lower one that it breaks too (R135). -/
theorem Shape.sub_ne_none_of_bad7 {p : Shape} (h : p.bad7 = true) (d : Nat) : p.sub d ≠ none := by
  unfold Shape.sub
  rw [h, Bool.true_or, if_pos rfl]
  split_ifs <;> simp

/-- R135: a MOD value that is not assigned makes the encoding ILLEGAL, whatever its guard. -/
theorem illegalSub_ne_none_of_bad7 {i : Instr} {op : Nat} {f : Fields} {p : Shape} (hop : opcodeOf i = some (op, f))
    (hshape : shape i = some p) (h : p.bad7 = true) : illegalSub i ≠ none := by
  simp only [illegalSub, hop, hshape]
  split_ifs
  · simp
  · exact p.sub_ne_none_of_bad7 h _

/-- Settles O3 (R147): the address is the lane law of ADDA's operation; the MOD values are those that its shape does not assign. -/
theorem addressFormation : Obligations.AddressFormation := by
  unfold Obligations.AddressFormation
  intro f
  refine ⟨?address, fun hmod => ?illegal⟩
  case address => exact laneLaw_of_exec_eq_runLane (o := addaOp f) (exec_adda f) rfl rfl
  case illegal =>
    have hbad : (field f.mod.toNat 0 3 == 7 || field f.mod.toNat 4 2 != 0) = true := by
      simpa only [Bool.or_eq_true, beq_iff_eq, bne_iff_ne] using hmod
    exact illegalSub_ne_none_of_bad7 (i := .adda f) rfl rfl hbad

end Sys2Proof.Machine
end
